-- ==== Sys2Proof/Word.lean ====
section
/-! DEFINITION. The word types of the machine and their plainest arithmetic (00 R8, R9; 01 R28). -/

namespace Sys2Proof

/-- The basic word of 64 bits (R28). -/
abbrev Word := BitVec 64

/-- One byte of memory (R28). -/
abbrev Byte := BitVec 8

/-- The contents of a vector register: 512 bits (R13, R16). -/
abbrev Vec := BitVec 512

/-- The word of a natural number, modulo 2^64. -/
def Word.ofNat (n : Nat) : Word := BitVec.ofNat 64 n

/-- The word of an integer, modulo 2^64. -/
def Word.ofInt (n : Int) : Word := BitVec.ofInt 64 n

/-- The word whose value is 1 or 0. -/
def Word.ofBool (b : Bool) : Word := if b then 1#64 else 0#64

end Sys2Proof
end

