-- ==== Sys2Proof/Syntax.lean ====
section
/-! DEFINITION. The instructions: one constructor for every row of spec/opcode_table.json.
The first 132 constructors are the event rows: what a unit of the device other than a thread does in one indivisible
step, or what the outside does to the device. An event has no encoding; its arguments name the unit, and carry what
comes from outside the chip. The other 313 are the instruction forms (02 R55-R57 and the entries' field tables); each
carries its guard, its register fields and its modifier fields, already separated from their bits. -/

namespace Sys2Proof

/-- A guard field (R15): 0 is unconditional, 1 to 7 name p1 to p7. -/
abbrev Guard := BitVec 3
/-- A predicate register number p0-p7 (R13). -/
abbrev PReg := BitVec 3
/-- A vector register number v0-v7 (R13). -/
abbrev VReg := BitVec 3
/-- A mask register number m0-m3 (R13). -/
abbrev MReg := BitVec 2
/-- A stream register: `i` names v(4 + i) (R17). -/
abbrev SReg := BitVec 2
/-- A pass port x0-x3 (R18, R223). -/
abbrev Port := BitVec 2

/-- What a 5-bit field that names a general register can name (R18). Code 31 names nothing. -/
inductive Reg where
  | g (n : Fin 24)
  | x (n : Fin 4)
  | lw
  | le
  | z
deriving DecidableEq, Repr

/-- The element and operand types of R51. -/
inductive Ty where
  | f16 | bf16 | f32 | f64 | i8 | i16 | i32 | i64 | n8 | n16 | n32 | n64
deriving DecidableEq, Repr

/-- The rounding mode an encoding selects (R50): one of the four, or `dyn`, taken from fpctl.RM. -/
inductive Rm where
  | rne | rtz | rup | rdn | dyn
deriving DecidableEq, Repr

/-- The order suffixes (R268). -/
inductive Ord where
  | rlx | acq | rel | ar
deriving DecidableEq, Repr

/-- The scopes (R248, R268). -/
inductive Scope where
  | core | die | fab | sys
deriving DecidableEq, Repr

/-- What qbind makes of a port (R200, R223). -/
inductive PortMode where
  | unbind
  | read (q : BitVec 4)
  | write (q : BitVec 4)
deriving DecidableEq, Repr

/-- The dimensions of a copy (R340). -/
inductive Dim where
  | d1 | d2 | d3
deriving DecidableEq, Repr

/-- The operations of sigupd (R437) and of a SIGNAL packet (R197). -/
inductive SigOp where
  | st | add | or
deriving DecidableEq, Repr

/-- The comparisons of sigwait (R437) and of a WAIT packet (R196), all unsigned. -/
inductive Cmp where
  | ge | eq | ne | lt
deriving DecidableEq, Repr

/-- The semaphore fields of a TD tail (R45, R48). -/
structure Td where
  ws : BitVec 8
  wt : BitVec 8
  ss : BitVec 8
  si : BitVec 4
deriving DecidableEq, Repr

/-! ### What events carry from outside the chip -/

/-- The operations of an atomic (R268, R269). -/
inductive AmoOp where
  | add | and | or | xor | min | max | swap | cas
deriving DecidableEq, Repr

/-- The synchronising forms (R262). -/
inductive SyncOp where
  | ldsync | keep | stsync | stfill | feset | feclr | feread
deriving DecidableEq, Repr

/-- What a request asks of the memory it reaches (R243, R266, R450, R454, R455). -/
inductive Access where
  | read (size : Nat)
  /-- Bytes of `data` whose bit of `en` is set. -/
  | write (data : Vec) (en : BitVec 64)
  /-- An atomic on 32 or 64 bits, signed or not, at scope .sys or not, with its operand and its compare value. -/
  | amo (op : AmoOp) (wide signed sys : Bool) (b c : Word)
  | sync (op : SyncOp) (data : Word)
  | signal (op : SigOp) (v : Word)
  | lzres (target : Word)
  | lzrel (token : Word)
deriving DecidableEq, Repr

/-- What another chip or the host answers: bytes, or the refusal codes 0x20 and 0x21 (R245). -/
inductive ExtReply where
  | data (bytes : List Byte)
  | err (link : Bool)
deriving DecidableEq, Repr

/-- How a direct AtomicOp completes (R272). -/
inductive AtomicReply where
  | old (v : Word)
  /-- Unsupported Request or Completer Abort. -/
  | refused
  /-- No path, or the completion timed out. -/
  | noPath
deriving DecidableEq, Repr

/-- Where a request that reaches a home agent comes from (R243): the chip's own list, or another chip. -/
inductive HomeSource where
  | own (n : Nat)
  /-- An access of another chip to this chip's local DRAM, with that chip's tag for its answer; sealed or not (R476). -/
  | chip (chip tag : Nat) (addr : Nat) (acc : Access) (isSealed : Bool)
deriving DecidableEq, Repr

/-- The source of a request to a landing slot (R450, R454): one of the own chip's requests, or another chip with its tag
for the answer. -/
inductive FabSource where
  | own (n : Nat)
  | chip (chip tag : Nat)
deriving DecidableEq, Repr

/-- An invocation packet (R441): header word, g0-g5, source chip and context, the sender's tag for the answer,
whether the source context is sealed, and the number of tiles of a card (R446), 0 for a packet without one. -/
structure InvPacket where
  chip : Nat
  ctx : Nat
  tag : Nat
  header : Word
  args : List Word
  sealedCtx : Bool
  tiles : Nat
deriving DecidableEq, Repr

/-- A landing-zone segment of 4 KiB (R451): its sender, the copy it belongs to (`stream`), its number in the copy,
the copy's number of segments, the byte offset in the slot, and the card entry it serves (R446). -/
structure LzSegment where
  chip : Nat
  stream : Nat
  token : Word
  seg : Nat
  total : Nat
  off : Nat
  card : Option Nat
  data : List Byte
deriving DecidableEq, Repr

/-- A signal update (R455): one of the own chip's requests, or a packet of another chip. -/
inductive SigSource where
  | own (n : Nat)
  | chip (chip tag : Nat) (addr : Nat) (op : SigOp) (v : Word) (isSealed : Bool)
deriving DecidableEq, Repr

/-- The destination the plinth chooses for a move (R385): the physical core of each virtual core, and the physical
slice of each context slice. -/
structure Placement where
  cores : List Nat
  slices : List Nat
deriving DecidableEq, Repr

/-- The plinth puts a saved context back: where, and whether the tags of its save area verify (R383, R476). -/
structure Restore where
  place : Placement
  tags : Bool
deriving DecidableEq, Repr

/-- A write of the host to a register: its size in bytes and its value (R422). -/
structure HostWrite where
  size : Nat
  value : Word
deriving DecidableEq, Repr

/-- Where a hardware error was detected (R411, R412). -/
inductive HwUnit where
  /-- An SRAM word by its physical byte address. -/
  | sram (addr : Nat)
  /-- A DRAM word by its local byte address. -/
  | dram (addr : Nat)
  | core (n : Nat)
  | me (cluster : Nat)
  | ce (cluster : Nat)
  | kse (cluster : Nat)
  | port (n : Nat)
deriving DecidableEq, Repr

/-- A detected error: the unit, whether two bits of a word are in error (of a core: whether its state does not read back
whole, R412), and whether the one retry fails (R411). -/
structure HwError where
  unit : HwUnit
  twoBits : Bool
  lasting : Bool
deriving DecidableEq, Repr

/-- The content of a link-control flit (R431, R433). -/
inductive LinkControl where
  /-- Every flit before this sequence number has arrived. -/
  | ack (next : Nat)
  /-- Replay from this sequence number. -/
  | replay (seq : Nat)
  /-- During training, the sender's own chip number. -/
  | announce (chip : Nat)
deriving DecidableEq, Repr

/-- The armature table as the ROM reads it (R470): plinth width, ranks of clusters 0-65, the eight points of each curve (one for
clusters 64 and 65) as frequency in MHz and voltage in mV, the firmware role of each plinth core, the device certificate. -/
structure Armature where
  width : Nat
  ranks : List Nat
  curves : List (List (Nat × Nat))
  roles : List Nat := []
  cert : List Byte := []
deriving DecidableEq, Repr

/-- What the boot ROM finds (R469 steps 1 to 4): whether the fuses read, the signatures hold, and the armature's contents. -/
structure RomFinding where
  fuses : Bool
  armatureSig : Bool
  armature : Armature
  imageA : Bool
  imageB : Bool
deriving DecidableEq, Repr

/-- What the plinth finds at step 6 of R469: DRAM and host link train or not, and of each port the chip announced
beyond it, or none where it does not train. It also holds the routing table (R434), QTBASE and DUMPBASE it loads, and the
AtomicOp Requester Enable the host sets in the link's Device Control 2 register (R271, R457). -/
structure BringUp where
  dram : Bool
  host : Bool
  atomicEnable : Bool
  routes : List Nat
  ports : List (Option Nat)
  /-- The root table of device-private memory (R238). -/
  droot : Option Word
  qtbase : Word
  dumpbase : Word
deriving DecidableEq, Repr

/-- What the runtime and the plinth give a new context (R161, R227-R234, R238, R296, R341, R367, R395), with the handlers of
its objects (R439). -/
structure CtxSpec where
  num : Nat
  tenant : Nat
  sealedCtx : Bool
  place : Placement
  /-- Where the rights table and the slice protection table lie in local DRAM, if the runtime keeps them there (R233, R234). -/
  tables : Option (Nat × Nat)
  /-- The 128 KiB frames of local DRAM that the runtime gives it (R475). -/
  frames : List Nat
  /-- Domain of each listed slice granule, and rights byte of each listed domain. -/
  granules : List (Nat × BitVec 16)
  rights : List (Nat × Byte)
  trbase : Word
  trlog : Nat
  hpc : Word
  hprio : Nat
  hset : List Nat
  hwdt : Nat
  preempt : Bool
  wakeRight : Bool
  /-- Owner of each listed tile: cluster, tile, core; none for the default owners (R296); and owned projection bank entries: cluster, entry. -/
  tiles : Option (List (Nat × Nat × Nat))
  bank : List (Nat × Nat)
  /-- The root table of its tenant window (R238), where it is set now. -/
  root : Option Word
  /-- Handler index and the entry's two words. -/
  handlers : List (Nat × Word × Word)
deriving DecidableEq, Repr

/-- An instruction form or an event: a row of the opcode table. -/
inductive Instr where
  /-- LINE_FETCH_COMPLETE (R187). -/
  | lineFetchComplete (core slot : Nat) (ext : Option ExtReply)
  /-- SYNC_ATTEMPT (R264). -/
  | syncAttempt (core slot : Nat)
  /-- SYNC_ATTEMPT_RESULT (R264). -/
  | syncAttemptResult (core slot : Nat)
  /-- ATOMIC_UNIT_STEP (R266). -/
  | atomicUnitStep (n : Nat)
  /-- RELEASE_COMPLETE (R255). -/
  | releaseComplete (core slot : Nat)
  /-- SFU_REQUEST_START (R152). -/
  | sfuRequestStart (core : Nat)
  /-- SFU_REQUEST_COMPLETE (R152). -/
  | sfuRequestComplete (core : Nat)
  /-- DIVIDER_COMPLETE (R96). -/
  | dividerComplete (core slot : Nat)
  /-- STREAM_READ_AHEAD (R156). -/
  | streamReadAhead (core slot sreg : Nat) (ext : Option ExtReply)
  /-- JOIN_REEVALUATE (R206). -/
  | joinReevaluate (core slot : Nat)
  /-- MSEND_ARRIVAL (R215). -/
  | msendArrival (n : Nat)
  /-- MESSAGE_DELIVERY (R188). -/
  | messageDelivery (n : Nat)
  /-- SEMAPHORE_CYCLE_UPDATE (R219). -/
  | semaphoreCycleUpdate (core : Nat)
  /-- PARKED_INSTRUCTION_RETRY (R176). -/
  | parkedInstructionRetry (core slot : Nat)
  /-- WAIT_LIMIT_EXPIRY (R24). -/
  | waitLimitExpiry (core slot : Nat)
  /-- LINK_WORD_ARRIVAL (R177). -/
  | linkWordArrival (core : Nat) (east : Bool)
  /-- ME_JOB_START (R304). -/
  | meJobStart (cluster : Nat)
  /-- ME_JOB_COMPLETE (R305). -/
  | meJobComplete (cluster : Nat)
  /-- ME_IDLE_GATE (R309). -/
  | meIdleGate (cluster : Nat)
  /-- ME_WAKE_COMPLETE (R310). -/
  | meWakeComplete (cluster : Nat)
  /-- RETRIEVER_CYCLE (R174). -/
  | retrieverCycle (core : Nat)
  /-- COPY_START (R325). -/
  | copyStart (cluster core : Nat)
  /-- COPY_GRANULE_COUNT (R332). -/
  | copyGranuleCount (cluster core id unit : Nat) (ext : Option ExtReply)
  /-- COPY_COMPLETE (R336). -/
  | copyComplete (cluster core id : Nat)
  /-- COPY_END_FAULT (R338). -/
  | copyEndFault (cluster core id : Nat)
  /-- KSE_COMMAND_START (R348). -/
  | kseCommandStart (cluster : Nat)
  /-- KSE_COMMAND_COMPLETE (R349). -/
  | kseCommandComplete (cluster : Nat)
  /-- RINV_ANSWER (R442). -/
  | rinvAnswer (core slot answer : Nat)
  /-- INVOCATION_ARRIVAL (R442). -/
  | invocationArrival (pkt : InvPacket)
  /-- LZRES_ARRIVAL (R450). -/
  | lzresArrival (src : FabSource) (target : Word)
  /-- LZREL_ARRIVAL (R454). -/
  | lzrelArrival (src : FabSource) (token : Word)
  /-- LZ_SEGMENT_ARRIVAL (R452). -/
  | lzSegmentArrival (seg : LzSegment)
  /-- LZ_TORN_TIMEOUT (R449). -/
  | lzTornTimeout (core lz : Nat)
  /-- SIGUPD_ARRIVAL (R455). -/
  | sigupdArrival (src : SigSource)
  /-- SIGWAIT_REEVALUATE (R456). -/
  | sigwaitReevaluate (core slot : Nat)
  /-- PAIR_COMPARE (R409). -/
  | pairCompare (core slot : Nat)
  /-- TRAP_RECORD_DEFERRED (R369). -/
  | trapRecordDeferred (ctx : Nat)
  /-- HANDLER_WATCHDOG_EXPIRY (R372). -/
  | handlerWatchdogExpiry (ctx rec : Nat)
  /-- STORE_BUFFER_DRAIN (R121). -/
  | storeBufferDrain (core slot : Nat)
  /-- HOME_AGENT_REQUEST (R243). -/
  | homeAgentRequest (src : HomeSource)
  /-- HOME_RESPONSE (R122). -/
  | homeResponse (n : Nat) (ext : Option ExtReply)
  /-- STORE_ACK (R377). -/
  | storeAck (n : Nat)
  /-- LATE_REFUSAL (R377). -/
  | lateRefusal (n : Nat) (link : Bool)
  /-- PLB_FILL_COMPLETE (R236). -/
  | plbFillComplete (core slot : Nat)
  /-- HOST_ATOMICOP_COMPLETION (R272). -/
  | hostAtomicopCompletion (n : Nat) (reply : AtomicReply)
  /-- SLOT_ALLOCATOR_LAUNCH (R184). -/
  | slotAllocatorLaunch (core : Nat)
  /-- STEAL_SWEEP (R183). -/
  | stealSweep (core : Nat)
  /-- STEAL_BACKOFF_EXPIRY (R183). -/
  | stealBackoffExpiry (core : Nat)
  /-- THREAD_RESTORE (R170). -/
  | threadRestore (core : Nat)
  /-- PMC_POWER_LIMIT (R167). -/
  | pmcPowerLimit (quad : Nat)
  /-- EVICT_SAVE (R168). -/
  | evictSave (core slot : Nat)
  /-- PARK_EVICT_EXPIRY (R171). -/
  | parkEvictExpiry (core : Nat)
  /-- PREEMPT (R172). -/
  | preempt (core : Nat)
  /-- DOORBELL (R192). -/
  | doorbell (q : Nat) (value : HostWrite)
  /-- QUEUE_ENABLE (R191). -/
  | queueEnable (q : Nat)
  /-- QS_PICK (R198). -/
  | qsPick (ext : Option ExtReply)
  /-- QS_WAIT_EVALUATE (R196). -/
  | qsWaitEvaluate (q : Nat) (ext : Option ExtReply)
  /-- QS_FAULT_PARK_EXPIRY (R196). -/
  | qsFaultParkExpiry (q : Nat)
  /-- QS_SIGNAL_ACK (R197). -/
  | qsSignalAck (q : Nat) (ext : Option ExtReply)
  /-- MIGRATION_DRAIN (R389). -/
  | migrationDrain (ctx : Nat)
  /-- MIGRATION_COPY (R389). -/
  | migrationCopy (ctx : Nat) (place : Placement)
  /-- MIGRATION_RESUME (R389). -/
  | migrationResume (ctx : Nat)
  /-- MIGRATION_TIMEOUT (R391). -/
  | migrationTimeout (ctx : Nat)
  /-- MIGRATION_REPORT_WRITE (R392). -/
  | migrationReportWrite (ctx : Nat)
  /-- CONTEXT_SAVE (R383). -/
  | contextSave (ctx : Nat) (out : Bool)
  /-- CONTEXT_RESTORE (R383). -/
  | contextRestore (ctx : Nat) (place : Restore)
  /-- CORE_MIGRATION (R386). -/
  | coreMigration (src dst : Nat)
  /-- FORWARD_QUIET_EXPIRY (R387). -/
  | forwardQuietExpiry (core n : Nat)
  /-- BURST_IDLE_ENTRY (R394). -/
  | burstIdleEntry
  /-- BURST_RETAIN_ENTRY (R394). -/
  | burstRetainEntry
  /-- BURST_OFF_ENTRY (R394). -/
  | burstOffEntry
  /-- WATCH_DOZE_ENTRY (R394). -/
  | watchDozeEntry
  /-- DRAM_SELF_REFRESH_ENTRY (R394). -/
  | dramSelfRefreshEntry
  /-- ISLAND_WAKE (R394). -/
  | islandWake (island target : Nat)
  /-- ISLAND_WAKE_COMPLETE (R393). -/
  | islandWakeComplete (island : Nat)
  /-- DRAM_EXIT_COMPLETE (R394). -/
  | dramExitComplete
  /-- CLOCK_CHANGE (R402). -/
  | clockChange (core mhz : Nat)
  /-- ENERGY_UPDATE (R403). -/
  | energyUpdate
  /-- TRIGGER_EVALUATE (R398). -/
  | triggerEvaluate (entry : Nat) (ext : Option ExtReply)
  /-- TRIGGER_COOLDOWN_EXPIRY (R398). -/
  | triggerCooldownExpiry (entry : Nat)
  /-- TRIGGER_ENTRY_WRITE (R397). -/
  | triggerEntryWrite (entry word : Nat) (value : Word)
  /-- SC_HEEL (R405). -/
  | scHeel
  /-- HEEL_FREEZE_COMPLETE (R406). -/
  | heelFreezeComplete
  /-- SC_RELEASE_RESUME (R407). -/
  | scReleaseResume
  /-- SC_RELEASE_KILL (R404). -/
  | scReleaseKill
  /-- SC_ACKWIN (R404). -/
  | scAckwin (ms : Nat)
  /-- HEEL_ACK_WINDOW_EXPIRY (R407). -/
  | heelAckWindowExpiry
  /-- ERROR_DETECTED (R411). -/
  | errorDetected (err : HwError)
  /-- PATROL_SCRUB (R411). -/
  | patrolScrub
  /-- THERMAL_THROTTLE (R489). -/
  | thermalThrottle
  /-- THERMAL_TRIP (R489). -/
  | thermalTrip
  /-- TIME_TICK (R490). -/
  | timeTick
  /-- FLIT_RECEIVE (R433). -/
  | flitReceive (port : Nat) (flit : BitVec 256)
  /-- LINK_CONTROL_RECEIVE (R433). -/
  | linkControlReceive (port : Nat) (ctl : LinkControl)
  /-- LINK_ACK_TIMEOUT (R433). -/
  | linkAckTimeout (port : Nat)
  /-- LINK_TRAINING_COMPLETE (R431). -/
  | linkTrainingComplete (port announced : Nat)
  /-- LINK_TRAINING_LOST (R433). -/
  | linkTrainingLost (port : Nat)
  /-- WAKE (R426). -/
  | wake (value : HostWrite)
  /-- FQRD (R427). -/
  | fqrd (value : HostWrite)
  /-- MQRD (R429). -/
  | mqrd (value : HostWrite)
  /-- MREPLY (R430). -/
  | mreply (tag : Nat) (value status : HostWrite)
  /-- MSIX_MODERATION_EXPIRY (R482). -/
  | msixModerationExpiry (vec : Nat)
  /-- PLB_INVALIDATE (R481). -/
  | plbInvalidate (cmd : Word)
  /-- TRANSLATION_INVALIDATE (R481). -/
  | translationInvalidate (cmd : Word)
  /-- ROUTE_CACHE_DROP (R481). -/
  | routeCacheDrop (cmd : Word)
  /-- TABLE_WRITE (R481). -/
  | tableWrite (cmd : Word)
  /-- MGMT_COMMAND_COMPLETE (R481). -/
  | mgmtCommandComplete
  /-- FQLOG (R482). -/
  | fqlog (value : Word)
  /-- MQLOG (R482). -/
  | mqlog (value : Word)
  /-- MEMORY_WINDOW_READ (R482). -/
  | memoryWindowRead (off size : Nat) (ext : Option ExtReply)
  /-- MEMORY_WINDOW_WRITE (R482). -/
  | memoryWindowWrite (off size : Nat) (value : Word)
  /-- ENERGY_ACCOUNT_LOW_READ (R480). -/
  | energyAccountLowRead (ctx : Nat)
  /-- FLASH_READ (R485). -/
  | flashRead
  /-- FLASH_PROG (R485). -/
  | flashProg
  /-- FLASH_ERASE (R485). -/
  | flashErase
  /-- FLASH_OP_COMPLETE (R485). -/
  | flashOpComplete
  /-- ATTEST_GO (R486). -/
  | attestGo
  /-- ATTEST_REPORT_DONE (R477). -/
  | attestReportDone
  /-- BOOTCTL (R479). -/
  | bootctl (value : Word)
  /-- DEBUG_ATTACH_SELECT (R483). -/
  | debugAttachSelect (value : Word)
  /-- DEBUG_STEP_MODE (R380). -/
  | debugStepMode (value : Word)
  /-- DEBUG_RESUME (R483). -/
  | debugResume (value : Word)
  /-- DEBUG_KILL (R483). -/
  | debugKill (value : Word)
  /-- REGISTER_WRITE (R478). -/
  | registerWrite (plinth : Bool) (off size : Nat) (value : Word)
  /-- POWER_ON_RESET (R469). -/
  | powerOnReset (rom : RomFinding)
  /-- PLINTH_BRINGUP (R469). -/
  | plinthBringup (trained : BringUp)
  /-- PLINTH_WATCHDOG_EXPIRY (R469). -/
  | plinthWatchdogExpiry
  /-- MARKER_FLIP (R472). -/
  | markerFlip (slotB : Bool) (written : Nat)
  /-- CONTEXT_CREATE (R228). -/
  | contextCreate (spec : CtxSpec)
  /-- CONTEXT_END (R491). -/
  | contextEnd (ctx : Nat)
  /-- POWER_LOSS (R488). -/
  | powerLoss
  /-- IN_FIELD_TEST (R402). -/
  | inFieldTest (cluster : Nat) (curve : List (Nat × Nat))
  /-- NOP (R130). -/
  | nop (g : Guard)
  /-- BRK (R132). -/
  | brk (g : Guard)
  /-- BRK_CODE (R132). -/
  | brkCode (g : Guard) (code : BitVec 16)
  /-- TRAP (R131). -/
  | trap (g : Guard) (code : BitVec 16)
  /-- ERET (R133). -/
  | eret (g : Guard)
  /-- ADD (R103). -/
  | add (g : Guard) (d a b : Reg)
  /-- SUB (R103). -/
  | sub (g : Guard) (d a b : Reg)
  /-- AND (R103). -/
  | land (g : Guard) (d a b : Reg)
  /-- OR (R103). -/
  | lor (g : Guard) (d a b : Reg)
  /-- XOR (R103). -/
  | lxor (g : Guard) (d a b : Reg)
  /-- ANDN (R103). -/
  | andn (g : Guard) (d a b : Reg)
  /-- SHL (R103). -/
  | shl (g : Guard) (d a b : Reg)
  /-- SHR (R103). -/
  | shr (g : Guard) (d a b : Reg)
  /-- SAR (R103). -/
  | sar (g : Guard) (d a b : Reg)
  /-- ROL (R103). -/
  | rol (g : Guard) (d a b : Reg)
  /-- MIN (R103). -/
  | min (g : Guard) (d a b : Reg)
  /-- MAX (R103). -/
  | max (g : Guard) (d a b : Reg)
  /-- MINU (R103). -/
  | minu (g : Guard) (d a b : Reg)
  /-- MAXU (R103). -/
  | maxu (g : Guard) (d a b : Reg)
  /-- ADD_SAT (R103). -/
  | addSat (g : Guard) (d a b : Reg)
  /-- SUB_SAT (R103). -/
  | subSat (g : Guard) (d a b : Reg)
  /-- ADD_SATU (R103). -/
  | addSatu (g : Guard) (d a b : Reg)
  /-- SUB_SATU (R103). -/
  | subSatu (g : Guard) (d a b : Reg)
  /-- SEL (R103). -/
  | sel (g : Guard) (d a b : Reg) (c : PReg)
  /-- ADD_IMM (R103). -/
  | addImm (g : Guard) (d a : Reg) (imm : BitVec 21)
  /-- AND_IMM (R103). -/
  | landImm (g : Guard) (d a : Reg) (imm : BitVec 21)
  /-- OR_IMM (R103). -/
  | lorImm (g : Guard) (d a : Reg) (imm : BitVec 21)
  /-- XOR_IMM (R103). -/
  | lxorImm (g : Guard) (d a : Reg) (imm : BitVec 21)
  /-- ANDN_IMM (R103). -/
  | andnImm (g : Guard) (d a : Reg) (imm : BitVec 21)
  /-- MIN_IMM (R103). -/
  | minImm (g : Guard) (d a : Reg) (imm : BitVec 21)
  /-- MAX_IMM (R103). -/
  | maxImm (g : Guard) (d a : Reg) (imm : BitVec 21)
  /-- MINU_IMM (R103). -/
  | minuImm (g : Guard) (d a : Reg) (imm : BitVec 21)
  /-- MAXU_IMM (R103). -/
  | maxuImm (g : Guard) (d a : Reg) (imm : BitVec 21)
  /-- ADD_SAT_IMM (R103). -/
  | addSatImm (g : Guard) (d a : Reg) (imm : BitVec 21)
  /-- ADD_SATU_IMM (R103). -/
  | addSatuImm (g : Guard) (d a : Reg) (imm : BitVec 21)
  /-- SHL_IMM (R103). -/
  | shlImm (g : Guard) (d a : Reg) (n : BitVec 6)
  /-- SHR_IMM (R103). -/
  | shrImm (g : Guard) (d a : Reg) (n : BitVec 6)
  /-- SAR_IMM (R103). -/
  | sarImm (g : Guard) (d a : Reg) (n : BitVec 6)
  /-- ROL_IMM (R103). -/
  | rolImm (g : Guard) (d a : Reg) (n : BitVec 6)
  /-- LI (R111). -/
  | li (g : Guard) (d : Reg) (imm : BitVec 16)
  /-- LI_I32 (R111). -/
  | liI32 (g : Guard) (d : Reg) (imm : BitVec 32)
  /-- LI_TE (R111). -/
  | liTe (g : Guard) (d : Reg) (imm : Word)
  /-- MUL (R105). -/
  | mul (g : Guard) (d a b : Reg)
  /-- MULH (R105). -/
  | mulh (g : Guard) (d a b : Reg)
  /-- MULHU (R105). -/
  | mulhu (g : Guard) (d a b : Reg)
  /-- DIV (R95). -/
  | div (g : Guard) (d a b : Reg)
  /-- DIVU (R95). -/
  | divu (g : Guard) (d a b : Reg)
  /-- REM (R95). -/
  | rem (g : Guard) (d a b : Reg)
  /-- REMU (R95). -/
  | remu (g : Guard) (d a b : Reg)
  /-- CLZ (R106). -/
  | clz (g : Guard) (d a : Reg)
  /-- CTZ (R106). -/
  | ctz (g : Guard) (d a : Reg)
  /-- POPC (R106). -/
  | popc (g : Guard) (d a : Reg)
  /-- BSWAP (R106). -/
  | bswap (g : Guard) (d a : Reg)
  /-- SEXT_B (R106). -/
  | sextB (g : Guard) (d a : Reg)
  /-- SEXT_H (R106). -/
  | sextH (g : Guard) (d a : Reg)
  /-- SEXT_W (R106). -/
  | sextW (g : Guard) (d a : Reg)
  /-- ZEXT_B (R106). -/
  | zextB (g : Guard) (d a : Reg)
  /-- ZEXT_H (R106). -/
  | zextH (g : Guard) (d a : Reg)
  /-- ZEXT_W (R106). -/
  | zextW (g : Guard) (d a : Reg)
  /-- BEXT (R107). -/
  | bext (g : Guard) (d a : Reg) (pos len : BitVec 6)
  /-- BINS (R107). -/
  | bins (g : Guard) (d a : Reg) (pos len : BitVec 6)
  /-- LEA (R108). -/
  | lea (g : Guard) (d a b : Reg) (scale : BitVec 2) (disp : BitVec 11)
  /-- CMP_EQ (R109). -/
  | cmpEq (g : Guard) (d : PReg) (a b : Reg)
  /-- CMP_NE (R109). -/
  | cmpNe (g : Guard) (d : PReg) (a b : Reg)
  /-- CMP_LT (R109). -/
  | cmpLt (g : Guard) (d : PReg) (a b : Reg)
  /-- CMP_GE (R109). -/
  | cmpGe (g : Guard) (d : PReg) (a b : Reg)
  /-- CMP_LTU (R109). -/
  | cmpLtu (g : Guard) (d : PReg) (a b : Reg)
  /-- CMP_GEU (R109). -/
  | cmpGeu (g : Guard) (d : PReg) (a b : Reg)
  /-- CMP_GT (R109). -/
  | cmpGt (g : Guard) (d : PReg) (a b : Reg)
  /-- CMP_LE (R109). -/
  | cmpLe (g : Guard) (d : PReg) (a b : Reg)
  /-- CMP_GTU (R109). -/
  | cmpGtu (g : Guard) (d : PReg) (a b : Reg)
  /-- CMP_LEU (R109). -/
  | cmpLeu (g : Guard) (d : PReg) (a b : Reg)
  /-- CMP_TST (R109). -/
  | cmpTst (g : Guard) (d : PReg) (a b : Reg)
  /-- CMP_NTST (R109). -/
  | cmpNtst (g : Guard) (d : PReg) (a b : Reg)
  /-- CMP_EQ_IMM (R109). -/
  | cmpEqImm (g : Guard) (d : PReg) (a : Reg) (imm : BitVec 21)
  /-- CMP_NE_IMM (R109). -/
  | cmpNeImm (g : Guard) (d : PReg) (a : Reg) (imm : BitVec 21)
  /-- CMP_LT_IMM (R109). -/
  | cmpLtImm (g : Guard) (d : PReg) (a : Reg) (imm : BitVec 21)
  /-- CMP_GE_IMM (R109). -/
  | cmpGeImm (g : Guard) (d : PReg) (a : Reg) (imm : BitVec 21)
  /-- CMP_LTU_IMM (R109). -/
  | cmpLtuImm (g : Guard) (d : PReg) (a : Reg) (imm : BitVec 21)
  /-- CMP_GEU_IMM (R109). -/
  | cmpGeuImm (g : Guard) (d : PReg) (a : Reg) (imm : BitVec 21)
  /-- CMP_GT_IMM (R109). -/
  | cmpGtImm (g : Guard) (d : PReg) (a : Reg) (imm : BitVec 21)
  /-- CMP_LE_IMM (R109). -/
  | cmpLeImm (g : Guard) (d : PReg) (a : Reg) (imm : BitVec 21)
  /-- CMP_GTU_IMM (R109). -/
  | cmpGtuImm (g : Guard) (d : PReg) (a : Reg) (imm : BitVec 21)
  /-- CMP_LEU_IMM (R109). -/
  | cmpLeuImm (g : Guard) (d : PReg) (a : Reg) (imm : BitVec 21)
  /-- CMP_TST_IMM (R109). -/
  | cmpTstImm (g : Guard) (d : PReg) (a : Reg) (imm : BitVec 21)
  /-- CMP_NTST_IMM (R109). -/
  | cmpNtstImm (g : Guard) (d : PReg) (a : Reg) (imm : BitVec 21)
  /-- PAND (R110). -/
  | pand (g : Guard) (d a b : PReg)
  /-- POR (R110). -/
  | por (g : Guard) (d a b : PReg)
  /-- PXOR (R110). -/
  | pxor (g : Guard) (d a b : PReg)
  /-- PNOT (R110). -/
  | pnot (g : Guard) (d a : PReg)
  /-- FADD (R116). -/
  | fadd (g : Guard) (d a b : Reg) (t : Ty) (rm : Rm)
  /-- FSUB (R116). -/
  | fsub (g : Guard) (d a b : Reg) (t : Ty) (rm : Rm)
  /-- FMUL (R116). -/
  | fmul (g : Guard) (d a b : Reg) (t : Ty) (rm : Rm)
  /-- FDIV (R116). -/
  | fdiv (g : Guard) (d a b : Reg) (t : Ty) (rm : Rm)
  /-- FSQRT (R116). -/
  | fsqrt (g : Guard) (d a : Reg) (t : Ty) (rm : Rm)
  /-- FMIN (R85). -/
  | fmin (g : Guard) (d a b : Reg) (t : Ty)
  /-- FMAX (R85). -/
  | fmax (g : Guard) (d a b : Reg) (t : Ty)
  /-- FCMP_EQ (R117). -/
  | fcmpEq (g : Guard) (d : PReg) (a b : Reg) (t : Ty)
  /-- FCMP_NE (R117). -/
  | fcmpNe (g : Guard) (d : PReg) (a b : Reg) (t : Ty)
  /-- FCMP_LT (R117). -/
  | fcmpLt (g : Guard) (d : PReg) (a b : Reg) (t : Ty)
  /-- FCMP_LE (R117). -/
  | fcmpLe (g : Guard) (d : PReg) (a b : Reg) (t : Ty)
  /-- FCMP_UN (R117). -/
  | fcmpUn (g : Guard) (d : PReg) (a b : Reg) (t : Ty)
  /-- FCVT (R118). -/
  | fcvt (g : Guard) (d a : Reg) (t t2 : Ty) (rm : Rm)
  /-- FCLASS (R117). -/
  | fclass (g : Guard) (d a : Reg) (t : Ty)
  /-- FMA (R84). -/
  | fma (g : Guard) (d a b c : Reg) (t : Ty) (rm : Rm)
  /-- FMA_NA (R84). -/
  | fmaNa (g : Guard) (d a b c : Reg) (t : Ty) (rm : Rm)
  /-- FMA_NC (R84). -/
  | fmaNc (g : Guard) (d a b c : Reg) (t : Ty) (rm : Rm)
  /-- FMA_NA_NC (R84). -/
  | fmaNaNc (g : Guard) (d a b c : Reg) (t : Ty) (rm : Rm)
  /-- MOV (R112). -/
  | mov (g : Guard) (d a : Reg)
  /-- MOV_F (R113). -/
  | movF (g : Guard) (d a : Reg)
  /-- MFS (R114). -/
  | mfs (g : Guard) (d : Reg) (idx : BitVec 8)
  /-- MTS (R114). -/
  | mts (g : Guard) (a : Reg) (idx : BitVec 8)
  /-- PWDOG_WRITE (R487). -/
  | pwdogWrite (g : Guard) (a : Reg)
  /-- BOOTCNT_WRITE (R487). -/
  | bootcntWrite (g : Guard) (a : Reg)
  /-- BR (R127). -/
  | br (g : Guard) (off : BitVec 22) (head : BitVec 5)
  /-- JMP (R127). -/
  | jmp (g : Guard) (d : Reg)
  /-- CALL (R127). -/
  | call (g : Guard) (d : Reg) (off : BitVec 22) (head : BitVec 5)
  /-- CALL_REG (R127). -/
  | callReg (g : Guard) (d a : Reg)
  /-- RET (R127). -/
  | ret (g : Guard) (d : Reg)
  /-- LOOP (R127). -/
  | loop (g : Guard) (d : Reg) (off : BitVec 22) (head : BitVec 5)
  /-- LD_B (R120). -/
  | ldB (g : Guard) (d a b : Reg) (disp : BitVec 11)
  /-- LD_H (R120). -/
  | ldH (g : Guard) (d a b : Reg) (disp : BitVec 11)
  /-- LD_W (R120). -/
  | ldW (g : Guard) (d a b : Reg) (disp : BitVec 11)
  /-- LD_D (R120). -/
  | ldD (g : Guard) (d a b : Reg) (disp : BitVec 11)
  /-- LDS_B (R120). -/
  | ldsB (g : Guard) (d a b : Reg) (disp : BitVec 11)
  /-- LDS_H (R120). -/
  | ldsH (g : Guard) (d a b : Reg) (disp : BitVec 11)
  /-- LDS_W (R120). -/
  | ldsW (g : Guard) (d a b : Reg) (disp : BitVec 11)
  /-- LD_B_S (R120). -/
  | ldBS (g : Guard) (d a b : Reg) (disp : BitVec 11)
  /-- LD_H_S (R120). -/
  | ldHS (g : Guard) (d a b : Reg) (disp : BitVec 11)
  /-- LD_W_S (R120). -/
  | ldWS (g : Guard) (d a b : Reg) (disp : BitVec 11)
  /-- LD_D_S (R120). -/
  | ldDS (g : Guard) (d a b : Reg) (disp : BitVec 11)
  /-- LDS_B_S (R120). -/
  | ldsBS (g : Guard) (d a b : Reg) (disp : BitVec 11)
  /-- LDS_H_S (R120). -/
  | ldsHS (g : Guard) (d a b : Reg) (disp : BitVec 11)
  /-- LDS_W_S (R120). -/
  | ldsWS (g : Guard) (d a b : Reg) (disp : BitVec 11)
  /-- ST_B (R120). -/
  | stB (g : Guard) (d a b : Reg) (disp : BitVec 11)
  /-- ST_H (R120). -/
  | stH (g : Guard) (d a b : Reg) (disp : BitVec 11)
  /-- ST_W (R120). -/
  | stW (g : Guard) (d a b : Reg) (disp : BitVec 11)
  /-- ST_D (R120). -/
  | stD (g : Guard) (d a b : Reg) (disp : BitVec 11)
  /-- ST_B_S (R120). -/
  | stBS (g : Guard) (d a b : Reg) (disp : BitVec 11)
  /-- ST_H_S (R120). -/
  | stHS (g : Guard) (d a b : Reg) (disp : BitVec 11)
  /-- ST_W_S (R120). -/
  | stWS (g : Guard) (d a b : Reg) (disp : BitVec 11)
  /-- ST_D_S (R120). -/
  | stDS (g : Guard) (d a b : Reg) (disp : BitVec 11)
  /-- VLD (R124). -/
  | vld (g : Guard) (d : VReg) (a b : Reg) (t : Ty) (m : Option MReg)
  /-- VLD_S (R124). -/
  | vldS (g : Guard) (d : VReg) (a b : Reg) (t : Ty) (m : Option MReg)
  /-- VGATHER (R124). -/
  | vgather (g : Guard) (d : VReg) (a : Reg) (b : VReg) (t : Ty) (m : Option MReg)
  /-- VST (R124). -/
  | vst (g : Guard) (d : VReg) (a b : Reg) (t : Ty) (m : Option MReg)
  /-- VSCATTER (R124). -/
  | vscatter (g : Guard) (d : VReg) (a : Reg) (b : VReg) (t : Ty) (m : Option MReg)
  /-- LDSYNC (R264). -/
  | ldsync (g : Guard) (d a : Reg) (disp : BitVec 11)
  /-- LDSYNC_KEEP (R264). -/
  | ldsyncKeep (g : Guard) (d a : Reg) (disp : BitVec 11)
  /-- STSYNC (R264). -/
  | stsync (g : Guard) (d a : Reg) (disp : BitVec 11)
  /-- STFILL (R264). -/
  | stfill (g : Guard) (d a : Reg) (disp : BitVec 11)
  /-- FESET (R264). -/
  | feset (g : Guard) (a : Reg) (disp : BitVec 11)
  /-- FECLR (R264). -/
  | feclr (g : Guard) (a : Reg) (disp : BitVec 11)
  /-- FEREAD (R264). -/
  | feread (g : Guard) (d a : Reg) (disp : BitVec 11)
  /-- AMO_ADD (R269). -/
  | amoAdd (g : Guard) (d a b : Reg) (t : Ty) (o : Ord) (sc : Scope)
  /-- AMO_AND (R269). -/
  | amoAnd (g : Guard) (d a b : Reg) (t : Ty) (o : Ord) (sc : Scope)
  /-- AMO_OR (R269). -/
  | amoOr (g : Guard) (d a b : Reg) (t : Ty) (o : Ord) (sc : Scope)
  /-- AMO_XOR (R269). -/
  | amoXor (g : Guard) (d a b : Reg) (t : Ty) (o : Ord) (sc : Scope)
  /-- AMO_MIN (R269). -/
  | amoMin (g : Guard) (d a b : Reg) (t : Ty) (o : Ord) (sc : Scope)
  /-- AMO_MAX (R269). -/
  | amoMax (g : Guard) (d a b : Reg) (t : Ty) (o : Ord) (sc : Scope)
  /-- AMO_SWAP (R269). -/
  | amoSwap (g : Guard) (d a b : Reg) (t : Ty) (o : Ord) (sc : Scope)
  /-- AMO_CAS (R269). -/
  | amoCas (g : Guard) (d a b c : Reg) (t : Ty) (o : Ord) (sc : Scope)
  /-- FENCE (R275). -/
  | fence (g : Guard) (o : Ord) (sc : Scope)
  /-- PLBLOAD (R279). -/
  | plbload (g : Guard) (d a : Reg)
  /-- PLBINVAL (R280). -/
  | plbinval (g : Guard) (a b : Option Reg)
  /-- SCFLUSH (R281). -/
  | scflush (g : Guard) (a b : Reg)
  /-- SCINVAL (R282). -/
  | scinval (g : Guard) (a : Reg)
  /-- PREFETCH (R283). -/
  | prefetch (g : Guard) (a : Reg)
  /-- PREFETCH_W (R283). -/
  | prefetchW (g : Guard) (a : Reg)
  /-- VADD_INT (R140). -/
  | vaddInt (g : Guard) (d a b : VReg) (t : Ty) (sat : Bool) (m : Option MReg)
  /-- VSUB_INT (R140). -/
  | vsubInt (g : Guard) (d a b : VReg) (t : Ty) (sat : Bool) (m : Option MReg)
  /-- VMUL_INT (R140). -/
  | vmulInt (g : Guard) (d a b : VReg) (t : Ty) (sat : Bool) (m : Option MReg)
  /-- VMIN_INT (R140). -/
  | vminInt (g : Guard) (d a b : VReg) (t : Ty) (m : Option MReg)
  /-- VMAX_INT (R140). -/
  | vmaxInt (g : Guard) (d a b : VReg) (t : Ty) (m : Option MReg)
  /-- VABS_INT (R140). -/
  | vabsInt (g : Guard) (d a : VReg) (t : Ty) (sat : Bool) (m : Option MReg)
  /-- VNEG_INT (R140). -/
  | vnegInt (g : Guard) (d a : VReg) (t : Ty) (sat : Bool) (m : Option MReg)
  /-- VSHL (R140). -/
  | vshl (g : Guard) (d a b : VReg) (t : Ty) (sat : Bool) (m : Option MReg)
  /-- VSHR (R140). -/
  | vshr (g : Guard) (d a b : VReg) (t : Ty) (m : Option MReg)
  /-- VSAR (R140). -/
  | vsar (g : Guard) (d a b : VReg) (t : Ty) (m : Option MReg)
  /-- VRAND (R153). -/
  | vrand (g : Guard) (d : VReg) (a b : Reg) (t : Ty) (m : Option MReg)
  /-- VADD_INT_SCALAR (R53). -/
  | vaddIntScalar (g : Guard) (d a : VReg) (b : Reg) (t : Ty) (sat : Bool) (m : Option MReg)
  /-- VSUB_INT_SCALAR (R53). -/
  | vsubIntScalar (g : Guard) (d a : VReg) (b : Reg) (t : Ty) (sat : Bool) (m : Option MReg)
  /-- VMUL_INT_SCALAR (R53). -/
  | vmulIntScalar (g : Guard) (d a : VReg) (b : Reg) (t : Ty) (sat : Bool) (m : Option MReg)
  /-- VMIN_INT_SCALAR (R53). -/
  | vminIntScalar (g : Guard) (d a : VReg) (b : Reg) (t : Ty) (m : Option MReg)
  /-- VMAX_INT_SCALAR (R53). -/
  | vmaxIntScalar (g : Guard) (d a : VReg) (b : Reg) (t : Ty) (m : Option MReg)
  /-- VSHL_SCALAR (R53). -/
  | vshlScalar (g : Guard) (d a : VReg) (b : Reg) (t : Ty) (sat : Bool) (m : Option MReg)
  /-- VSHR_SCALAR (R53). -/
  | vshrScalar (g : Guard) (d a : VReg) (b : Reg) (t : Ty) (m : Option MReg)
  /-- VSAR_SCALAR (R53). -/
  | vsarScalar (g : Guard) (d a : VReg) (b : Reg) (t : Ty) (m : Option MReg)
  /-- VADD_FP (R141). -/
  | vaddFp (g : Guard) (d a b : VReg) (t : Ty) (rm : Rm) (m : Option MReg)
  /-- VSUB_FP (R141). -/
  | vsubFp (g : Guard) (d a b : VReg) (t : Ty) (rm : Rm) (m : Option MReg)
  /-- VMUL_FP (R141). -/
  | vmulFp (g : Guard) (d a b : VReg) (t : Ty) (rm : Rm) (m : Option MReg)
  /-- VMIN_FP (R141). -/
  | vminFp (g : Guard) (d a b : VReg) (t : Ty) (m : Option MReg)
  /-- VMAX_FP (R141). -/
  | vmaxFp (g : Guard) (d a b : VReg) (t : Ty) (m : Option MReg)
  /-- VABS_FP (R141). -/
  | vabsFp (g : Guard) (d a : VReg) (t : Ty) (m : Option MReg)
  /-- VNEG_FP (R141). -/
  | vnegFp (g : Guard) (d a : VReg) (t : Ty) (m : Option MReg)
  /-- VADD_FP_SCALAR (R53). -/
  | vaddFpScalar (g : Guard) (d a : VReg) (b : Reg) (t : Ty) (rm : Rm) (m : Option MReg)
  /-- VSUB_FP_SCALAR (R53). -/
  | vsubFpScalar (g : Guard) (d a : VReg) (b : Reg) (t : Ty) (rm : Rm) (m : Option MReg)
  /-- VMUL_FP_SCALAR (R53). -/
  | vmulFpScalar (g : Guard) (d a : VReg) (b : Reg) (t : Ty) (rm : Rm) (m : Option MReg)
  /-- VMIN_FP_SCALAR (R53). -/
  | vminFpScalar (g : Guard) (d a : VReg) (b : Reg) (t : Ty) (m : Option MReg)
  /-- VMAX_FP_SCALAR (R53). -/
  | vmaxFpScalar (g : Guard) (d a : VReg) (b : Reg) (t : Ty) (m : Option MReg)
  /-- VFMA (R142). -/
  | vfma (g : Guard) (d a b c : VReg) (t : Ty) (rm : Rm) (m : Option MReg)
  /-- VFMA_NA (R142). -/
  | vfmaNa (g : Guard) (d a b c : VReg) (t : Ty) (rm : Rm) (m : Option MReg)
  /-- VFMA_NC (R142). -/
  | vfmaNc (g : Guard) (d a b c : VReg) (t : Ty) (rm : Rm) (m : Option MReg)
  /-- VFMA_NA_NC (R142). -/
  | vfmaNaNc (g : Guard) (d a b c : VReg) (t : Ty) (rm : Rm) (m : Option MReg)
  /-- VCMP_EQ (R144). -/
  | vcmpEq (g : Guard) (d : MReg) (a b : VReg) (t : Ty) (m : Option MReg)
  /-- VCMP_NE (R144). -/
  | vcmpNe (g : Guard) (d : MReg) (a b : VReg) (t : Ty) (m : Option MReg)
  /-- VCMP_LT (R144). -/
  | vcmpLt (g : Guard) (d : MReg) (a b : VReg) (t : Ty) (m : Option MReg)
  /-- VCMP_LE (R144). -/
  | vcmpLe (g : Guard) (d : MReg) (a b : VReg) (t : Ty) (m : Option MReg)
  /-- VCMP_GT (R144). -/
  | vcmpGt (g : Guard) (d : MReg) (a b : VReg) (t : Ty) (m : Option MReg)
  /-- VCMP_GE (R144). -/
  | vcmpGe (g : Guard) (d : MReg) (a b : VReg) (t : Ty) (m : Option MReg)
  /-- VCMP_UN (R144). -/
  | vcmpUn (g : Guard) (d : MReg) (a b : VReg) (t : Ty) (m : Option MReg)
  /-- VCMP_EQ_SCALAR (R53). -/
  | vcmpEqScalar (g : Guard) (d : MReg) (a : VReg) (b : Reg) (t : Ty) (m : Option MReg)
  /-- VCMP_NE_SCALAR (R53). -/
  | vcmpNeScalar (g : Guard) (d : MReg) (a : VReg) (b : Reg) (t : Ty) (m : Option MReg)
  /-- VCMP_LT_SCALAR (R53). -/
  | vcmpLtScalar (g : Guard) (d : MReg) (a : VReg) (b : Reg) (t : Ty) (m : Option MReg)
  /-- VCMP_LE_SCALAR (R53). -/
  | vcmpLeScalar (g : Guard) (d : MReg) (a : VReg) (b : Reg) (t : Ty) (m : Option MReg)
  /-- VCMP_GT_SCALAR (R53). -/
  | vcmpGtScalar (g : Guard) (d : MReg) (a : VReg) (b : Reg) (t : Ty) (m : Option MReg)
  /-- VCMP_GE_SCALAR (R53). -/
  | vcmpGeScalar (g : Guard) (d : MReg) (a : VReg) (b : Reg) (t : Ty) (m : Option MReg)
  /-- VCMP_UN_SCALAR (R53). -/
  | vcmpUnScalar (g : Guard) (d : MReg) (a : VReg) (b : Reg) (t : Ty) (m : Option MReg)
  /-- VSEL (R145). -/
  | vsel (g : Guard) (d a b : VReg) (t : Ty) (m : MReg)
  /-- VCOMPRESS (R146). -/
  | vcompress (g : Guard) (d a : VReg) (c : Reg) (t : Ty) (m : Option MReg)
  /-- VEXPAND (R146). -/
  | vexpand (g : Guard) (d a : VReg) (t : Ty) (m : Option MReg)
  /-- VPERM (R146). -/
  | vperm (g : Guard) (d a b : VReg) (t : Ty) (m : Option MReg)
  /-- VBCAST (R146). -/
  | vbcast (g : Guard) (d : VReg) (a : Reg) (t : Ty) (m : Option MReg)
  /-- VRED_ADD (R147). -/
  | vredAdd (g : Guard) (d : Reg) (a : VReg) (t : Ty) (sat : Bool) (rm : Rm) (m : Option MReg)
  /-- VRED_MAX (R147). -/
  | vredMax (g : Guard) (d : Reg) (a : VReg) (t : Ty) (m : Option MReg)
  /-- VRED_MIN (R147). -/
  | vredMin (g : Guard) (d : Reg) (a : VReg) (t : Ty) (m : Option MReg)
  /-- VREDMAX_IDX (R147). -/
  | vredmaxIdx (g : Guard) (d : Reg) (a : VReg) (c : Reg) (t : Ty) (m : Option MReg)
  /-- VREDMIN_IDX (R147). -/
  | vredminIdx (g : Guard) (d : Reg) (a : VReg) (c : Reg) (t : Ty) (m : Option MReg)
  /-- VSCAN_ADD (R148). -/
  | vscanAdd (g : Guard) (d a : VReg) (t : Ty) (sat : Bool) (rm : Rm) (m : Option MReg)
  /-- VCVT (R149). -/
  | vcvt (g : Guard) (d a : VReg) (b : BitVec 3) (t t2 : Ty) (rm : Rm)
  /-- VLOG2 (R151). -/
  | vlog2 (g : Guard) (d a : VReg) (rm : Rm) (m : Option MReg)
  /-- VEXP2 (R151). -/
  | vexp2 (g : Guard) (d a : VReg) (rm : Rm) (m : Option MReg)
  /-- VRCP (R151). -/
  | vrcp (g : Guard) (d a : VReg) (rm : Rm) (m : Option MReg)
  /-- VRSQRT (R151). -/
  | vrsqrt (g : Guard) (d a : VReg) (rm : Rm) (m : Option MReg)
  /-- VSQRT (R151). -/
  | vsqrt (g : Guard) (d a : VReg) (rm : Rm) (m : Option MReg)
  /-- VSIN (R151). -/
  | vsin (g : Guard) (d a : VReg) (rm : Rm) (m : Option MReg)
  /-- VCOS (R151). -/
  | vcos (g : Guard) (d a : VReg) (rm : Rm) (m : Option MReg)
  /-- VDIV (R150). -/
  | vdiv (g : Guard) (d a b : VReg) (t : Ty) (rm : Rm) (m : Option MReg)
  /-- VREM (R150). -/
  | vrem (g : Guard) (d a b : VReg) (t : Ty) (m : Option MReg)
  /-- VDIV_SCALAR (R53). -/
  | vdivScalar (g : Guard) (d a : VReg) (b : Reg) (t : Ty) (rm : Rm) (m : Option MReg)
  /-- VREM_SCALAR (R53). -/
  | vremScalar (g : Guard) (d a : VReg) (b : Reg) (t : Ty) (m : Option MReg)
  /-- SBIND (R154). -/
  | sbind (g : Guard) (d : SReg) (a b c : Reg)
  /-- SUNBIND (R157). -/
  | sunbind (g : Guard) (d : SReg)
  /-- STEST (R158). -/
  | stest (g : Guard) (d : Reg) (a : SReg)
  /-- VMOVG (R159). -/
  | vmovg (g : Guard) (d : Reg) (a : VReg) (b : Reg) (t : Ty)
  /-- GMOVV (R159). -/
  | gmovv (g : Guard) (d : VReg) (a b : Reg) (t : Ty)
  /-- VAND (R143). -/
  | vand (g : Guard) (d a b : VReg) (t : Ty) (m : Option MReg)
  /-- VOR (R143). -/
  | vor (g : Guard) (d a b : VReg) (t : Ty) (m : Option MReg)
  /-- VXOR (R143). -/
  | vxor (g : Guard) (d a b : VReg) (t : Ty) (m : Option MReg)
  /-- VNOT (R143). -/
  | vnot (g : Guard) (d a : VReg) (t : Ty) (m : Option MReg)
  /-- VAND_SCALAR (R53). -/
  | vandScalar (g : Guard) (d a : VReg) (b : Reg) (t : Ty) (m : Option MReg)
  /-- VOR_SCALAR (R53). -/
  | vorScalar (g : Guard) (d a : VReg) (b : Reg) (t : Ty) (m : Option MReg)
  /-- VXOR_SCALAR (R53). -/
  | vxorScalar (g : Guard) (d a : VReg) (b : Reg) (t : Ty) (m : Option MReg)
  /-- FORK (R205). -/
  | fork (g : Guard) (d a b : Reg) (lendBit pv : Bool) (dom : BitVec 2) (prio : BitVec 4)
  /-- JOIN (R206). -/
  | join (g : Guard) (a : Reg)
  /-- SPAWN (R207). -/
  | spawn (g : Guard) (d a b : Reg)
  /-- HALT (R208). -/
  | halt (g : Guard)
  /-- YIELD (R209). -/
  | yield (g : Guard) (d : Reg)
  /-- LEND (R210). -/
  | lend (g : Guard) (on : Bool)
  /-- PIN (R211). -/
  | pin (g : Guard) (d : Reg) (on : Bool)
  /-- CALLAT (R213). -/
  | callat (g : Guard) (d a b : Reg)
  /-- RETM (R214). -/
  | retm (g : Guard) (a : Reg)
  /-- MSEND (R215). -/
  | msend (g : Guard) (a b : Reg) (k : BitVec 8)
  /-- MRECV (R216). -/
  | mrecv (g : Guard) (d c : Reg)
  /-- MWAIT (R216). -/
  | mwait (g : Guard) (d : Reg)
  /-- MTRY (R216). -/
  | mtry (g : Guard) (d c : Reg) (pd : PReg)
  /-- KSIG (R220). -/
  | ksig (g : Guard) (a : Reg) (k : BitVec 8)
  /-- KSUB (R220). -/
  | ksub (g : Guard) (a : Reg) (k : BitVec 8)
  /-- KWAIT (R220). -/
  | kwait (g : Guard) (a : Reg) (k : BitVec 8)
  /-- KSET (R220). -/
  | kset (g : Guard) (a : Reg) (k : BitVec 8)
  /-- KREAD (R220). -/
  | kread (g : Guard) (d : Reg) (k : BitVec 8)
  /-- TTARM (R221). -/
  | ttarm (g : Guard) (d a b : Reg) (k : BitVec 8)
  /-- TTCANCEL (R222). -/
  | ttcancel (g : Guard) (d a : Reg)
  /-- QBIND (R223). -/
  | qbind (g : Guard) (d : Port) (mode : PortMode)
  /-- QSTAT (R224). -/
  | qstat (g : Guard) (d : Reg) (q : BitVec 4)
  /-- ROAM (R225). -/
  | roam (g : Guard) (a : Reg)
  /-- MMA (R316). -/
  | mma (g : Guard) (d a b c : Reg) (asy ad nb na : Bool) (tile : BitVec 4) (td : Td)
  /-- ACCLD (R318). -/
  | accld (g : Guard) (d a c : Reg) (asy : Bool) (tile : BitVec 4) (td : Td)
  /-- ACCST (R319). -/
  | accst (g : Guard) (d a b c : Reg) (asy int : Bool) (rm : BitVec 2) (tile : BitVec 4) (td : Td)
  /-- ACCZERO (R317). -/
  | acczero (g : Guard) (d c : Reg) (asy : Bool) (tile : BitVec 4) (td : Td)
  /-- MPACK (R320). -/
  | mpack (g : Guard) (d a b : Reg) (asy : Bool) (td : Td)
  /-- MUNPACK (R320). -/
  | munpack (g : Guard) (d a b : Reg) (asy : Bool) (td : Td)
  /-- MWAITJ (R321). -/
  | mwaitj (g : Guard) (d a : Reg)
  /-- MPOLL (R321). -/
  | mpoll (g : Guard) (d a : Reg)
  /-- MWAKE (R322). -/
  | mwake (g : Guard)
  /-- CPY (R327). -/
  | cpy (g : Guard) (d a b c : Reg) (quiet : Bool) (dim : Dim) (td : Td)
  /-- CPY_MC (R334). -/
  | cpyMc (g : Guard) (d a b c : Reg) (msk : BitVec 8) (quiet : Bool) (dim : Dim) (td : Td)
  /-- CPY_LB (R335). -/
  | cpyLb (g : Guard) (d a b c : Reg) (quiet inv : Bool) (ch : BitVec 2) (td : Td)
  /-- CPY_RING (R333). -/
  | cpyRing (g : Guard) (d a b c : Reg) (quiet : Bool) (dim : Dim) (td : Td)
  /-- KSPROJ (R352). -/
  | ksproj (g : Guard) (a : Reg) (ent : BitVec 5) (td : Td)
  /-- KSTORE (R353). -/
  | kstore (g : Guard) (a b c : Reg) (ent : BitVec 5) (td : Td)
  /-- KGATHER (R354). -/
  | kgather (g : Guard) (d a b c : Reg) (qv : Bool) (rad : BitVec 2) (ent : BitVec 5) (td : Td)
  /-- KFENCE (R355). -/
  | kfence (g : Guard) (td : Td)
  /-- KSTAT (R356). -/
  | kstat (g : Guard) (d : Reg) (td : Td)
  /-- KBUILD (R357). -/
  | kbuild (g : Guard) (a : Reg) (ent : BitVec 5) (td : Td)
  /-- RINV (R441). -/
  | rinv (g : Guard) (d a : Reg) (td : Td)
  /-- RINV_T (R441). -/
  | rinvT (g : Guard) (d a : Reg) (td : Td)
  /-- RINV_CARD (R446). -/
  | rinvCard (g : Guard) (d a b : Reg) (td : Td)
  /-- LZCFG (R448). -/
  | lzcfg (g : Guard) (d a : Reg) (lz : BitVec 4) (td : Td)
  /-- LZRES (R450). -/
  | lzres (g : Guard) (d a : Reg) (td : Td)
  /-- LZREL (R454). -/
  | lzrel (g : Guard) (d a : Reg) (td : Td)
  /-- LZCPY (R451). -/
  | lzcpy (g : Guard) (d a b c : Reg) (quiet : Bool) (off : BitVec 8) (td : Td)
  /-- SIGUPD (R455). -/
  | sigupd (g : Guard) (a b : Reg) (op : SigOp) (td : Td)
  /-- SIGWAIT (R456). -/
  | sigwait (g : Guard) (a b : Reg) (cmp : Cmp) (td : Td)
  /-- MIGPT (R391). -/
  | migpt (g : Guard)
  /-- TRIG (R400). -/
  | trig (g : Guard) (d a : Reg) (ent : BitVec 4)
  /-- WAKE_GO (R395). -/
  | wakeGo (g : Guard) (d a : Reg)
  /-- WAKE_HOLD (R396). -/
  | wakeHold (g : Guard) (d a : Reg)
  /-- WAKE_DROP (R395). -/
  | wakeDrop (g : Guard) (d a : Reg)
  /-- PAIR (R408). -/
  | pair (g : Guard) (d a b : Reg)
  /-- HEELACK (R407). -/
  | heelack (g : Guard) (a : Reg)
  /-- ERESUME (R375). -/
  | eresume (g : Guard) (d a : Reg)
  /-- EKILL (R375). -/
  | ekill (g : Guard) (d a : Reg)
deriving DecidableEq, Repr

end Sys2Proof
end

