-- ==== Sys2Proof/WellFormed.lean ====
section
/-! DEFINITION. Which terms of Instr are instructions: the conditions of R58 that the types of the operands do not
already make true. Every event term is well formed. -/

namespace Sys2Proof

/-- A field limited to g0-g23 (R126). -/
def Reg.isG : Reg → Bool
  | .g _ => true
  | _ => false

/-- A field limited to g0-g23 or z (R126). -/
def Reg.isLink : Reg → Bool
  | .g _ | .z => true
  | _ => false

/-- The source of mov.f: lw or le (R113). -/
def Reg.isFifo : Reg → Bool
  | .lw | .le => true
  | _ => false

/-- The destination of mov.f: anything but lw and le (R113). -/
def Reg.isMovDst : Reg → Bool
  | .lw | .le => false
  | _ => true

/-- Two destination fields do not name one general register (R35). -/
def Reg.apart : Reg → Reg → Bool
  | .g a, .g b => a != b
  | _, _ => true

/-- The four floating-point types (R51). -/
def Ty.isFloat : Ty → Bool
  | .f16 | .bf16 | .f32 | .f64 => true
  | _ => false

/-- The eight integer types (R51, R72). -/
def Ty.isInt (t : Ty) : Bool := !t.isFloat

/-- The width of a type in bits (R51). -/
def Ty.width : Ty → Nat
  | .f16 | .bf16 | .i16 | .n16 => 16
  | .f32 | .i32 | .n32 => 32
  | .f64 | .i64 | .n64 => 64
  | .i8 | .n8 => 8

/-- The types of an atomic (R268). -/
def Ty.isAmo : Ty → Bool
  | .i32 | .i64 | .n32 | .n64 => true
  | _ => false

/-- The types of vrand (R100). -/
def Ty.isRand : Ty → Bool
  | .f32 | .i32 | .i64 | .n32 | .n64 => true
  | _ => false

/-- A rounding mode where the result of integer type is never rounded (R50). -/
def Rm.okFor (rm : Rm) (t : Ty) : Bool := t.isFloat || rm == .rne

/-- The semaphore fields of a TD tail against R48. -/
def Td.wf (td : Td) : Bool := (td.wt != 0#8 || td.ws == 0#8) && (td.si != 0#4 || td.ss == 0#8)

/-- The part number of vcvt against its types (R149). -/
def partOk (t t2 : Ty) (p : BitVec 3) : Bool :=
  decide (p.toNat < max t.width t2.width / min t.width t2.width)

/-- The conditions of R58 on the operands, constructor by constructor. -/
def Instr.wf : Instr → Bool
  | .nop _ => true
  | .brk _ => true
  | .brkCode _ _ => true
  | .trap _ _ => true
  | .eret _ => true
  | .add _ _ _ _ => true
  | .sub _ _ _ _ => true
  | .land _ _ _ _ => true
  | .lor _ _ _ _ => true
  | .lxor _ _ _ _ => true
  | .andn _ _ _ _ => true
  | .shl _ _ _ _ => true
  | .shr _ _ _ _ => true
  | .sar _ _ _ _ => true
  | .rol _ _ _ _ => true
  | .min _ _ _ _ => true
  | .max _ _ _ _ => true
  | .minu _ _ _ _ => true
  | .maxu _ _ _ _ => true
  | .addSat _ _ _ _ => true
  | .subSat _ _ _ _ => true
  | .addSatu _ _ _ _ => true
  | .subSatu _ _ _ _ => true
  | .sel _ _ _ _ _ => true
  | .addImm _ _ _ _ => true
  | .landImm _ _ _ _ => true
  | .lorImm _ _ _ _ => true
  | .lxorImm _ _ _ _ => true
  | .andnImm _ _ _ _ => true
  | .minImm _ _ _ _ => true
  | .maxImm _ _ _ _ => true
  | .minuImm _ _ _ _ => true
  | .maxuImm _ _ _ _ => true
  | .addSatImm _ _ _ _ => true
  | .addSatuImm _ _ _ _ => true
  | .shlImm _ _ _ _ => true
  | .shrImm _ _ _ _ => true
  | .sarImm _ _ _ _ => true
  | .rolImm _ _ _ _ => true
  | .li _ _ _ => true
  | .liI32 _ _ _ => true
  | .liTe _ _ _ => true
  | .mul _ _ _ _ => true
  | .mulh _ _ _ _ => true
  | .mulhu _ _ _ _ => true
  | .div _ _ _ _ => true
  | .divu _ _ _ _ => true
  | .rem _ _ _ _ => true
  | .remu _ _ _ _ => true
  | .clz _ _ _ => true
  | .ctz _ _ _ => true
  | .popc _ _ _ => true
  | .bswap _ _ _ => true
  | .sextB _ _ _ => true
  | .sextH _ _ _ => true
  | .sextW _ _ _ => true
  | .zextB _ _ _ => true
  | .zextH _ _ _ => true
  | .zextW _ _ _ => true
  | .bext _ _ _ pos len => decide (pos.toNat + len.toNat + 1 ≤ 64)
  | .bins _ _ _ pos len => decide (pos.toNat + len.toNat + 1 ≤ 64)
  | .lea _ _ _ _ _ _ => true
  | .cmpEq _ _ _ _ => true
  | .cmpNe _ _ _ _ => true
  | .cmpLt _ _ _ _ => true
  | .cmpGe _ _ _ _ => true
  | .cmpLtu _ _ _ _ => true
  | .cmpGeu _ _ _ _ => true
  | .cmpGt _ _ _ _ => true
  | .cmpLe _ _ _ _ => true
  | .cmpGtu _ _ _ _ => true
  | .cmpLeu _ _ _ _ => true
  | .cmpTst _ _ _ _ => true
  | .cmpNtst _ _ _ _ => true
  | .cmpEqImm _ _ _ _ => true
  | .cmpNeImm _ _ _ _ => true
  | .cmpLtImm _ _ _ _ => true
  | .cmpGeImm _ _ _ _ => true
  | .cmpLtuImm _ _ _ _ => true
  | .cmpGeuImm _ _ _ _ => true
  | .cmpGtImm _ _ _ _ => true
  | .cmpLeImm _ _ _ _ => true
  | .cmpGtuImm _ _ _ _ => true
  | .cmpLeuImm _ _ _ _ => true
  | .cmpTstImm _ _ _ _ => true
  | .cmpNtstImm _ _ _ _ => true
  | .pand _ _ _ _ => true
  | .por _ _ _ _ => true
  | .pxor _ _ _ _ => true
  | .pnot _ _ _ => true
  | .fadd _ _ _ _ t _ => t.isFloat
  | .fsub _ _ _ _ t _ => t.isFloat
  | .fmul _ _ _ _ t _ => t.isFloat
  | .fdiv _ _ _ _ t _ => t.isFloat
  | .fsqrt _ _ _ t _ => t.isFloat
  | .fmin _ _ _ _ t => t.isFloat
  | .fmax _ _ _ _ t => t.isFloat
  | .fcmpEq _ _ _ _ t => t.isFloat
  | .fcmpNe _ _ _ _ t => t.isFloat
  | .fcmpLt _ _ _ _ t => t.isFloat
  | .fcmpLe _ _ _ _ t => t.isFloat
  | .fcmpUn _ _ _ _ t => t.isFloat
  | .fcvt _ _ _ t t2 rm => (t.isFloat || rm.okFor t2)
  | .fclass _ _ _ t => t.isFloat
  | .fma _ _ _ _ _ t _ => t.isFloat
  | .fmaNa _ _ _ _ _ t _ => t.isFloat
  | .fmaNc _ _ _ _ _ t _ => t.isFloat
  | .fmaNaNc _ _ _ _ _ t _ => t.isFloat
  | .mov _ _ _ => true
  | .movF _ d a => d.isMovDst && a.isFifo
  | .mfs _ _ _ => true
  | .mts _ _ idx => idx != 0x80#8 && idx != 0x81#8
  | .pwdogWrite _ _ => true
  | .bootcntWrite _ _ => true
  | .br _ _ _ => true
  | .jmp _ d => d.isG
  | .call _ d _ _ => d.isLink
  | .callReg _ d a => d.isLink && a.isG
  | .ret _ d => d.isG
  | .loop _ d _ _ => d.isG
  | .ldB _ _ _ _ _ => true
  | .ldH _ _ _ _ _ => true
  | .ldW _ _ _ _ _ => true
  | .ldD _ _ _ _ _ => true
  | .ldsB _ _ _ _ _ => true
  | .ldsH _ _ _ _ _ => true
  | .ldsW _ _ _ _ _ => true
  | .ldBS _ _ _ _ _ => true
  | .ldHS _ _ _ _ _ => true
  | .ldWS _ _ _ _ _ => true
  | .ldDS _ _ _ _ _ => true
  | .ldsBS _ _ _ _ _ => true
  | .ldsHS _ _ _ _ _ => true
  | .ldsWS _ _ _ _ _ => true
  | .stB _ _ _ _ _ => true
  | .stH _ _ _ _ _ => true
  | .stW _ _ _ _ _ => true
  | .stD _ _ _ _ _ => true
  | .stBS _ _ _ _ _ => true
  | .stHS _ _ _ _ _ => true
  | .stWS _ _ _ _ _ => true
  | .stDS _ _ _ _ _ => true
  | .vld _ _ _ _ _ _ => true
  | .vldS _ _ _ _ _ _ => true
  | .vgather _ _ _ _ _ _ => true
  | .vst _ _ _ _ _ _ => true
  | .vscatter _ _ _ _ _ _ => true
  | .ldsync _ _ _ _ => true
  | .ldsyncKeep _ _ _ _ => true
  | .stsync _ _ _ _ => true
  | .stfill _ _ _ _ => true
  | .feset _ _ _ => true
  | .feclr _ _ _ => true
  | .feread _ _ _ _ => true
  | .amoAdd _ _ _ _ t _ _ => t.isAmo
  | .amoAnd _ _ _ _ t _ _ => t.isAmo
  | .amoOr _ _ _ _ t _ _ => t.isAmo
  | .amoXor _ _ _ _ t _ _ => t.isAmo
  | .amoMin _ _ _ _ t _ _ => t.isAmo
  | .amoMax _ _ _ _ t _ _ => t.isAmo
  | .amoSwap _ _ _ _ t _ _ => t.isAmo
  | .amoCas _ _ _ _ _ t _ _ => t.isAmo
  | .fence _ o _ => o != .rlx
  | .plbload _ _ _ => true
  | .plbinval _ _ _ => true
  | .scflush _ _ _ => true
  | .scinval _ _ => true
  | .prefetch _ _ => true
  | .prefetchW _ _ => true
  | .vaddInt _ _ _ _ t _ _ => t.isInt
  | .vsubInt _ _ _ _ t _ _ => t.isInt
  | .vmulInt _ _ _ _ t _ _ => t.isInt
  | .vminInt _ _ _ _ t _ => t.isInt
  | .vmaxInt _ _ _ _ t _ => t.isInt
  | .vabsInt _ _ _ t _ _ => t.isInt
  | .vnegInt _ _ _ t _ _ => t.isInt
  | .vshl _ _ _ _ t _ _ => t.isInt
  | .vshr _ _ _ _ t _ => t.isInt
  | .vsar _ _ _ _ t _ => t.isInt
  | .vrand _ _ _ _ t _ => t.isRand
  | .vaddIntScalar _ _ _ _ t _ _ => t.isInt
  | .vsubIntScalar _ _ _ _ t _ _ => t.isInt
  | .vmulIntScalar _ _ _ _ t _ _ => t.isInt
  | .vminIntScalar _ _ _ _ t _ => t.isInt
  | .vmaxIntScalar _ _ _ _ t _ => t.isInt
  | .vshlScalar _ _ _ _ t _ _ => t.isInt
  | .vshrScalar _ _ _ _ t _ => t.isInt
  | .vsarScalar _ _ _ _ t _ => t.isInt
  | .vaddFp _ _ _ _ t _ _ => t.isFloat
  | .vsubFp _ _ _ _ t _ _ => t.isFloat
  | .vmulFp _ _ _ _ t _ _ => t.isFloat
  | .vminFp _ _ _ _ t _ => t.isFloat
  | .vmaxFp _ _ _ _ t _ => t.isFloat
  | .vabsFp _ _ _ t _ => t.isFloat
  | .vnegFp _ _ _ t _ => t.isFloat
  | .vaddFpScalar _ _ _ _ t _ _ => t.isFloat
  | .vsubFpScalar _ _ _ _ t _ _ => t.isFloat
  | .vmulFpScalar _ _ _ _ t _ _ => t.isFloat
  | .vminFpScalar _ _ _ _ t _ => t.isFloat
  | .vmaxFpScalar _ _ _ _ t _ => t.isFloat
  | .vfma _ _ _ _ _ t _ _ => t.isFloat
  | .vfmaNa _ _ _ _ _ t _ _ => t.isFloat
  | .vfmaNc _ _ _ _ _ t _ _ => t.isFloat
  | .vfmaNaNc _ _ _ _ _ t _ _ => t.isFloat
  | .vcmpEq _ _ _ _ _ _ => true
  | .vcmpNe _ _ _ _ _ _ => true
  | .vcmpLt _ _ _ _ _ _ => true
  | .vcmpLe _ _ _ _ _ _ => true
  | .vcmpGt _ _ _ _ _ _ => true
  | .vcmpGe _ _ _ _ _ _ => true
  | .vcmpUn _ _ _ _ t _ => t.isFloat
  | .vcmpEqScalar _ _ _ _ _ _ => true
  | .vcmpNeScalar _ _ _ _ _ _ => true
  | .vcmpLtScalar _ _ _ _ _ _ => true
  | .vcmpLeScalar _ _ _ _ _ _ => true
  | .vcmpGtScalar _ _ _ _ _ _ => true
  | .vcmpGeScalar _ _ _ _ _ _ => true
  | .vcmpUnScalar _ _ _ _ t _ => t.isFloat
  | .vsel _ _ _ _ _ _ => true
  | .vcompress _ _ _ _ _ _ => true
  | .vexpand _ _ _ _ _ => true
  | .vperm _ _ _ _ _ _ => true
  | .vbcast _ _ _ _ _ => true
  | .vredAdd _ _ _ t sat rm _ => (!sat || t.isInt) && rm.okFor t
  | .vredMax _ _ _ _ _ => true
  | .vredMin _ _ _ _ _ => true
  | .vredmaxIdx _ d _ c _ _ => d.apart c
  | .vredminIdx _ d _ c _ _ => d.apart c
  | .vscanAdd _ _ _ t sat rm _ => (!sat || t.isInt) && rm.okFor t
  | .vcvt _ _ _ b t t2 rm => (t.isFloat || rm.okFor t2) && partOk t t2 b
  | .vlog2 _ _ _ _ _ => true
  | .vexp2 _ _ _ _ _ => true
  | .vrcp _ _ _ _ _ => true
  | .vrsqrt _ _ _ _ _ => true
  | .vsqrt _ _ _ _ _ => true
  | .vsin _ _ _ _ _ => true
  | .vcos _ _ _ _ _ => true
  | .vdiv _ _ _ _ t rm _ => rm.okFor t
  | .vrem _ _ _ _ t _ => t.isInt
  | .vdivScalar _ _ _ _ t rm _ => rm.okFor t
  | .vremScalar _ _ _ _ t _ => t.isInt
  | .sbind _ _ _ _ _ => true
  | .sunbind _ _ => true
  | .stest _ _ _ => true
  | .vmovg _ _ _ _ _ => true
  | .gmovv _ _ _ _ _ => true
  | .vand _ _ _ _ _ _ => true
  | .vor _ _ _ _ _ _ => true
  | .vxor _ _ _ _ _ _ => true
  | .vnot _ _ _ _ _ => true
  | .vandScalar _ _ _ _ _ _ => true
  | .vorScalar _ _ _ _ _ _ => true
  | .vxorScalar _ _ _ _ _ _ => true
  | .fork _ _ _ _ _ _ _ _ => true
  | .join _ _ => true
  | .spawn _ _ _ _ => true
  | .halt _ => true
  | .yield _ _ => true
  | .lend _ _ => true
  | .pin _ _ _ => true
  | .callat _ _ _ _ => true
  | .retm _ _ => true
  | .msend _ _ _ _ => true
  | .mrecv _ d c => d.apart c
  | .mwait _ _ => true
  | .mtry _ d c _ => d.apart c
  | .ksig _ _ _ => true
  | .ksub _ _ _ => true
  | .kwait _ _ _ => true
  | .kset _ _ _ => true
  | .kread _ _ _ => true
  | .ttarm _ _ _ _ _ => true
  | .ttcancel _ _ _ => true
  | .qbind _ _ _ => true
  | .qstat _ _ _ => true
  | .roam _ _ => true
  | .mma _ _ _ _ _ _ _ _ _ _ td => td.wf
  | .accld _ _ _ _ _ _ td => td.wf
  | .accst _ _ _ _ _ _ _ _ _ td => td.wf
  | .acczero _ _ _ _ _ td => td.wf
  | .mpack _ _ _ _ _ td => td.wf
  | .munpack _ _ _ _ _ td => td.wf
  | .mwaitj _ _ _ => true
  | .mpoll _ _ _ => true
  | .mwake _ => true
  | .cpy _ _ _ _ _ _ _ td => td.wf
  | .cpyMc _ _ _ _ _ msk _ _ td => msk != 0#8 && td.wf
  | .cpyLb _ _ _ _ _ _ _ _ td => td.wf
  | .cpyRing _ _ _ _ _ _ dim td => dim != .d1 && td.wf
  | .ksproj _ _ _ td => td.wf
  | .kstore _ _ _ _ _ td => td.wf
  | .kgather _ _ _ _ _ _ rad _ td => rad != 3#2 && td.wf
  | .kfence _ td => td.wf
  | .kstat _ _ td => td.wf
  | .kbuild _ _ _ td => td.wf
  | .rinv _ _ _ td => td.wf
  | .rinvT _ _ _ td => td.wf
  | .rinvCard _ _ _ _ td => td.wf
  | .lzcfg _ _ _ _ td => td.wf
  | .lzres _ _ _ td => td.wf
  | .lzrel _ _ _ td => td.wf
  | .lzcpy _ _ _ _ _ _ _ td => td.wf
  | .sigupd _ _ _ _ td => td.wf
  | .sigwait _ _ _ _ td => td.wf
  | .migpt _ => true
  | .trig _ _ _ _ => true
  | .wakeGo _ _ _ => true
  | .wakeHold _ _ _ => true
  | .wakeDrop _ _ _ => true
  | .pair _ _ _ _ => true
  | .heelack _ _ => true
  | .eresume _ _ _ => true
  | .ekill _ _ _ => true
  | .lineFetchComplete _ _ _ => true
  | .syncAttempt _ _ => true
  | .syncAttemptResult _ _ => true
  | .atomicUnitStep _ => true
  | .releaseComplete _ _ => true
  | .sfuRequestStart _ => true
  | .sfuRequestComplete _ => true
  | .dividerComplete _ _ => true
  | .streamReadAhead _ _ _ _ => true
  | .joinReevaluate _ _ => true
  | .msendArrival _ => true
  | .messageDelivery _ => true
  | .semaphoreCycleUpdate _ => true
  | .parkedInstructionRetry _ _ => true
  | .waitLimitExpiry _ _ => true
  | .linkWordArrival _ _ => true
  | .meJobStart _ => true
  | .meJobComplete _ => true
  | .meIdleGate _ => true
  | .meWakeComplete _ => true
  | .retrieverCycle _ => true
  | .copyStart _ _ => true
  | .copyGranuleCount _ _ _ _ _ => true
  | .copyComplete _ _ _ => true
  | .copyEndFault _ _ _ => true
  | .kseCommandStart _ => true
  | .kseCommandComplete _ => true
  | .rinvAnswer _ _ _ => true
  | .invocationArrival _ => true
  | .lzresArrival _ _ => true
  | .lzrelArrival _ _ => true
  | .lzSegmentArrival _ => true
  | .lzTornTimeout _ _ => true
  | .sigupdArrival _ => true
  | .sigwaitReevaluate _ _ => true
  | .pairCompare _ _ => true
  | .trapRecordDeferred _ => true
  | .handlerWatchdogExpiry _ _ => true
  | .storeBufferDrain _ _ => true
  | .homeAgentRequest _ => true
  | .homeResponse _ _ => true
  | .storeAck _ => true
  | .lateRefusal _ _ => true
  | .plbFillComplete _ _ => true
  | .hostAtomicopCompletion _ _ => true
  | .slotAllocatorLaunch _ => true
  | .stealSweep _ => true
  | .stealBackoffExpiry _ => true
  | .threadRestore _ => true
  | .pmcPowerLimit _ => true
  | .evictSave _ _ => true
  | .parkEvictExpiry _ => true
  | .preempt _ => true
  | .doorbell _ _ => true
  | .queueEnable _ => true
  | .qsPick _ => true
  | .qsWaitEvaluate _ _ => true
  | .qsFaultParkExpiry _ => true
  | .qsSignalAck _ _ => true
  | .migrationDrain _ => true
  | .migrationCopy _ _ => true
  | .migrationResume _ => true
  | .migrationTimeout _ => true
  | .migrationReportWrite _ => true
  | .contextSave _ _ => true
  | .contextRestore _ _ => true
  | .coreMigration _ _ => true
  | .forwardQuietExpiry _ _ => true
  | .burstIdleEntry => true
  | .burstRetainEntry => true
  | .burstOffEntry => true
  | .watchDozeEntry => true
  | .dramSelfRefreshEntry => true
  | .islandWake _ _ => true
  | .islandWakeComplete _ => true
  | .dramExitComplete => true
  | .clockChange _ _ => true
  | .energyUpdate => true
  | .triggerEvaluate _ _ => true
  | .triggerCooldownExpiry _ => true
  | .triggerEntryWrite _ _ _ => true
  | .scHeel => true
  | .heelFreezeComplete => true
  | .scReleaseResume => true
  | .scReleaseKill => true
  | .scAckwin _ => true
  | .heelAckWindowExpiry => true
  | .errorDetected _ => true
  | .patrolScrub => true
  | .thermalThrottle => true
  | .thermalTrip => true
  | .timeTick => true
  | .flitReceive _ _ => true
  | .linkControlReceive _ _ => true
  | .linkAckTimeout _ => true
  | .linkTrainingComplete _ _ => true
  | .linkTrainingLost _ => true
  | .wake _ => true
  | .fqrd _ => true
  | .mqrd _ => true
  | .mreply _ _ _ => true
  | .msixModerationExpiry _ => true
  | .plbInvalidate _ => true
  | .translationInvalidate _ => true
  | .routeCacheDrop _ => true
  | .tableWrite _ => true
  | .mgmtCommandComplete => true
  | .fqlog _ => true
  | .mqlog _ => true
  | .memoryWindowRead _ _ _ => true
  | .memoryWindowWrite _ _ _ => true
  | .energyAccountLowRead _ => true
  | .flashRead => true
  | .flashProg => true
  | .flashErase => true
  | .flashOpComplete => true
  | .attestGo => true
  | .attestReportDone => true
  | .bootctl _ => true
  | .debugAttachSelect _ => true
  | .debugStepMode _ => true
  | .debugResume _ => true
  | .debugKill _ => true
  | .registerWrite _ _ _ _ => true
  | .powerOnReset _ => true
  | .plinthBringup _ => true
  | .plinthWatchdogExpiry => true
  | .markerFlip _ _ => true
  | .contextCreate _ => true
  | .contextEnd _ => true
  | .powerLoss => true
  | .inFieldTest _ _ => true

end Sys2Proof
end

