-- ==== Sys2Proof/Decode.lean ====
section
/-! DEFINITION. Decoding and encoding of one head with its tail (02 R41-R59). A word is a head of 16 bits and a tail
of 0, 16, 32 or 64 bits. `Raw` holds the fields a layout reads; the table `forms` is the opcode map of R55-R57 with
the role of every register field; `decodeHead` makes the checks of R58 in their order. -/

namespace Sys2Proof

/-- Why a head is no instruction: the two fault codes of R58. -/
inductive DecodeError where
  /-- Fault code 0x01: an unassigned opcode or sub-op, or a register code outside its set. -/
  | illegal
  /-- Fault code 0x02: a tail length, a reserved field or a modifier against the tables. -/
  | malformed
deriving DecidableEq, Repr

/-! ### Register and modifier codes -/

/-- The register a 5-bit code names (R18); code 31 names none and is refused by its role before it is read. -/
def Reg.ofCode (c : BitVec 5) : Reg :=
  if h : c.toNat < 24 then .g ⟨c.toNat, h⟩
  else if c.toNat < 28 then .x (Fin.ofNat 4 (c.toNat - 24))
  else if c.toNat = 28 then .lw
  else if c.toNat = 29 then .le
  else .z

/-- The 5-bit code of a register (R18). -/
def Reg.code : Reg → BitVec 5
  | .g n => BitVec.ofNat 5 n.val
  | .x n => BitVec.ofNat 5 (24 + n.val)
  | .lw => 28#5
  | .le => 29#5
  | .z => 30#5

/-- The type of a code below 0xC (R51); the reserved codes are refused before they are read. -/
def Ty.ofCode (c : BitVec 4) : Ty :=
  match c.toNat with
  | 0 => .f16 | 1 => .bf16 | 2 => .f32 | 3 => .f64
  | 4 => .i8 | 5 => .i16 | 6 => .i32 | 7 => .i64
  | 8 => .n8 | 9 => .n16 | 10 => .n32 | _ => .n64

/-- The 4-bit code of a type (R51). -/
def Ty.code : Ty → BitVec 4
  | .f16 => 0#4 | .bf16 => 1#4 | .f32 => 2#4 | .f64 => 3#4
  | .i8 => 4#4 | .i16 => 5#4 | .i32 => 6#4 | .i64 => 7#4
  | .n8 => 8#4 | .n16 => 9#4 | .n32 => 10#4 | .n64 => 11#4

/-- The rounding mode of a code below 0b101 (R50). -/
def Rm.ofCode (c : BitVec 3) : Rm :=
  match c.toNat with
  | 0 => .rne | 1 => .rtz | 2 => .rup | 3 => .rdn | _ => .dyn

/-- The 3-bit code of a rounding mode (R50). -/
def Rm.code : Rm → BitVec 3
  | .rne => 0#3 | .rtz => 1#3 | .rup => 2#3 | .rdn => 3#3 | .dyn => 4#3

/-- The order of a code (R268). -/
def Ord.ofCode (c : BitVec 2) : Ord :=
  match c.toNat with
  | 0 => .rlx | 1 => .acq | 2 => .rel | _ => .ar

/-- The code of an order (R268). -/
def Ord.code : Ord → BitVec 2
  | .rlx => 0#2 | .acq => 1#2 | .rel => 2#2 | .ar => 3#2

/-- The scope of a code (R268). -/
def Scope.ofCode (c : BitVec 2) : Scope :=
  match c.toNat with
  | 0 => .core | 1 => .die | 2 => .fab | _ => .sys

/-- The code of a scope (R268). -/
def Scope.code : Scope → BitVec 2
  | .core => 0#2 | .die => 1#2 | .fab => 2#2 | .sys => 3#2

/-- The dimensions of a DIM code below 0b11 (R340). -/
def Dim.ofCode (c : BitVec 2) : Dim :=
  match c.toNat with
  | 0 => .d1 | 1 => .d2 | _ => .d3

/-- The DIM code (R340). -/
def Dim.code : Dim → BitVec 2
  | .d1 => 0#2 | .d2 => 1#2 | .d3 => 2#2

/-- The operation of a sigupd OP code below 0b11 (R437). -/
def SigOp.ofCode (c : BitVec 2) : SigOp :=
  match c.toNat with
  | 0 => .st | 1 => .add | _ => .or

/-- The OP code of a sigupd (R437). -/
def SigOp.code : SigOp → BitVec 2
  | .st => 0#2 | .add => 1#2 | .or => 2#2

/-- The comparison of a CMP code (R437). -/
def Cmp.ofCode (c : BitVec 2) : Cmp :=
  match c.toNat with
  | 0 => .ge | 1 => .eq | 2 => .ne | _ => .lt

/-- The CMP code (R437). -/
def Cmp.code : Cmp → BitVec 2
  | .ge => 0#2 | .eq => 1#2 | .ne => 2#2 | .lt => 3#2

/-- The binding a qbind X field gives (R200): MODE in bits 5:4, the queue in bits 3:0. -/
def PortMode.ofX (x : BitVec 11) : PortMode :=
  match (x.extractLsb' 4 2).toNat with
  | 0 => .unbind
  | 1 => .read (x.extractLsb' 0 4)
  | _ => .write (x.extractLsb' 0 4)

/-- The X field of a binding (R200). -/
def PortMode.toX : PortMode → BitVec 11
  | .unbind => 0#11
  | .read q => 0b0000001#7 ++ q
  | .write q => 0b0000010#7 ++ q

/-- One bit as a field. -/
def bit1 (b : Bool) : BitVec 1 := BitVec.ofBool b

/-! ### Layouts and raw fields -/

/-- The tail layouts of R45 and R46, `tcs` being the sub-op view of TC. -/
inductive Layout where
  | none | ta | tb | tc | tcs | td | te | ti | i32
deriving DecidableEq, Repr

/-- The layout a major reads at a tail length, if it accepts that length (R55). -/
def layoutOf (op : BitVec 6) (tl : BitVec 2) : Option Layout :=
  match op.toNat, tl.toNat with
  | 0x01, 0 => some .none | 0x01, 1 => some .ti
  | 0x02, 1 => some .ta | 0x02, 2 => some .tb
  | 0x03, 2 => some .tcs
  | 0x04, 1 => some .ti | 0x04, 2 => some .i32 | 0x04, 3 => some .te
  | 0x05, 1 => some .ta
  | 0x06, 1 => some .ta | 0x06, 2 => some .tcs
  | 0x07, 2 => some .tb
  | 0x08, 1 => some .ta | 0x08, 2 => some .tcs
  | 0x09, 1 => some .ta
  | 0x0A, 2 => some .tb | 0x0B, 2 => some .tb | 0x0C, 2 => some .tb
  | 0x0D, 1 => some .ta | 0x0D, 2 => some .tb
  | 0x10, 2 => some .tc
  | 0x11, 0 => some .none
  | 0x12, 1 => some .ta | 0x12, 2 => some .tc
  | 0x13, 0 => some .none
  | 0x14, 2 => some .tc
  | 0x15, 0 => some .none | 0x15, 1 => some .ti
  | 0x18, 2 => some .tb | 0x19, 2 => some .tb | 0x1A, 2 => some .tb | 0x1B, 2 => some .tb
  | 0x1C, 2 => some .tb | 0x1D, 2 => some .tb | 0x1E, 2 => some .tb
  | 0x1F, 1 => some .ta
  | 0x20, 2 => some .tb | 0x21, 2 => some .tb | 0x22, 2 => some .tb | 0x23, 2 => some .tb
  | 0x24, 2 => some .tb | 0x25, 2 => some .tb | 0x26, 2 => some .tb | 0x27, 2 => some .tb
  | 0x28, 2 => some .tb | 0x29, 2 => some .tb | 0x2A, 2 => some .tb | 0x2B, 2 => some .tb
  | 0x30, 2 => some .tb | 0x31, 2 => some .tb | 0x32, 2 => some .tb | 0x33, 2 => some .tb
  | 0x34, 2 => some .tb | 0x35, 2 => some .tb | 0x36, 2 => some .tb
  | 0x38, 3 => some .td | 0x39, 3 => some .td | 0x3A, 3 => some .td
  | 0x3B, 1 => some .ta
  | 0x3C, 3 => some .td | 0x3D, 3 => some .td | 0x3E, 3 => some .td
  | 0x3F, 2 => some .tb
  | _, _ => none

/-- A major the opcode map assigns (R55). -/
def assigned (op : BitVec 6) : Bool :=
  let n := op.toNat
  (1 ≤ n && n ≤ 0x0D) || (0x10 ≤ n && n ≤ 0x15) || (0x18 ≤ n && n ≤ 0x2B) || (0x30 ≤ n && n ≤ 0x36) ||
  (0x38 ≤ n && n ≤ 0x3F)

/-- The fields of a head and its tail. A field its layout does not have reads zero. -/
structure Raw where
  op : BitVec 6
  d : BitVec 5
  g : Guard
  tl : BitVec 2
  a : BitVec 5 := 0
  b : BitVec 5 := 0
  c : BitVec 5 := 0
  f : BitVec 6 := 0
  /-- X of TB, or imm21, imm27, imm16, imm32 or imm64, in the low bits. -/
  x : Word := 0
  y : BitVec 15 := 0
  td : Td := ⟨0, 0, 0, 0⟩
deriving DecidableEq, Repr

/-- The fields that a layout reads from a head and a tail (R41, R45-R47). -/
def Raw.read (h : BitVec 16) (t : Word) (l : Layout) : Raw :=
  let r : Raw := { op := h.extractLsb' 10 6, d := h.extractLsb' 5 5, g := h.extractLsb' 2 3, tl := h.extractLsb' 0 2 }
  match l with
  | .none => r
  | .ta => { r with a := t.extractLsb' 11 5, b := t.extractLsb' 6 5, f := t.extractLsb' 0 6 }
  | .tb => { r with a := t.extractLsb' 27 5, b := t.extractLsb' 22 5, c := t.extractLsb' 17 5,
                    f := t.extractLsb' 11 6, x := (t.extractLsb' 0 11).setWidth 64 }
  | .tc => { r with a := t.extractLsb' 27 5, x := (t.extractLsb' 0 27).setWidth 64 }
  | .tcs => { r with a := t.extractLsb' 27 5, f := t.extractLsb' 21 6, x := (t.extractLsb' 0 21).setWidth 64 }
  | .td => { r with td := ⟨t.extractLsb' 56 8, t.extractLsb' 48 8, t.extractLsb' 40 8, t.extractLsb' 36 4⟩,
                    f := t.extractLsb' 30 6, a := t.extractLsb' 25 5, b := t.extractLsb' 20 5,
                    c := t.extractLsb' 15 5, y := t.extractLsb' 0 15 }
  | .te => { r with x := t }
  | .ti => { r with x := (t.extractLsb' 0 16).setWidth 64 }
  | .i32 => { r with x := (t.extractLsb' 0 32).setWidth 64 }

/-- The head and the tail of fields (R41, R45-R47): `Raw.read` backwards. -/
def Raw.words (r : Raw) (l : Layout) : BitVec 16 × Word :=
  (r.op ++ r.d ++ r.g ++ r.tl,
   match l with
   | .none => 0
   | .ta => (r.a ++ r.b ++ r.f).setWidth 64
   | .tb => (r.a ++ r.b ++ r.c ++ r.f ++ r.x.extractLsb' 0 11).setWidth 64
   | .tc => (r.a ++ r.x.extractLsb' 0 27).setWidth 64
   | .tcs => (r.a ++ r.f ++ r.x.extractLsb' 0 21).setWidth 64
   | .td => r.td.ws ++ r.td.wt ++ r.td.ss ++ r.td.si ++ r.f ++ r.a ++ r.b ++ r.c ++ r.y
   | .te => r.x
   | .ti => (r.x.extractLsb' 0 16).setWidth 64
   | .i32 => (r.x.extractLsb' 0 32).setWidth 64)

namespace Raw
def rd (r : Raw) : Reg := Reg.ofCode r.d
def ra (r : Raw) : Reg := Reg.ofCode r.a
def rb (r : Raw) : Reg := Reg.ofCode r.b
def rc (r : Raw) : Reg := Reg.ofCode r.c
def vd (r : Raw) : VReg := r.d.extractLsb' 0 3
def va (r : Raw) : VReg := r.a.extractLsb' 0 3
def vb (r : Raw) : VReg := r.b.extractLsb' 0 3
def vc (r : Raw) : VReg := r.c.extractLsb' 0 3
def md (r : Raw) : MReg := r.d.extractLsb' 0 2
/-- The type code, X[6:3] (R50, R52, R268). -/
def tcode (r : Raw) : BitVec 4 := r.x.extractLsb' 3 4
/-- The second type code, X[10:7] (R50). -/
def tcode2 (r : Raw) : BitVec 4 := r.x.extractLsb' 7 4
def rmcode (r : Raw) : BitVec 3 := r.x.extractLsb' 0 3
def t (r : Raw) : Ty := Ty.ofCode r.tcode
def t2 (r : Raw) : Ty := Ty.ofCode r.tcode2
def rm (r : Raw) : Rm := Rm.ofCode r.rmcode
/-- The saturation bit S, X[10] (R52). -/
def sat (r : Raw) : Bool := r.x.getLsbD 10
/-- The mask of a vector form: M in X[9], MK in X[8:7] (R52). -/
def m (r : Raw) : Option MReg := if r.x.getLsbD 9 then some (r.x.extractLsb' 7 2) else none
def disp (r : Raw) : BitVec 11 := r.x.extractLsb' 0 11
def imm21 (r : Raw) : BitVec 21 := r.x.extractLsb' 0 21
/-- Bits of Y (R47). -/
def yb (r : Raw) (i : Nat) : Bool := r.y.getLsbD i
end Raw

/-! ### The roles of register fields (R18, R54, R126, R137, R200, R313) -/

/-- What a 5-bit field of an entry names. -/
inductive Role where
  | zero | gen | counter | link | vec | stream | mask | pred | port | fifo | movDst | part | sub
deriving DecidableEq, Repr

/-- Step 4 of R58: the code lies in the set its field accepts. -/
def Role.accepts (r : Role) (c : BitVec 5) : Bool :=
  let n := c.toNat
  match r with
  | .gen => n != 31
  | .counter => n < 24
  | .link => n < 24 || n == 30
  | .stream => 4 ≤ n % 8
  | .port => 24 ≤ n && n < 28
  | .fifo => n == 28 || n == 29
  | .movDst => n < 28 || n == 30
  | .zero | .vec | .mask | .pred | .part | .sub => true

/-- Step 6 of R58: the bits the field does not use are zero (R54). -/
def Role.clean (r : Role) (c : BitVec 5) : Bool :=
  let n := c.toNat
  match r with
  | .zero => n == 0
  | .vec | .stream | .pred | .part => n < 8
  | .mask => n < 4
  | .gen | .counter | .link | .port | .fifo | .movDst | .sub => true

/-! ### The modifier fields (step 6 of R58) -/

namespace Raw
def tOk (r : Raw) : Bool := r.tcode.toNat < 12
def t2Ok (r : Raw) : Bool := r.tcode2.toNat < 12
def rmOk (r : Raw) : Bool := r.rmcode.toNat < 5
def xz (r : Raw) : Bool := r.x == 0
def yz (r : Raw) : Bool := r.y == 0
/-- TB with no modifiers, or any TA, TC, TI, I32 or TE form. -/
def okZero (r : Raw) : Bool := r.xz
/-- imm21 holding a shift count (R104). -/
def okSh6 (r : Raw) : Bool := r.x.toNat < 64
/-- imm21 holding a bit field (R107). -/
def okBitf (r : Raw) : Bool :=
  r.x.toNat < 4096 && (r.x.extractLsb' 0 6).toNat + (r.x.extractLsb' 6 6).toNat + 1 ≤ 64
/-- R115: a floating-point type, T2 zero, any rounding mode. -/
def okFp (r : Raw) : Bool := r.tOk && r.t.isFloat && r.tcode2 == 0 && r.rmOk
/-- R115: a floating-point type, T2 zero, RM zero. -/
def okFp0 (r : Raw) : Bool := r.tOk && r.t.isFloat && r.tcode2 == 0 && r.rmcode == 0
/-- R115: fcvt. -/
def okCvt (r : Raw) : Bool := r.tOk && r.t2Ok && r.rmOk && (r.t.isFloat || r.t2.isFloat || r.rmcode == 0)
/-- R149: vcvt. -/
def okVcvt (r : Raw) : Bool := r.okCvt && partOk r.t r.t2 (r.b.extractLsb' 0 3)
/-- R112: an index in X[7:0]. -/
def okIdx (r : Raw) : Bool := r.x.toNat < 256
/-- R52, R137: a vector form; the types it accepts, whether S, M and RM may be set. -/
def okVec (types : Ty → Bool) (s m : Bool) (rm : Bool) (r : Raw) : Bool :=
  r.tOk && types r.t && r.rmOk && (s || !r.sat) && (m || !r.x.getLsbD 9) &&
  (r.x.getLsbD 9 || r.x.extractLsb' 7 2 == 0#2) && (rm || r.rmcode == 0)
/-- R137: the forms that saturate only integers and round only floats. -/
def okVecMixed (s rm : Bool) (r : Raw) : Bool :=
  r.okVec (fun _ => true) (s && r.t.isInt) true (rm && r.t.isFloat)
/-- R145: vsel requires its mask. -/
def okVsel (r : Raw) : Bool := r.okVec (fun _ => true) false true false && r.x.getLsbD 9
/-- R123: a vector load or store. -/
def okVmem (r : Raw) : Bool := r.okVec (fun _ => true) false true false
/-- R268: an atomic. -/
def okAmo (r : Raw) : Bool := r.tOk && r.t.isAmo && r.rmcode == 0
/-- R275: a fence. -/
def okFence (r : Raw) : Bool := r.x.extractLsb' 9 2 != 0#2 && r.x.extractLsb' 0 7 == 0#7
/-- R278: plbinval. -/
def okPlbinval (r : Raw) : Bool :=
  r.x.toNat < 4 && (!r.x.getLsbD 0 || r.a == 0) && (r.x.getLsbD 1 || r.b == 0)
/-- R200: the X bits of fork, of a semaphore, a queue, a flag, a predicate. -/
def okX (bits : Nat) (r : Raw) : Bool := r.x.toNat < 2 ^ bits
/-- R200: qbind. -/
def okQbind (r : Raw) : Bool :=
  r.x.toNat < 64 && r.x.extractLsb' 4 2 != 3#2 && (r.x.extractLsb' 4 2 != 0#2 || r.x.extractLsb' 0 4 == 0#4)
/-- R373: wake. -/
def okWake (r : Raw) : Bool := r.x.toNat < 3
/-- R47, R48: the Y bits an entry leaves blank are zero, and the semaphore fields are in order. -/
def okY (used : BitVec 15) (r : Raw) : Bool := (r.y &&& ~~~used) == 0 && r.td.wf
/-- R340: DIM of a copy is not 0b11. -/
def okDim (used : BitVec 15) (r : Raw) : Bool := r.okY used && r.y.extractLsb' 0 2 != 3#2
/-- R340: cpy.mc has a nonzero MASK. -/
def okCpyMc (r : Raw) : Bool := r.okDim 0x7FC3#15 && r.y.extractLsb' 7 8 != 0#8
/-- R340: cpy.lb takes DIM 0b01 only. -/
def okCpyLb (r : Raw) : Bool := r.okY 0x7B#15 && r.y.extractLsb' 0 2 == 1#2
/-- R340: cpy.ring takes DIM 0b01 and 0b10. -/
def okCpyRing (r : Raw) : Bool := r.okDim 0x43#15 && r.y.extractLsb' 0 2 != 0#2
/-- R351: RAD of kgather is not 0b11. -/
def okKgather (r : Raw) : Bool := r.okY 0x1DF#15 && r.y.extractLsb' 6 2 != 3#2
/-- R437: OP of sigupd is not 0b11. -/
def okSigupd (r : Raw) : Bool := r.okY 3#15 && r.y.extractLsb' 0 2 != 3#2
end Raw

/-! ### The opcode map -/

/-- The instruction forms, by name. -/
inductive Op where
  | nop | brk | brkCode | trap | eret | add | sub | land | lor | lxor | andn | shl | shr | sar | rol | min | max
  | minu | maxu | addSat | subSat | addSatu | subSatu | sel | addImm | landImm | lorImm | lxorImm | andnImm | minImm
  | maxImm | minuImm | maxuImm | addSatImm | addSatuImm | shlImm | shrImm | sarImm | rolImm | li | liI32 | liTe | mul
  | mulh | mulhu | div | divu | rem | remu | clz | ctz | popc | bswap | sextB | sextH | sextW | zextB | zextH | zextW
  | bext | bins | lea | cmpEq | cmpNe | cmpLt | cmpGe | cmpLtu | cmpGeu | cmpGt | cmpLe | cmpGtu | cmpLeu | cmpTst
  | cmpNtst | cmpEqImm | cmpNeImm | cmpLtImm | cmpGeImm | cmpLtuImm | cmpGeuImm | cmpGtImm | cmpLeImm | cmpGtuImm
  | cmpLeuImm | cmpTstImm | cmpNtstImm | pand | por | pxor | pnot | fadd | fsub | fmul | fdiv | fsqrt | fmin | fmax
  | fcmpEq | fcmpNe | fcmpLt | fcmpLe | fcmpUn | fcvt | fclass | fma | fmaNa | fmaNc | fmaNaNc | mov | movF | mfs
  | mts | pwdogWrite | bootcntWrite | br | jmp | call | callReg | ret | loop | ldB | ldH | ldW | ldD | ldsB | ldsH
  | ldsW | ldBS | ldHS | ldWS | ldDS | ldsBS | ldsHS | ldsWS | stB | stH | stW | stD | stBS | stHS | stWS | stDS
  | vld | vldS | vgather | vst | vscatter | ldsync | ldsyncKeep | stsync | stfill | feset | feclr | feread | amoAdd
  | amoAnd | amoOr | amoXor | amoMin | amoMax | amoSwap | amoCas | fence | plbload | plbinval | scflush | scinval
  | prefetch | prefetchW | vaddInt | vsubInt | vmulInt | vminInt | vmaxInt | vabsInt | vnegInt | vshl | vshr | vsar
  | vrand | vaddIntScalar | vsubIntScalar | vmulIntScalar | vminIntScalar | vmaxIntScalar | vshlScalar | vshrScalar
  | vsarScalar | vaddFp | vsubFp | vmulFp | vminFp | vmaxFp | vabsFp | vnegFp | vaddFpScalar | vsubFpScalar
  | vmulFpScalar | vminFpScalar | vmaxFpScalar | vfma | vfmaNa | vfmaNc | vfmaNaNc | vcmpEq | vcmpNe | vcmpLt
  | vcmpLe | vcmpGt | vcmpGe | vcmpUn | vcmpEqScalar | vcmpNeScalar | vcmpLtScalar | vcmpLeScalar | vcmpGtScalar
  | vcmpGeScalar | vcmpUnScalar | vsel | vcompress | vexpand | vperm | vbcast | vredAdd | vredMax | vredMin
  | vredmaxIdx | vredminIdx | vscanAdd | vcvt | vlog2 | vexp2 | vrcp | vrsqrt | vsqrt | vsin | vcos | vdiv | vrem
  | vdivScalar | vremScalar | sbind | sunbind | stest | vmovg | gmovv | vand | vor | vxor | vnot | vandScalar
  | vorScalar | vxorScalar | fork | join | spawn | halt | yield | lend | pin | callat | retm | msend | mrecv | mwait
  | mtry | ksig | ksub | kwait | kset | kread | ttarm | ttcancel | qbind | qstat | roam | mma | accld | accst
  | acczero | mpack | munpack | mwaitj | mpoll | mwake | cpy | cpyMc | cpyLb | cpyRing | ksproj | kstore | kgather
  | kfence | kstat | kbuild | rinv | rinvT | rinvCard | lzcfg | lzres | lzrel | lzcpy | sigupd | sigwait | migpt
  | trig | wakeGo | wakeHold | wakeDrop | pair | heelack | eresume | ekill
deriving DecidableEq, Repr

/-- One row of the opcode map: the sub-op, the only tail length at which it is valid, the roles of D, A, B and C,
the check of its modifier fields, and the instruction form it stands for. -/
structure Form where
  sub : Nat
  tl : Nat
  roleD : Role
  roleA : Role
  roleB : Role
  roleC : Role
  ok : Raw → Bool
  op : Raw → Op
  /-- D and C are both destinations (R35). -/
  twoDst : Bool := false

/-- The forms of major 0x01. -/
def forms01 : List Form := [
  { sub := 0x00, tl := 0, roleD := .sub, roleA := .zero, roleB := .zero, roleC := .zero, ok := Raw.okZero,
    op := fun _ => .nop },
  { sub := 0x01, tl := 0, roleD := .sub, roleA := .zero, roleB := .zero, roleC := .zero, ok := Raw.okZero,
    op := fun _ => .brk },
  { sub := 0x01, tl := 1, roleD := .sub, roleA := .zero, roleB := .zero, roleC := .zero, ok := fun _ => true,
    op := fun _ => .brkCode }]

/-- The forms of major 0x15. -/
def forms15 : List Form := [
  { sub := 0x00, tl := 1, roleD := .sub, roleA := .zero, roleB := .zero, roleC := .zero, ok := fun _ => true,
    op := fun _ => .trap },
  { sub := 0x01, tl := 0, roleD := .sub, roleA := .zero, roleB := .zero, roleC := .zero, ok := Raw.okZero,
    op := fun _ => .eret }]

/-- The forms of major 0x02. -/
def forms02 : List Form := [
  { sub := 0x00, tl := 1, roleD := .gen, roleA := .gen, roleB := .gen, roleC := .zero, ok := Raw.okZero,
    op := fun _ => .add },
  { sub := 0x01, tl := 1, roleD := .gen, roleA := .gen, roleB := .gen, roleC := .zero, ok := Raw.okZero,
    op := fun _ => .sub },
  { sub := 0x02, tl := 1, roleD := .gen, roleA := .gen, roleB := .gen, roleC := .zero, ok := Raw.okZero,
    op := fun _ => .land },
  { sub := 0x03, tl := 1, roleD := .gen, roleA := .gen, roleB := .gen, roleC := .zero, ok := Raw.okZero,
    op := fun _ => .lor },
  { sub := 0x04, tl := 1, roleD := .gen, roleA := .gen, roleB := .gen, roleC := .zero, ok := Raw.okZero,
    op := fun _ => .lxor },
  { sub := 0x05, tl := 1, roleD := .gen, roleA := .gen, roleB := .gen, roleC := .zero, ok := Raw.okZero,
    op := fun _ => .andn },
  { sub := 0x06, tl := 1, roleD := .gen, roleA := .gen, roleB := .gen, roleC := .zero, ok := Raw.okZero,
    op := fun _ => .shl },
  { sub := 0x07, tl := 1, roleD := .gen, roleA := .gen, roleB := .gen, roleC := .zero, ok := Raw.okZero,
    op := fun _ => .shr },
  { sub := 0x08, tl := 1, roleD := .gen, roleA := .gen, roleB := .gen, roleC := .zero, ok := Raw.okZero,
    op := fun _ => .sar },
  { sub := 0x09, tl := 1, roleD := .gen, roleA := .gen, roleB := .gen, roleC := .zero, ok := Raw.okZero,
    op := fun _ => .rol },
  { sub := 0x0A, tl := 1, roleD := .gen, roleA := .gen, roleB := .gen, roleC := .zero, ok := Raw.okZero,
    op := fun _ => .min },
  { sub := 0x0B, tl := 1, roleD := .gen, roleA := .gen, roleB := .gen, roleC := .zero, ok := Raw.okZero,
    op := fun _ => .max },
  { sub := 0x0C, tl := 1, roleD := .gen, roleA := .gen, roleB := .gen, roleC := .zero, ok := Raw.okZero,
    op := fun _ => .minu },
  { sub := 0x0D, tl := 1, roleD := .gen, roleA := .gen, roleB := .gen, roleC := .zero, ok := Raw.okZero,
    op := fun _ => .maxu },
  { sub := 0x0E, tl := 1, roleD := .gen, roleA := .gen, roleB := .gen, roleC := .zero, ok := Raw.okZero,
    op := fun _ => .addSat },
  { sub := 0x0F, tl := 1, roleD := .gen, roleA := .gen, roleB := .gen, roleC := .zero, ok := Raw.okZero,
    op := fun _ => .subSat },
  { sub := 0x10, tl := 1, roleD := .gen, roleA := .gen, roleB := .gen, roleC := .zero, ok := Raw.okZero,
    op := fun _ => .addSatu },
  { sub := 0x11, tl := 1, roleD := .gen, roleA := .gen, roleB := .gen, roleC := .zero, ok := Raw.okZero,
    op := fun _ => .subSatu },
  { sub := 0x12, tl := 2, roleD := .gen, roleA := .gen, roleB := .gen, roleC := .pred, ok := Raw.okZero,
    op := fun _ => .sel }]

/-- The forms of major 0x03. -/
def forms03 : List Form := [
  { sub := 0x00, tl := 2, roleD := .gen, roleA := .gen, roleB := .zero, roleC := .zero, ok := fun _ => true,
    op := fun _ => .addImm },
  { sub := 0x02, tl := 2, roleD := .gen, roleA := .gen, roleB := .zero, roleC := .zero, ok := fun _ => true,
    op := fun _ => .landImm },
  { sub := 0x03, tl := 2, roleD := .gen, roleA := .gen, roleB := .zero, roleC := .zero, ok := fun _ => true,
    op := fun _ => .lorImm },
  { sub := 0x04, tl := 2, roleD := .gen, roleA := .gen, roleB := .zero, roleC := .zero, ok := fun _ => true,
    op := fun _ => .lxorImm },
  { sub := 0x05, tl := 2, roleD := .gen, roleA := .gen, roleB := .zero, roleC := .zero, ok := fun _ => true,
    op := fun _ => .andnImm },
  { sub := 0x0A, tl := 2, roleD := .gen, roleA := .gen, roleB := .zero, roleC := .zero, ok := fun _ => true,
    op := fun _ => .minImm },
  { sub := 0x0B, tl := 2, roleD := .gen, roleA := .gen, roleB := .zero, roleC := .zero, ok := fun _ => true,
    op := fun _ => .maxImm },
  { sub := 0x0C, tl := 2, roleD := .gen, roleA := .gen, roleB := .zero, roleC := .zero, ok := fun _ => true,
    op := fun _ => .minuImm },
  { sub := 0x0D, tl := 2, roleD := .gen, roleA := .gen, roleB := .zero, roleC := .zero, ok := fun _ => true,
    op := fun _ => .maxuImm },
  { sub := 0x0E, tl := 2, roleD := .gen, roleA := .gen, roleB := .zero, roleC := .zero, ok := fun _ => true,
    op := fun _ => .addSatImm },
  { sub := 0x10, tl := 2, roleD := .gen, roleA := .gen, roleB := .zero, roleC := .zero, ok := fun _ => true,
    op := fun _ => .addSatuImm },
  { sub := 0x06, tl := 2, roleD := .gen, roleA := .gen, roleB := .zero, roleC := .zero, ok := Raw.okSh6,
    op := fun _ => .shlImm },
  { sub := 0x07, tl := 2, roleD := .gen, roleA := .gen, roleB := .zero, roleC := .zero, ok := Raw.okSh6,
    op := fun _ => .shrImm },
  { sub := 0x08, tl := 2, roleD := .gen, roleA := .gen, roleB := .zero, roleC := .zero, ok := Raw.okSh6,
    op := fun _ => .sarImm },
  { sub := 0x09, tl := 2, roleD := .gen, roleA := .gen, roleB := .zero, roleC := .zero, ok := Raw.okSh6,
    op := fun _ => .rolImm }]

/-- The forms of major 0x04. -/
def forms04 : List Form := [
  { sub := 0x00, tl := 1, roleD := .gen, roleA := .zero, roleB := .zero, roleC := .zero, ok := fun _ => true,
    op := fun _ => .li },
  { sub := 0x00, tl := 2, roleD := .gen, roleA := .zero, roleB := .zero, roleC := .zero, ok := fun _ => true,
    op := fun _ => .liI32 },
  { sub := 0x00, tl := 3, roleD := .gen, roleA := .zero, roleB := .zero, roleC := .zero, ok := fun _ => true,
    op := fun _ => .liTe }]

/-- The forms of major 0x05. -/
def forms05 : List Form := [
  { sub := 0x00, tl := 1, roleD := .gen, roleA := .gen, roleB := .gen, roleC := .zero, ok := Raw.okZero,
    op := fun _ => .mul },
  { sub := 0x01, tl := 1, roleD := .gen, roleA := .gen, roleB := .gen, roleC := .zero, ok := Raw.okZero,
    op := fun _ => .mulh },
  { sub := 0x02, tl := 1, roleD := .gen, roleA := .gen, roleB := .gen, roleC := .zero, ok := Raw.okZero,
    op := fun _ => .mulhu },
  { sub := 0x08, tl := 1, roleD := .gen, roleA := .gen, roleB := .gen, roleC := .zero, ok := Raw.okZero,
    op := fun _ => .div },
  { sub := 0x09, tl := 1, roleD := .gen, roleA := .gen, roleB := .gen, roleC := .zero, ok := Raw.okZero,
    op := fun _ => .divu },
  { sub := 0x0A, tl := 1, roleD := .gen, roleA := .gen, roleB := .gen, roleC := .zero, ok := Raw.okZero,
    op := fun _ => .rem },
  { sub := 0x0B, tl := 1, roleD := .gen, roleA := .gen, roleB := .gen, roleC := .zero, ok := Raw.okZero,
    op := fun _ => .remu }]

/-- The forms of major 0x06. -/
def forms06 : List Form := [
  { sub := 0x00, tl := 1, roleD := .gen, roleA := .gen, roleB := .zero, roleC := .zero, ok := Raw.okZero,
    op := fun _ => .clz },
  { sub := 0x01, tl := 1, roleD := .gen, roleA := .gen, roleB := .zero, roleC := .zero, ok := Raw.okZero,
    op := fun _ => .ctz },
  { sub := 0x02, tl := 1, roleD := .gen, roleA := .gen, roleB := .zero, roleC := .zero, ok := Raw.okZero,
    op := fun _ => .popc },
  { sub := 0x03, tl := 1, roleD := .gen, roleA := .gen, roleB := .zero, roleC := .zero, ok := Raw.okZero,
    op := fun _ => .bswap },
  { sub := 0x04, tl := 1, roleD := .gen, roleA := .gen, roleB := .zero, roleC := .zero, ok := Raw.okZero,
    op := fun _ => .sextB },
  { sub := 0x05, tl := 1, roleD := .gen, roleA := .gen, roleB := .zero, roleC := .zero, ok := Raw.okZero,
    op := fun _ => .sextH },
  { sub := 0x06, tl := 1, roleD := .gen, roleA := .gen, roleB := .zero, roleC := .zero, ok := Raw.okZero,
    op := fun _ => .sextW },
  { sub := 0x07, tl := 1, roleD := .gen, roleA := .gen, roleB := .zero, roleC := .zero, ok := Raw.okZero,
    op := fun _ => .zextB },
  { sub := 0x08, tl := 1, roleD := .gen, roleA := .gen, roleB := .zero, roleC := .zero, ok := Raw.okZero,
    op := fun _ => .zextH },
  { sub := 0x09, tl := 1, roleD := .gen, roleA := .gen, roleB := .zero, roleC := .zero, ok := Raw.okZero,
    op := fun _ => .zextW },
  { sub := 0x10, tl := 2, roleD := .gen, roleA := .gen, roleB := .zero, roleC := .zero, ok := Raw.okBitf,
    op := fun _ => .bext },
  { sub := 0x11, tl := 2, roleD := .gen, roleA := .gen, roleB := .zero, roleC := .zero, ok := Raw.okBitf,
    op := fun _ => .bins }]

/-- The forms of major 0x07. -/
def forms07 : List Form := [
  { sub := 0x00, tl := 2, roleD := .gen, roleA := .gen, roleB := .gen, roleC := .zero, ok := fun _ => true,
    op := fun _ => .lea },
  { sub := 0x01, tl := 2, roleD := .gen, roleA := .gen, roleB := .gen, roleC := .zero, ok := fun _ => true,
    op := fun _ => .lea },
  { sub := 0x02, tl := 2, roleD := .gen, roleA := .gen, roleB := .gen, roleC := .zero, ok := fun _ => true,
    op := fun _ => .lea },
  { sub := 0x03, tl := 2, roleD := .gen, roleA := .gen, roleB := .gen, roleC := .zero, ok := fun _ => true,
    op := fun _ => .lea }]

/-- The forms of major 0x08. -/
def forms08 : List Form := [
  { sub := 0x00, tl := 1, roleD := .pred, roleA := .gen, roleB := .gen, roleC := .zero, ok := Raw.okZero,
    op := fun _ => .cmpEq },
  { sub := 0x01, tl := 1, roleD := .pred, roleA := .gen, roleB := .gen, roleC := .zero, ok := Raw.okZero,
    op := fun _ => .cmpNe },
  { sub := 0x02, tl := 1, roleD := .pred, roleA := .gen, roleB := .gen, roleC := .zero, ok := Raw.okZero,
    op := fun _ => .cmpLt },
  { sub := 0x03, tl := 1, roleD := .pred, roleA := .gen, roleB := .gen, roleC := .zero, ok := Raw.okZero,
    op := fun _ => .cmpGe },
  { sub := 0x04, tl := 1, roleD := .pred, roleA := .gen, roleB := .gen, roleC := .zero, ok := Raw.okZero,
    op := fun _ => .cmpLtu },
  { sub := 0x05, tl := 1, roleD := .pred, roleA := .gen, roleB := .gen, roleC := .zero, ok := Raw.okZero,
    op := fun _ => .cmpGeu },
  { sub := 0x06, tl := 1, roleD := .pred, roleA := .gen, roleB := .gen, roleC := .zero, ok := Raw.okZero,
    op := fun _ => .cmpGt },
  { sub := 0x07, tl := 1, roleD := .pred, roleA := .gen, roleB := .gen, roleC := .zero, ok := Raw.okZero,
    op := fun _ => .cmpLe },
  { sub := 0x08, tl := 1, roleD := .pred, roleA := .gen, roleB := .gen, roleC := .zero, ok := Raw.okZero,
    op := fun _ => .cmpGtu },
  { sub := 0x09, tl := 1, roleD := .pred, roleA := .gen, roleB := .gen, roleC := .zero, ok := Raw.okZero,
    op := fun _ => .cmpLeu },
  { sub := 0x0A, tl := 1, roleD := .pred, roleA := .gen, roleB := .gen, roleC := .zero, ok := Raw.okZero,
    op := fun _ => .cmpTst },
  { sub := 0x0B, tl := 1, roleD := .pred, roleA := .gen, roleB := .gen, roleC := .zero, ok := Raw.okZero,
    op := fun _ => .cmpNtst },
  { sub := 0x00, tl := 2, roleD := .pred, roleA := .gen, roleB := .zero, roleC := .zero, ok := fun _ => true,
    op := fun _ => .cmpEqImm },
  { sub := 0x01, tl := 2, roleD := .pred, roleA := .gen, roleB := .zero, roleC := .zero, ok := fun _ => true,
    op := fun _ => .cmpNeImm },
  { sub := 0x02, tl := 2, roleD := .pred, roleA := .gen, roleB := .zero, roleC := .zero, ok := fun _ => true,
    op := fun _ => .cmpLtImm },
  { sub := 0x03, tl := 2, roleD := .pred, roleA := .gen, roleB := .zero, roleC := .zero, ok := fun _ => true,
    op := fun _ => .cmpGeImm },
  { sub := 0x04, tl := 2, roleD := .pred, roleA := .gen, roleB := .zero, roleC := .zero, ok := fun _ => true,
    op := fun _ => .cmpLtuImm },
  { sub := 0x05, tl := 2, roleD := .pred, roleA := .gen, roleB := .zero, roleC := .zero, ok := fun _ => true,
    op := fun _ => .cmpGeuImm },
  { sub := 0x06, tl := 2, roleD := .pred, roleA := .gen, roleB := .zero, roleC := .zero, ok := fun _ => true,
    op := fun _ => .cmpGtImm },
  { sub := 0x07, tl := 2, roleD := .pred, roleA := .gen, roleB := .zero, roleC := .zero, ok := fun _ => true,
    op := fun _ => .cmpLeImm },
  { sub := 0x08, tl := 2, roleD := .pred, roleA := .gen, roleB := .zero, roleC := .zero, ok := fun _ => true,
    op := fun _ => .cmpGtuImm },
  { sub := 0x09, tl := 2, roleD := .pred, roleA := .gen, roleB := .zero, roleC := .zero, ok := fun _ => true,
    op := fun _ => .cmpLeuImm },
  { sub := 0x0A, tl := 2, roleD := .pred, roleA := .gen, roleB := .zero, roleC := .zero, ok := fun _ => true,
    op := fun _ => .cmpTstImm },
  { sub := 0x0B, tl := 2, roleD := .pred, roleA := .gen, roleB := .zero, roleC := .zero, ok := fun _ => true,
    op := fun _ => .cmpNtstImm }]

/-- The forms of major 0x09. -/
def forms09 : List Form := [
  { sub := 0x00, tl := 1, roleD := .pred, roleA := .pred, roleB := .pred, roleC := .zero, ok := Raw.okZero,
    op := fun _ => .pand },
  { sub := 0x01, tl := 1, roleD := .pred, roleA := .pred, roleB := .pred, roleC := .zero, ok := Raw.okZero,
    op := fun _ => .por },
  { sub := 0x02, tl := 1, roleD := .pred, roleA := .pred, roleB := .pred, roleC := .zero, ok := Raw.okZero,
    op := fun _ => .pxor },
  { sub := 0x03, tl := 1, roleD := .pred, roleA := .pred, roleB := .zero, roleC := .zero, ok := Raw.okZero,
    op := fun _ => .pnot }]

/-- The forms of major 0x0A. -/
def forms0A : List Form := [
  { sub := 0x00, tl := 2, roleD := .gen, roleA := .gen, roleB := .gen, roleC := .zero, ok := Raw.okFp,
    op := fun _ => .fadd },
  { sub := 0x01, tl := 2, roleD := .gen, roleA := .gen, roleB := .gen, roleC := .zero, ok := Raw.okFp,
    op := fun _ => .fsub },
  { sub := 0x02, tl := 2, roleD := .gen, roleA := .gen, roleB := .gen, roleC := .zero, ok := Raw.okFp,
    op := fun _ => .fmul },
  { sub := 0x03, tl := 2, roleD := .gen, roleA := .gen, roleB := .gen, roleC := .zero, ok := Raw.okFp,
    op := fun _ => .fdiv },
  { sub := 0x04, tl := 2, roleD := .gen, roleA := .gen, roleB := .zero, roleC := .zero, ok := Raw.okFp,
    op := fun _ => .fsqrt },
  { sub := 0x05, tl := 2, roleD := .gen, roleA := .gen, roleB := .gen, roleC := .zero, ok := Raw.okFp0,
    op := fun _ => .fmin },
  { sub := 0x06, tl := 2, roleD := .gen, roleA := .gen, roleB := .gen, roleC := .zero, ok := Raw.okFp0,
    op := fun _ => .fmax }]

/-- The forms of major 0x0B. -/
def forms0B : List Form := [
  { sub := 0x00, tl := 2, roleD := .pred, roleA := .gen, roleB := .gen, roleC := .zero, ok := Raw.okFp0,
    op := fun _ => .fcmpEq },
  { sub := 0x01, tl := 2, roleD := .pred, roleA := .gen, roleB := .gen, roleC := .zero, ok := Raw.okFp0,
    op := fun _ => .fcmpNe },
  { sub := 0x02, tl := 2, roleD := .pred, roleA := .gen, roleB := .gen, roleC := .zero, ok := Raw.okFp0,
    op := fun _ => .fcmpLt },
  { sub := 0x03, tl := 2, roleD := .pred, roleA := .gen, roleB := .gen, roleC := .zero, ok := Raw.okFp0,
    op := fun _ => .fcmpLe },
  { sub := 0x04, tl := 2, roleD := .pred, roleA := .gen, roleB := .gen, roleC := .zero, ok := Raw.okFp0,
    op := fun _ => .fcmpUn },
  { sub := 0x08, tl := 2, roleD := .gen, roleA := .gen, roleB := .zero, roleC := .zero, ok := Raw.okCvt,
    op := fun _ => .fcvt },
  { sub := 0x09, tl := 2, roleD := .gen, roleA := .gen, roleB := .zero, roleC := .zero, ok := Raw.okFp0,
    op := fun _ => .fclass }]

/-- The forms of major 0x0C. -/
def forms0C : List Form := [
  { sub := 0x00, tl := 2, roleD := .gen, roleA := .gen, roleB := .gen, roleC := .gen, ok := Raw.okFp,
    op := fun _ => .fma },
  { sub := 0x01, tl := 2, roleD := .gen, roleA := .gen, roleB := .gen, roleC := .gen, ok := Raw.okFp,
    op := fun _ => .fmaNa },
  { sub := 0x02, tl := 2, roleD := .gen, roleA := .gen, roleB := .gen, roleC := .gen, ok := Raw.okFp,
    op := fun _ => .fmaNc },
  { sub := 0x03, tl := 2, roleD := .gen, roleA := .gen, roleB := .gen, roleC := .gen, ok := Raw.okFp,
    op := fun _ => .fmaNaNc }]

/-- The forms of major 0x0D. -/
def forms0D : List Form := [
  { sub := 0x00, tl := 1, roleD := .gen, roleA := .gen, roleB := .zero, roleC := .zero, ok := Raw.okZero,
    op := fun _ => .mov },
  { sub := 0x01, tl := 1, roleD := .movDst, roleA := .fifo, roleB := .zero, roleC := .zero, ok := Raw.okZero,
    op := fun _ => .movF },
  { sub := 0x02, tl := 2, roleD := .gen, roleA := .zero, roleB := .zero, roleC := .zero, ok := Raw.okIdx,
    op := fun _ => .mfs },
  { sub := 0x03, tl := 2, roleD := .zero, roleA := .gen, roleB := .zero, roleC := .zero, ok := Raw.okIdx,
    op := fun r => if r.x.extractLsb' 0 8 == 0x80#8 then .pwdogWrite else if r.x.extractLsb' 0 8 == 0x81#8 then .bootcntWrite
      else .mts }]

/-- The forms of major 0x10. -/
def forms10 : List Form := [
  { sub := 0x00, tl := 2, roleD := .zero, roleA := .zero, roleB := .zero, roleC := .zero, ok := fun _ => true,
    op := fun _ => .br }]

/-- The forms of major 0x11. -/
def forms11 : List Form := [
  { sub := 0x00, tl := 0, roleD := .counter, roleA := .zero, roleB := .zero, roleC := .zero, ok := Raw.okZero,
    op := fun _ => .jmp }]

/-- The forms of major 0x12. -/
def forms12 : List Form := [
  { sub := 0x00, tl := 2, roleD := .link, roleA := .zero, roleB := .zero, roleC := .zero, ok := fun _ => true,
    op := fun _ => .call },
  { sub := 0x00, tl := 1, roleD := .link, roleA := .counter, roleB := .zero, roleC := .zero, ok := Raw.okZero,
    op := fun _ => .callReg }]

/-- The forms of major 0x13. -/
def forms13 : List Form := [
  { sub := 0x00, tl := 0, roleD := .counter, roleA := .zero, roleB := .zero, roleC := .zero, ok := Raw.okZero,
    op := fun _ => .ret }]

/-- The forms of major 0x14. -/
def forms14 : List Form := [
  { sub := 0x00, tl := 2, roleD := .counter, roleA := .zero, roleB := .zero, roleC := .zero, ok := fun _ => true,
    op := fun _ => .loop }]

/-- The forms of major 0x18. -/
def forms18 : List Form := [
  { sub := 0x00, tl := 2, roleD := .gen, roleA := .gen, roleB := .gen, roleC := .zero, ok := fun _ => true,
    op := fun _ => .ldB },
  { sub := 0x01, tl := 2, roleD := .gen, roleA := .gen, roleB := .gen, roleC := .zero, ok := fun _ => true,
    op := fun _ => .ldH },
  { sub := 0x02, tl := 2, roleD := .gen, roleA := .gen, roleB := .gen, roleC := .zero, ok := fun _ => true,
    op := fun _ => .ldW },
  { sub := 0x03, tl := 2, roleD := .gen, roleA := .gen, roleB := .gen, roleC := .zero, ok := fun _ => true,
    op := fun _ => .ldD },
  { sub := 0x04, tl := 2, roleD := .gen, roleA := .gen, roleB := .gen, roleC := .zero, ok := fun _ => true,
    op := fun _ => .ldsB },
  { sub := 0x05, tl := 2, roleD := .gen, roleA := .gen, roleB := .gen, roleC := .zero, ok := fun _ => true,
    op := fun _ => .ldsH },
  { sub := 0x06, tl := 2, roleD := .gen, roleA := .gen, roleB := .gen, roleC := .zero, ok := fun _ => true,
    op := fun _ => .ldsW },
  { sub := 0x08, tl := 2, roleD := .gen, roleA := .gen, roleB := .gen, roleC := .zero, ok := fun _ => true,
    op := fun _ => .ldBS },
  { sub := 0x09, tl := 2, roleD := .gen, roleA := .gen, roleB := .gen, roleC := .zero, ok := fun _ => true,
    op := fun _ => .ldHS },
  { sub := 0x0A, tl := 2, roleD := .gen, roleA := .gen, roleB := .gen, roleC := .zero, ok := fun _ => true,
    op := fun _ => .ldWS },
  { sub := 0x0B, tl := 2, roleD := .gen, roleA := .gen, roleB := .gen, roleC := .zero, ok := fun _ => true,
    op := fun _ => .ldDS },
  { sub := 0x0C, tl := 2, roleD := .gen, roleA := .gen, roleB := .gen, roleC := .zero, ok := fun _ => true,
    op := fun _ => .ldsBS },
  { sub := 0x0D, tl := 2, roleD := .gen, roleA := .gen, roleB := .gen, roleC := .zero, ok := fun _ => true,
    op := fun _ => .ldsHS },
  { sub := 0x0E, tl := 2, roleD := .gen, roleA := .gen, roleB := .gen, roleC := .zero, ok := fun _ => true,
    op := fun _ => .ldsWS }]

/-- The forms of major 0x19. -/
def forms19 : List Form := [
  { sub := 0x00, tl := 2, roleD := .gen, roleA := .gen, roleB := .gen, roleC := .zero, ok := fun _ => true,
    op := fun _ => .stB },
  { sub := 0x01, tl := 2, roleD := .gen, roleA := .gen, roleB := .gen, roleC := .zero, ok := fun _ => true,
    op := fun _ => .stH },
  { sub := 0x02, tl := 2, roleD := .gen, roleA := .gen, roleB := .gen, roleC := .zero, ok := fun _ => true,
    op := fun _ => .stW },
  { sub := 0x03, tl := 2, roleD := .gen, roleA := .gen, roleB := .gen, roleC := .zero, ok := fun _ => true,
    op := fun _ => .stD },
  { sub := 0x08, tl := 2, roleD := .gen, roleA := .gen, roleB := .gen, roleC := .zero, ok := fun _ => true,
    op := fun _ => .stBS },
  { sub := 0x09, tl := 2, roleD := .gen, roleA := .gen, roleB := .gen, roleC := .zero, ok := fun _ => true,
    op := fun _ => .stHS },
  { sub := 0x0A, tl := 2, roleD := .gen, roleA := .gen, roleB := .gen, roleC := .zero, ok := fun _ => true,
    op := fun _ => .stWS },
  { sub := 0x0B, tl := 2, roleD := .gen, roleA := .gen, roleB := .gen, roleC := .zero, ok := fun _ => true,
    op := fun _ => .stDS }]

/-- The forms of major 0x1A. -/
def forms1A : List Form := [
  { sub := 0x00, tl := 2, roleD := .vec, roleA := .gen, roleB := .gen, roleC := .zero, ok := Raw.okVmem,
    op := fun _ => .vld },
  { sub := 0x01, tl := 2, roleD := .vec, roleA := .gen, roleB := .gen, roleC := .zero, ok := Raw.okVmem,
    op := fun _ => .vldS },
  { sub := 0x02, tl := 2, roleD := .vec, roleA := .gen, roleB := .vec, roleC := .zero, ok := Raw.okVmem,
    op := fun _ => .vgather }]

/-- The forms of major 0x1B. -/
def forms1B : List Form := [
  { sub := 0x00, tl := 2, roleD := .vec, roleA := .gen, roleB := .gen, roleC := .zero, ok := Raw.okVmem,
    op := fun _ => .vst },
  { sub := 0x02, tl := 2, roleD := .vec, roleA := .gen, roleB := .vec, roleC := .zero, ok := Raw.okVmem,
    op := fun _ => .vscatter }]

/-- The forms of major 0x1C. -/
def forms1C : List Form := [
  { sub := 0x00, tl := 2, roleD := .gen, roleA := .gen, roleB := .zero, roleC := .zero, ok := fun _ => true,
    op := fun _ => .ldsync },
  { sub := 0x01, tl := 2, roleD := .gen, roleA := .gen, roleB := .zero, roleC := .zero, ok := fun _ => true,
    op := fun _ => .ldsyncKeep },
  { sub := 0x02, tl := 2, roleD := .gen, roleA := .gen, roleB := .zero, roleC := .zero, ok := fun _ => true,
    op := fun _ => .stsync },
  { sub := 0x03, tl := 2, roleD := .gen, roleA := .gen, roleB := .zero, roleC := .zero, ok := fun _ => true,
    op := fun _ => .stfill },
  { sub := 0x04, tl := 2, roleD := .zero, roleA := .gen, roleB := .zero, roleC := .zero, ok := fun _ => true,
    op := fun _ => .feset },
  { sub := 0x05, tl := 2, roleD := .zero, roleA := .gen, roleB := .zero, roleC := .zero, ok := fun _ => true,
    op := fun _ => .feclr },
  { sub := 0x06, tl := 2, roleD := .gen, roleA := .gen, roleB := .zero, roleC := .zero, ok := fun _ => true,
    op := fun _ => .feread }]

/-- The forms of major 0x1D. -/
def forms1D : List Form := [
  { sub := 0x00, tl := 2, roleD := .gen, roleA := .gen, roleB := .gen, roleC := .zero, ok := Raw.okAmo,
    op := fun _ => .amoAdd },
  { sub := 0x01, tl := 2, roleD := .gen, roleA := .gen, roleB := .gen, roleC := .zero, ok := Raw.okAmo,
    op := fun _ => .amoAnd },
  { sub := 0x02, tl := 2, roleD := .gen, roleA := .gen, roleB := .gen, roleC := .zero, ok := Raw.okAmo,
    op := fun _ => .amoOr },
  { sub := 0x03, tl := 2, roleD := .gen, roleA := .gen, roleB := .gen, roleC := .zero, ok := Raw.okAmo,
    op := fun _ => .amoXor },
  { sub := 0x04, tl := 2, roleD := .gen, roleA := .gen, roleB := .gen, roleC := .zero, ok := Raw.okAmo,
    op := fun _ => .amoMin },
  { sub := 0x05, tl := 2, roleD := .gen, roleA := .gen, roleB := .gen, roleC := .zero, ok := Raw.okAmo,
    op := fun _ => .amoMax },
  { sub := 0x06, tl := 2, roleD := .gen, roleA := .gen, roleB := .gen, roleC := .zero, ok := Raw.okAmo,
    op := fun _ => .amoSwap },
  { sub := 0x07, tl := 2, roleD := .gen, roleA := .gen, roleB := .gen, roleC := .gen, ok := Raw.okAmo,
    op := fun _ => .amoCas }]

/-- The forms of major 0x1E. -/
def forms1E : List Form := [
  { sub := 0x00, tl := 2, roleD := .zero, roleA := .zero, roleB := .zero, roleC := .zero, ok := Raw.okFence,
    op := fun _ => .fence },
  { sub := 0x01, tl := 2, roleD := .gen, roleA := .gen, roleB := .zero, roleC := .zero, ok := Raw.okZero,
    op := fun _ => .plbload },
  { sub := 0x02, tl := 2, roleD := .zero, roleA := .gen, roleB := .gen, roleC := .zero, ok := Raw.okPlbinval,
    op := fun _ => .plbinval },
  { sub := 0x03, tl := 2, roleD := .zero, roleA := .gen, roleB := .gen, roleC := .zero, ok := Raw.okZero,
    op := fun _ => .scflush },
  { sub := 0x04, tl := 2, roleD := .zero, roleA := .gen, roleB := .zero, roleC := .zero, ok := Raw.okZero,
    op := fun _ => .scinval }]

/-- The forms of major 0x1F. -/
def forms1F : List Form := [
  { sub := 0x00, tl := 1, roleD := .zero, roleA := .gen, roleB := .zero, roleC := .zero, ok := Raw.okZero,
    op := fun _ => .prefetch },
  { sub := 0x01, tl := 1, roleD := .zero, roleA := .gen, roleB := .zero, roleC := .zero, ok := Raw.okZero,
    op := fun _ => .prefetchW }]

/-- The forms of major 0x20. -/
def forms20 : List Form := [
  { sub := 0x00, tl := 2, roleD := .vec, roleA := .vec, roleB := .vec, roleC := .zero, ok := Raw.okVec (Ty.isInt) true true false,
    op := fun _ => .vaddInt },
  { sub := 0x01, tl := 2, roleD := .vec, roleA := .vec, roleB := .vec, roleC := .zero, ok := Raw.okVec (Ty.isInt) true true false,
    op := fun _ => .vsubInt },
  { sub := 0x02, tl := 2, roleD := .vec, roleA := .vec, roleB := .vec, roleC := .zero, ok := Raw.okVec (Ty.isInt) true true false,
    op := fun _ => .vmulInt },
  { sub := 0x03, tl := 2, roleD := .vec, roleA := .vec, roleB := .vec, roleC := .zero, ok := Raw.okVec (Ty.isInt) false true false,
    op := fun _ => .vminInt },
  { sub := 0x04, tl := 2, roleD := .vec, roleA := .vec, roleB := .vec, roleC := .zero, ok := Raw.okVec (Ty.isInt) false true false,
    op := fun _ => .vmaxInt },
  { sub := 0x05, tl := 2, roleD := .vec, roleA := .vec, roleB := .zero, roleC := .zero, ok := Raw.okVec (Ty.isInt) true true false,
    op := fun _ => .vabsInt },
  { sub := 0x06, tl := 2, roleD := .vec, roleA := .vec, roleB := .zero, roleC := .zero, ok := Raw.okVec (Ty.isInt) true true false,
    op := fun _ => .vnegInt },
  { sub := 0x07, tl := 2, roleD := .vec, roleA := .vec, roleB := .vec, roleC := .zero, ok := Raw.okVec (Ty.isInt) true true false,
    op := fun _ => .vshl },
  { sub := 0x08, tl := 2, roleD := .vec, roleA := .vec, roleB := .vec, roleC := .zero, ok := Raw.okVec (Ty.isInt) false true false,
    op := fun _ => .vshr },
  { sub := 0x09, tl := 2, roleD := .vec, roleA := .vec, roleB := .vec, roleC := .zero, ok := Raw.okVec (Ty.isInt) false true false,
    op := fun _ => .vsar },
  { sub := 0x0A, tl := 2, roleD := .vec, roleA := .gen, roleB := .gen, roleC := .zero, ok := Raw.okVec (Ty.isRand) false true false,
    op := fun _ => .vrand },
  { sub := 0x20, tl := 2, roleD := .vec, roleA := .vec, roleB := .gen, roleC := .zero, ok := Raw.okVec (Ty.isInt) true true false,
    op := fun _ => .vaddIntScalar },
  { sub := 0x21, tl := 2, roleD := .vec, roleA := .vec, roleB := .gen, roleC := .zero, ok := Raw.okVec (Ty.isInt) true true false,
    op := fun _ => .vsubIntScalar },
  { sub := 0x22, tl := 2, roleD := .vec, roleA := .vec, roleB := .gen, roleC := .zero, ok := Raw.okVec (Ty.isInt) true true false,
    op := fun _ => .vmulIntScalar },
  { sub := 0x23, tl := 2, roleD := .vec, roleA := .vec, roleB := .gen, roleC := .zero, ok := Raw.okVec (Ty.isInt) false true false,
    op := fun _ => .vminIntScalar },
  { sub := 0x24, tl := 2, roleD := .vec, roleA := .vec, roleB := .gen, roleC := .zero, ok := Raw.okVec (Ty.isInt) false true false,
    op := fun _ => .vmaxIntScalar },
  { sub := 0x27, tl := 2, roleD := .vec, roleA := .vec, roleB := .gen, roleC := .zero, ok := Raw.okVec (Ty.isInt) true true false,
    op := fun _ => .vshlScalar },
  { sub := 0x28, tl := 2, roleD := .vec, roleA := .vec, roleB := .gen, roleC := .zero, ok := Raw.okVec (Ty.isInt) false true false,
    op := fun _ => .vshrScalar },
  { sub := 0x29, tl := 2, roleD := .vec, roleA := .vec, roleB := .gen, roleC := .zero, ok := Raw.okVec (Ty.isInt) false true false,
    op := fun _ => .vsarScalar }]

/-- The forms of major 0x21. -/
def forms21 : List Form := [
  { sub := 0x00, tl := 2, roleD := .vec, roleA := .vec, roleB := .vec, roleC := .zero, ok := Raw.okVec (Ty.isFloat) false true true,
    op := fun _ => .vaddFp },
  { sub := 0x01, tl := 2, roleD := .vec, roleA := .vec, roleB := .vec, roleC := .zero, ok := Raw.okVec (Ty.isFloat) false true true,
    op := fun _ => .vsubFp },
  { sub := 0x02, tl := 2, roleD := .vec, roleA := .vec, roleB := .vec, roleC := .zero, ok := Raw.okVec (Ty.isFloat) false true true,
    op := fun _ => .vmulFp },
  { sub := 0x03, tl := 2, roleD := .vec, roleA := .vec, roleB := .vec, roleC := .zero, ok := Raw.okVec (Ty.isFloat) false true false,
    op := fun _ => .vminFp },
  { sub := 0x04, tl := 2, roleD := .vec, roleA := .vec, roleB := .vec, roleC := .zero, ok := Raw.okVec (Ty.isFloat) false true false,
    op := fun _ => .vmaxFp },
  { sub := 0x05, tl := 2, roleD := .vec, roleA := .vec, roleB := .zero, roleC := .zero, ok := Raw.okVec (Ty.isFloat) false true false,
    op := fun _ => .vabsFp },
  { sub := 0x06, tl := 2, roleD := .vec, roleA := .vec, roleB := .zero, roleC := .zero, ok := Raw.okVec (Ty.isFloat) false true false,
    op := fun _ => .vnegFp },
  { sub := 0x20, tl := 2, roleD := .vec, roleA := .vec, roleB := .gen, roleC := .zero, ok := Raw.okVec (Ty.isFloat) false true true,
    op := fun _ => .vaddFpScalar },
  { sub := 0x21, tl := 2, roleD := .vec, roleA := .vec, roleB := .gen, roleC := .zero, ok := Raw.okVec (Ty.isFloat) false true true,
    op := fun _ => .vsubFpScalar },
  { sub := 0x22, tl := 2, roleD := .vec, roleA := .vec, roleB := .gen, roleC := .zero, ok := Raw.okVec (Ty.isFloat) false true true,
    op := fun _ => .vmulFpScalar },
  { sub := 0x23, tl := 2, roleD := .vec, roleA := .vec, roleB := .gen, roleC := .zero, ok := Raw.okVec (Ty.isFloat) false true false,
    op := fun _ => .vminFpScalar },
  { sub := 0x24, tl := 2, roleD := .vec, roleA := .vec, roleB := .gen, roleC := .zero, ok := Raw.okVec (Ty.isFloat) false true false,
    op := fun _ => .vmaxFpScalar }]

/-- The forms of major 0x22. -/
def forms22 : List Form := [
  { sub := 0x00, tl := 2, roleD := .vec, roleA := .vec, roleB := .vec, roleC := .vec, ok := Raw.okVec (Ty.isFloat) false true true,
    op := fun _ => .vfma },
  { sub := 0x01, tl := 2, roleD := .vec, roleA := .vec, roleB := .vec, roleC := .vec, ok := Raw.okVec (Ty.isFloat) false true true,
    op := fun _ => .vfmaNa },
  { sub := 0x02, tl := 2, roleD := .vec, roleA := .vec, roleB := .vec, roleC := .vec, ok := Raw.okVec (Ty.isFloat) false true true,
    op := fun _ => .vfmaNc },
  { sub := 0x03, tl := 2, roleD := .vec, roleA := .vec, roleB := .vec, roleC := .vec, ok := Raw.okVec (Ty.isFloat) false true true,
    op := fun _ => .vfmaNaNc }]

/-- The forms of major 0x23. -/
def forms23 : List Form := [
  { sub := 0x00, tl := 2, roleD := .mask, roleA := .vec, roleB := .vec, roleC := .zero, ok := Raw.okVec (fun _ => true) false true false,
    op := fun _ => .vcmpEq },
  { sub := 0x01, tl := 2, roleD := .mask, roleA := .vec, roleB := .vec, roleC := .zero, ok := Raw.okVec (fun _ => true) false true false,
    op := fun _ => .vcmpNe },
  { sub := 0x02, tl := 2, roleD := .mask, roleA := .vec, roleB := .vec, roleC := .zero, ok := Raw.okVec (fun _ => true) false true false,
    op := fun _ => .vcmpLt },
  { sub := 0x03, tl := 2, roleD := .mask, roleA := .vec, roleB := .vec, roleC := .zero, ok := Raw.okVec (fun _ => true) false true false,
    op := fun _ => .vcmpLe },
  { sub := 0x04, tl := 2, roleD := .mask, roleA := .vec, roleB := .vec, roleC := .zero, ok := Raw.okVec (fun _ => true) false true false,
    op := fun _ => .vcmpGt },
  { sub := 0x05, tl := 2, roleD := .mask, roleA := .vec, roleB := .vec, roleC := .zero, ok := Raw.okVec (fun _ => true) false true false,
    op := fun _ => .vcmpGe },
  { sub := 0x06, tl := 2, roleD := .mask, roleA := .vec, roleB := .vec, roleC := .zero, ok := Raw.okVec (Ty.isFloat) false true false,
    op := fun _ => .vcmpUn },
  { sub := 0x20, tl := 2, roleD := .mask, roleA := .vec, roleB := .gen, roleC := .zero, ok := Raw.okVec (fun _ => true) false true false,
    op := fun _ => .vcmpEqScalar },
  { sub := 0x21, tl := 2, roleD := .mask, roleA := .vec, roleB := .gen, roleC := .zero, ok := Raw.okVec (fun _ => true) false true false,
    op := fun _ => .vcmpNeScalar },
  { sub := 0x22, tl := 2, roleD := .mask, roleA := .vec, roleB := .gen, roleC := .zero, ok := Raw.okVec (fun _ => true) false true false,
    op := fun _ => .vcmpLtScalar },
  { sub := 0x23, tl := 2, roleD := .mask, roleA := .vec, roleB := .gen, roleC := .zero, ok := Raw.okVec (fun _ => true) false true false,
    op := fun _ => .vcmpLeScalar },
  { sub := 0x24, tl := 2, roleD := .mask, roleA := .vec, roleB := .gen, roleC := .zero, ok := Raw.okVec (fun _ => true) false true false,
    op := fun _ => .vcmpGtScalar },
  { sub := 0x25, tl := 2, roleD := .mask, roleA := .vec, roleB := .gen, roleC := .zero, ok := Raw.okVec (fun _ => true) false true false,
    op := fun _ => .vcmpGeScalar },
  { sub := 0x26, tl := 2, roleD := .mask, roleA := .vec, roleB := .gen, roleC := .zero, ok := Raw.okVec (Ty.isFloat) false true false,
    op := fun _ => .vcmpUnScalar },
  { sub := 0x08, tl := 2, roleD := .vec, roleA := .vec, roleB := .vec, roleC := .zero, ok := Raw.okVsel,
    op := fun _ => .vsel }]

/-- The forms of major 0x24. -/
def forms24 : List Form := [
  { sub := 0x00, tl := 2, roleD := .vec, roleA := .vec, roleB := .zero, roleC := .gen, ok := Raw.okVec (fun _ => true) false true false,
    op := fun _ => .vcompress },
  { sub := 0x01, tl := 2, roleD := .vec, roleA := .vec, roleB := .zero, roleC := .zero, ok := Raw.okVec (fun _ => true) false true false,
    op := fun _ => .vexpand },
  { sub := 0x02, tl := 2, roleD := .vec, roleA := .vec, roleB := .vec, roleC := .zero, ok := Raw.okVec (fun _ => true) false true false,
    op := fun _ => .vperm },
  { sub := 0x03, tl := 2, roleD := .vec, roleA := .gen, roleB := .zero, roleC := .zero, ok := Raw.okVec (fun _ => true) false true false,
    op := fun _ => .vbcast }]

/-- The forms of major 0x25. -/
def forms25 : List Form := [
  { sub := 0x00, tl := 2, roleD := .gen, roleA := .vec, roleB := .zero, roleC := .zero, ok := Raw.okVecMixed true true,
    op := fun _ => .vredAdd },
  { sub := 0x01, tl := 2, roleD := .gen, roleA := .vec, roleB := .zero, roleC := .zero, ok := Raw.okVec (fun _ => true) false true false,
    op := fun _ => .vredMax },
  { sub := 0x02, tl := 2, roleD := .gen, roleA := .vec, roleB := .zero, roleC := .zero, ok := Raw.okVec (fun _ => true) false true false,
    op := fun _ => .vredMin },
  { sub := 0x03, tl := 2, roleD := .gen, roleA := .vec, roleB := .zero, roleC := .gen, ok := Raw.okVec (fun _ => true) false true false,
    op := fun _ => .vredmaxIdx, twoDst := true },
  { sub := 0x04, tl := 2, roleD := .gen, roleA := .vec, roleB := .zero, roleC := .gen, ok := Raw.okVec (fun _ => true) false true false,
    op := fun _ => .vredminIdx, twoDst := true },
  { sub := 0x05, tl := 2, roleD := .vec, roleA := .vec, roleB := .zero, roleC := .zero, ok := Raw.okVecMixed true true,
    op := fun _ => .vscanAdd }]

/-- The forms of major 0x26. -/
def forms26 : List Form := [
  { sub := 0x00, tl := 2, roleD := .vec, roleA := .vec, roleB := .part, roleC := .zero, ok := Raw.okVcvt,
    op := fun _ => .vcvt }]

/-- The forms of major 0x27. -/
def forms27 : List Form := [
  { sub := 0x00, tl := 2, roleD := .vec, roleA := .vec, roleB := .zero, roleC := .zero, ok := Raw.okVec (fun t => t == .f32) false true true,
    op := fun _ => .vlog2 },
  { sub := 0x01, tl := 2, roleD := .vec, roleA := .vec, roleB := .zero, roleC := .zero, ok := Raw.okVec (fun t => t == .f32) false true true,
    op := fun _ => .vexp2 },
  { sub := 0x02, tl := 2, roleD := .vec, roleA := .vec, roleB := .zero, roleC := .zero, ok := Raw.okVec (fun t => t == .f32) false true true,
    op := fun _ => .vrcp },
  { sub := 0x03, tl := 2, roleD := .vec, roleA := .vec, roleB := .zero, roleC := .zero, ok := Raw.okVec (fun t => t == .f32) false true true,
    op := fun _ => .vrsqrt },
  { sub := 0x04, tl := 2, roleD := .vec, roleA := .vec, roleB := .zero, roleC := .zero, ok := Raw.okVec (fun t => t == .f32) false true true,
    op := fun _ => .vsqrt },
  { sub := 0x05, tl := 2, roleD := .vec, roleA := .vec, roleB := .zero, roleC := .zero, ok := Raw.okVec (fun t => t == .f32) false true true,
    op := fun _ => .vsin },
  { sub := 0x06, tl := 2, roleD := .vec, roleA := .vec, roleB := .zero, roleC := .zero, ok := Raw.okVec (fun t => t == .f32) false true true,
    op := fun _ => .vcos }]

/-- The forms of major 0x28. -/
def forms28 : List Form := [
  { sub := 0x00, tl := 2, roleD := .vec, roleA := .vec, roleB := .vec, roleC := .zero, ok := Raw.okVecMixed false true,
    op := fun _ => .vdiv },
  { sub := 0x01, tl := 2, roleD := .vec, roleA := .vec, roleB := .vec, roleC := .zero, ok := Raw.okVec (Ty.isInt) false true false,
    op := fun _ => .vrem },
  { sub := 0x20, tl := 2, roleD := .vec, roleA := .vec, roleB := .gen, roleC := .zero, ok := Raw.okVecMixed false true,
    op := fun _ => .vdivScalar },
  { sub := 0x21, tl := 2, roleD := .vec, roleA := .vec, roleB := .gen, roleC := .zero, ok := Raw.okVec (Ty.isInt) false true false,
    op := fun _ => .vremScalar }]

/-- The forms of major 0x29. -/
def forms29 : List Form := [
  { sub := 0x00, tl := 2, roleD := .stream, roleA := .gen, roleB := .gen, roleC := .gen, ok := Raw.okZero,
    op := fun _ => .sbind },
  { sub := 0x01, tl := 2, roleD := .stream, roleA := .zero, roleB := .zero, roleC := .zero, ok := Raw.okZero,
    op := fun _ => .sunbind },
  { sub := 0x02, tl := 2, roleD := .gen, roleA := .stream, roleB := .zero, roleC := .zero, ok := Raw.okZero,
    op := fun _ => .stest }]

/-- The forms of major 0x2A. -/
def forms2A : List Form := [
  { sub := 0x00, tl := 2, roleD := .gen, roleA := .vec, roleB := .gen, roleC := .zero, ok := Raw.okVec (fun _ => true) false false false,
    op := fun _ => .vmovg },
  { sub := 0x01, tl := 2, roleD := .vec, roleA := .gen, roleB := .gen, roleC := .zero, ok := Raw.okVec (fun _ => true) false false false,
    op := fun _ => .gmovv }]

/-- The forms of major 0x2B. -/
def forms2B : List Form := [
  { sub := 0x00, tl := 2, roleD := .vec, roleA := .vec, roleB := .vec, roleC := .zero, ok := Raw.okVec (fun _ => true) false true false,
    op := fun _ => .vand },
  { sub := 0x01, tl := 2, roleD := .vec, roleA := .vec, roleB := .vec, roleC := .zero, ok := Raw.okVec (fun _ => true) false true false,
    op := fun _ => .vor },
  { sub := 0x02, tl := 2, roleD := .vec, roleA := .vec, roleB := .vec, roleC := .zero, ok := Raw.okVec (fun _ => true) false true false,
    op := fun _ => .vxor },
  { sub := 0x03, tl := 2, roleD := .vec, roleA := .vec, roleB := .zero, roleC := .zero, ok := Raw.okVec (fun _ => true) false true false,
    op := fun _ => .vnot },
  { sub := 0x20, tl := 2, roleD := .vec, roleA := .vec, roleB := .gen, roleC := .zero, ok := Raw.okVec (fun _ => true) false true false,
    op := fun _ => .vandScalar },
  { sub := 0x21, tl := 2, roleD := .vec, roleA := .vec, roleB := .gen, roleC := .zero, ok := Raw.okVec (fun _ => true) false true false,
    op := fun _ => .vorScalar },
  { sub := 0x22, tl := 2, roleD := .vec, roleA := .vec, roleB := .gen, roleC := .zero, ok := Raw.okVec (fun _ => true) false true false,
    op := fun _ => .vxorScalar }]

/-- The forms of major 0x30. -/
def forms30 : List Form := [
  { sub := 0x00, tl := 2, roleD := .gen, roleA := .gen, roleB := .gen, roleC := .zero, ok := Raw.okX 8,
    op := fun _ => .fork },
  { sub := 0x01, tl := 2, roleD := .zero, roleA := .gen, roleB := .zero, roleC := .zero, ok := Raw.okZero,
    op := fun _ => .join },
  { sub := 0x02, tl := 2, roleD := .gen, roleA := .gen, roleB := .gen, roleC := .zero, ok := Raw.okZero,
    op := fun _ => .spawn },
  { sub := 0x03, tl := 2, roleD := .zero, roleA := .zero, roleB := .zero, roleC := .zero, ok := Raw.okZero,
    op := fun _ => .halt },
  { sub := 0x04, tl := 2, roleD := .gen, roleA := .zero, roleB := .zero, roleC := .zero, ok := Raw.okZero,
    op := fun _ => .yield },
  { sub := 0x05, tl := 2, roleD := .zero, roleA := .zero, roleB := .zero, roleC := .zero, ok := Raw.okX 1,
    op := fun _ => .lend },
  { sub := 0x06, tl := 2, roleD := .gen, roleA := .zero, roleB := .zero, roleC := .zero, ok := Raw.okX 1,
    op := fun _ => .pin }]

/-- The forms of major 0x31. -/
def forms31 : List Form := [
  { sub := 0x00, tl := 2, roleD := .gen, roleA := .gen, roleB := .gen, roleC := .zero, ok := Raw.okZero,
    op := fun _ => .callat },
  { sub := 0x01, tl := 2, roleD := .zero, roleA := .gen, roleB := .zero, roleC := .zero, ok := Raw.okZero,
    op := fun _ => .retm }]

/-- The forms of major 0x32. -/
def forms32 : List Form := [
  { sub := 0x00, tl := 2, roleD := .zero, roleA := .gen, roleB := .gen, roleC := .zero, ok := Raw.okX 8,
    op := fun _ => .msend },
  { sub := 0x01, tl := 2, roleD := .gen, roleA := .zero, roleB := .zero, roleC := .gen, ok := Raw.okZero,
    op := fun _ => .mrecv, twoDst := true },
  { sub := 0x02, tl := 2, roleD := .gen, roleA := .zero, roleB := .zero, roleC := .zero, ok := Raw.okZero,
    op := fun _ => .mwait },
  { sub := 0x03, tl := 2, roleD := .gen, roleA := .zero, roleB := .zero, roleC := .gen, ok := Raw.okX 3,
    op := fun _ => .mtry, twoDst := true }]

/-- The forms of major 0x33. -/
def forms33 : List Form := [
  { sub := 0x00, tl := 2, roleD := .zero, roleA := .gen, roleB := .zero, roleC := .zero, ok := Raw.okX 8,
    op := fun _ => .ksig },
  { sub := 0x01, tl := 2, roleD := .zero, roleA := .gen, roleB := .zero, roleC := .zero, ok := Raw.okX 8,
    op := fun _ => .ksub },
  { sub := 0x02, tl := 2, roleD := .zero, roleA := .gen, roleB := .zero, roleC := .zero, ok := Raw.okX 8,
    op := fun _ => .kwait },
  { sub := 0x03, tl := 2, roleD := .zero, roleA := .gen, roleB := .zero, roleC := .zero, ok := Raw.okX 8,
    op := fun _ => .kset },
  { sub := 0x04, tl := 2, roleD := .gen, roleA := .zero, roleB := .zero, roleC := .zero, ok := Raw.okX 8,
    op := fun _ => .kread }]

/-- The forms of major 0x34. -/
def forms34 : List Form := [
  { sub := 0x00, tl := 2, roleD := .gen, roleA := .gen, roleB := .gen, roleC := .zero, ok := Raw.okX 8,
    op := fun _ => .ttarm },
  { sub := 0x01, tl := 2, roleD := .gen, roleA := .gen, roleB := .zero, roleC := .zero, ok := Raw.okZero,
    op := fun _ => .ttcancel }]

/-- The forms of major 0x35. -/
def forms35 : List Form := [
  { sub := 0x00, tl := 2, roleD := .port, roleA := .zero, roleB := .zero, roleC := .zero, ok := Raw.okQbind,
    op := fun _ => .qbind },
  { sub := 0x01, tl := 2, roleD := .gen, roleA := .zero, roleB := .zero, roleC := .zero, ok := Raw.okX 4,
    op := fun _ => .qstat }]

/-- The forms of major 0x36. -/
def forms36 : List Form := [
  { sub := 0x00, tl := 2, roleD := .zero, roleA := .gen, roleB := .zero, roleC := .zero, ok := Raw.okZero,
    op := fun _ => .roam }]

/-- The forms of major 0x38. -/
def forms38 : List Form := [
  { sub := 0x00, tl := 3, roleD := .gen, roleA := .gen, roleB := .gen, roleC := .gen, ok := Raw.okY 0xFF#15,
    op := fun _ => .mma }]

/-- The forms of major 0x39. -/
def forms39 : List Form := [
  { sub := 0x00, tl := 3, roleD := .gen, roleA := .gen, roleB := .zero, roleC := .gen, ok := Raw.okY 0x8F#15,
    op := fun _ => .accld },
  { sub := 0x01, tl := 3, roleD := .gen, roleA := .gen, roleB := .gen, roleC := .gen, ok := Raw.okY 0xFF#15,
    op := fun _ => .accst },
  { sub := 0x02, tl := 3, roleD := .gen, roleA := .zero, roleB := .zero, roleC := .gen, ok := Raw.okY 0x8F#15,
    op := fun _ => .acczero }]

/-- The forms of major 0x3A. -/
def forms3A : List Form := [
  { sub := 0x00, tl := 3, roleD := .gen, roleA := .gen, roleB := .gen, roleC := .zero, ok := Raw.okY 0x80#15,
    op := fun _ => .mpack },
  { sub := 0x01, tl := 3, roleD := .gen, roleA := .gen, roleB := .gen, roleC := .zero, ok := Raw.okY 0x80#15,
    op := fun _ => .munpack }]

/-- The forms of major 0x3B. -/
def forms3B : List Form := [
  { sub := 0x00, tl := 1, roleD := .gen, roleA := .gen, roleB := .zero, roleC := .zero, ok := Raw.okZero,
    op := fun _ => .mwaitj },
  { sub := 0x01, tl := 1, roleD := .gen, roleA := .gen, roleB := .zero, roleC := .zero, ok := Raw.okZero,
    op := fun _ => .mpoll },
  { sub := 0x02, tl := 1, roleD := .zero, roleA := .zero, roleB := .zero, roleC := .zero, ok := Raw.okZero,
    op := fun _ => .mwake }]

/-- The forms of major 0x3C. -/
def forms3C : List Form := [
  { sub := 0x00, tl := 3, roleD := .gen, roleA := .gen, roleB := .gen, roleC := .gen, ok := Raw.okDim 0x43#15,
    op := fun _ => .cpy },
  { sub := 0x01, tl := 3, roleD := .gen, roleA := .gen, roleB := .gen, roleC := .gen, ok := Raw.okCpyMc,
    op := fun _ => .cpyMc },
  { sub := 0x02, tl := 3, roleD := .gen, roleA := .gen, roleB := .gen, roleC := .gen, ok := Raw.okCpyLb,
    op := fun _ => .cpyLb },
  { sub := 0x03, tl := 3, roleD := .gen, roleA := .gen, roleB := .gen, roleC := .gen, ok := Raw.okCpyRing,
    op := fun _ => .cpyRing }]

/-- The forms of major 0x3D. -/
def forms3D : List Form := [
  { sub := 0x00, tl := 3, roleD := .zero, roleA := .gen, roleB := .zero, roleC := .zero, ok := Raw.okY 0x1F#15,
    op := fun _ => .ksproj },
  { sub := 0x01, tl := 3, roleD := .zero, roleA := .gen, roleB := .gen, roleC := .gen, ok := Raw.okY 0x1F#15,
    op := fun _ => .kstore },
  { sub := 0x02, tl := 3, roleD := .gen, roleA := .gen, roleB := .gen, roleC := .gen, ok := Raw.okKgather,
    op := fun _ => .kgather },
  { sub := 0x03, tl := 3, roleD := .zero, roleA := .zero, roleB := .zero, roleC := .zero, ok := Raw.okY 0#15,
    op := fun _ => .kfence },
  { sub := 0x04, tl := 3, roleD := .gen, roleA := .zero, roleB := .zero, roleC := .zero, ok := Raw.okY 0#15,
    op := fun _ => .kstat },
  { sub := 0x05, tl := 3, roleD := .zero, roleA := .gen, roleB := .zero, roleC := .zero, ok := Raw.okY 0x1F#15,
    op := fun _ => .kbuild }]

/-- The forms of major 0x3E. -/
def forms3E : List Form := [
  { sub := 0x00, tl := 3, roleD := .gen, roleA := .gen, roleB := .zero, roleC := .zero, ok := Raw.okY 0#15,
    op := fun _ => .rinv },
  { sub := 0x01, tl := 3, roleD := .gen, roleA := .gen, roleB := .zero, roleC := .zero, ok := Raw.okY 0#15,
    op := fun _ => .rinvT },
  { sub := 0x02, tl := 3, roleD := .gen, roleA := .gen, roleB := .gen, roleC := .zero, ok := Raw.okY 0#15,
    op := fun _ => .rinvCard },
  { sub := 0x03, tl := 3, roleD := .gen, roleA := .gen, roleB := .zero, roleC := .zero, ok := Raw.okY 0xF#15,
    op := fun _ => .lzcfg },
  { sub := 0x04, tl := 3, roleD := .gen, roleA := .gen, roleB := .zero, roleC := .zero, ok := Raw.okY 0#15,
    op := fun _ => .lzres },
  { sub := 0x05, tl := 3, roleD := .gen, roleA := .gen, roleB := .zero, roleC := .zero, ok := Raw.okY 0#15,
    op := fun _ => .lzrel },
  { sub := 0x06, tl := 3, roleD := .gen, roleA := .gen, roleB := .gen, roleC := .gen, ok := Raw.okY 0x1FF#15,
    op := fun _ => .lzcpy },
  { sub := 0x07, tl := 3, roleD := .zero, roleA := .gen, roleB := .gen, roleC := .zero, ok := Raw.okSigupd,
    op := fun _ => .sigupd },
  { sub := 0x08, tl := 3, roleD := .zero, roleA := .gen, roleB := .gen, roleC := .zero, ok := Raw.okY 3#15,
    op := fun _ => .sigwait }]

/-- The forms of major 0x3F. -/
def forms3F : List Form := [
  { sub := 0x00, tl := 2, roleD := .zero, roleA := .zero, roleB := .zero, roleC := .zero, ok := Raw.okZero,
    op := fun _ => .migpt },
  { sub := 0x01, tl := 2, roleD := .gen, roleA := .gen, roleB := .zero, roleC := .zero, ok := Raw.okX 4,
    op := fun _ => .trig },
  { sub := 0x02, tl := 2, roleD := .gen, roleA := .gen, roleB := .zero, roleC := .zero, ok := Raw.okWake,
    op := fun r => if r.x.toNat == 0 then .wakeGo else if r.x.toNat == 1 then .wakeHold else .wakeDrop },
  { sub := 0x03, tl := 2, roleD := .gen, roleA := .gen, roleB := .gen, roleC := .zero, ok := Raw.okZero,
    op := fun _ => .pair },
  { sub := 0x04, tl := 2, roleD := .zero, roleA := .gen, roleB := .zero, roleC := .zero, ok := Raw.okZero,
    op := fun _ => .heelack },
  { sub := 0x05, tl := 2, roleD := .gen, roleA := .gen, roleB := .zero, roleC := .zero, ok := Raw.okZero,
    op := fun _ => .eresume },
  { sub := 0x06, tl := 2, roleD := .gen, roleA := .gen, roleB := .zero, roleC := .zero, ok := Raw.okZero,
    op := fun _ => .ekill }]

/-- The forms of a major (R55-R57). -/
def forms (op : BitVec 6) : List Form :=
  match op.toNat with
  | 0x01 => forms01
  | 0x15 => forms15
  | 0x02 => forms02
  | 0x03 => forms03
  | 0x04 => forms04
  | 0x05 => forms05
  | 0x06 => forms06
  | 0x07 => forms07
  | 0x08 => forms08
  | 0x09 => forms09
  | 0x0A => forms0A
  | 0x0B => forms0B
  | 0x0C => forms0C
  | 0x0D => forms0D
  | 0x10 => forms10
  | 0x11 => forms11
  | 0x12 => forms12
  | 0x13 => forms13
  | 0x14 => forms14
  | 0x18 => forms18
  | 0x19 => forms19
  | 0x1A => forms1A
  | 0x1B => forms1B
  | 0x1C => forms1C
  | 0x1D => forms1D
  | 0x1E => forms1E
  | 0x1F => forms1F
  | 0x20 => forms20
  | 0x21 => forms21
  | 0x22 => forms22
  | 0x23 => forms23
  | 0x24 => forms24
  | 0x25 => forms25
  | 0x26 => forms26
  | 0x27 => forms27
  | 0x28 => forms28
  | 0x29 => forms29
  | 0x2A => forms2A
  | 0x2B => forms2B
  | 0x30 => forms30
  | 0x31 => forms31
  | 0x32 => forms32
  | 0x33 => forms33
  | 0x34 => forms34
  | 0x35 => forms35
  | 0x36 => forms36
  | 0x38 => forms38
  | 0x39 => forms39
  | 0x3A => forms3A
  | 0x3B => forms3B
  | 0x3C => forms3C
  | 0x3D => forms3D
  | 0x3E => forms3E
  | 0x3F => forms3F
  | _ => []

/-- Where the sub-op lies: in D for majors 0x01 and 0x15, in F where the tail has one, else 0 (R55). -/
def Raw.subOp (r : Raw) : Nat :=
  if r.op.toNat = 0x01 ∨ r.op.toNat = 0x15 then r.d.toNat else r.f.toNat

/-- The form with the fields it uses: plbinval takes an address only with ALL = 0, a context only with OTH = 1, and its other
field must be zero (R54, R278). -/
def Form.used (fm : Form) (r : Raw) : Form :=
  match fm.op r with
  | .plbinval => { fm with roleA := if r.x.getLsbD 0 then .zero else fm.roleA, roleB := if r.x.getLsbD 1 then fm.roleB else .zero }
  | _ => fm

/-- The checks 4, 6 and 7 of R58 that a form makes, and the instruction form. -/
def Form.check (form : Form) (r : Raw) : Except DecodeError Op :=
  let fm := form.used r
  if !(fm.roleD.accepts r.d && fm.roleA.accepts r.a && fm.roleB.accepts r.b && fm.roleC.accepts r.c) then
    .error .illegal
  else if !(fm.roleD.clean r.d && fm.roleA.clean r.a && fm.roleB.clean r.b && fm.roleC.clean r.c && fm.ok r) then
    .error .malformed
  else if fm.twoDst && !(r.rd.apart r.rc) then .error .malformed
  else .ok (fm.op r)

/-- The instruction form and the fields of one head with its tail, in the order of R58. -/
def decodeForm (h : BitVec 16) (t : Word) : Except DecodeError (Op × Raw) :=
  let op := h.extractLsb' 10 6
  if !assigned op then .error .illegal                              -- step 1
  else match layoutOf op (h.extractLsb' 0 2) with
    | none => .error .malformed                                     -- step 2
    | some l =>
      let r := Raw.read h t l
      match (forms op).filter (fun fm => fm.sub == r.subOp) with
      | [] => .error .illegal                                       -- step 3
      | fms =>
        match fms.find? (fun fm => fm.tl == r.tl.toNat) with
        | none => .error .malformed                                 -- steps 4 and 5
        | some fm =>                                                -- steps 4, 6 and 7
          match fm.check r with
          | .error e => .error e
          | .ok o => .ok (o, r)

/-- The instruction that a form and its fields stand for. (Lean's compiler cannot lay out a value of a type with more
than 244 constructors that carry fields, so this function is for the kernel; `step` runs forms, Machine/Reissue.lean.) -/
noncomputable def Op.instr : Op → Raw → Instr
  | .nop, r => .nop r.g
  | .brk, r => .brk r.g
  | .brkCode, r => .brkCode r.g (r.x.extractLsb' 0 16)
  | .trap, r => .trap r.g (r.x.extractLsb' 0 16)
  | .eret, r => .eret r.g
  | .add, r => .add r.g r.rd r.ra r.rb
  | .sub, r => .sub r.g r.rd r.ra r.rb
  | .land, r => .land r.g r.rd r.ra r.rb
  | .lor, r => .lor r.g r.rd r.ra r.rb
  | .lxor, r => .lxor r.g r.rd r.ra r.rb
  | .andn, r => .andn r.g r.rd r.ra r.rb
  | .shl, r => .shl r.g r.rd r.ra r.rb
  | .shr, r => .shr r.g r.rd r.ra r.rb
  | .sar, r => .sar r.g r.rd r.ra r.rb
  | .rol, r => .rol r.g r.rd r.ra r.rb
  | .min, r => .min r.g r.rd r.ra r.rb
  | .max, r => .max r.g r.rd r.ra r.rb
  | .minu, r => .minu r.g r.rd r.ra r.rb
  | .maxu, r => .maxu r.g r.rd r.ra r.rb
  | .addSat, r => .addSat r.g r.rd r.ra r.rb
  | .subSat, r => .subSat r.g r.rd r.ra r.rb
  | .addSatu, r => .addSatu r.g r.rd r.ra r.rb
  | .subSatu, r => .subSatu r.g r.rd r.ra r.rb
  | .sel, r => .sel r.g r.rd r.ra r.rb r.vc
  | .addImm, r => .addImm r.g r.rd r.ra r.imm21
  | .landImm, r => .landImm r.g r.rd r.ra r.imm21
  | .lorImm, r => .lorImm r.g r.rd r.ra r.imm21
  | .lxorImm, r => .lxorImm r.g r.rd r.ra r.imm21
  | .andnImm, r => .andnImm r.g r.rd r.ra r.imm21
  | .minImm, r => .minImm r.g r.rd r.ra r.imm21
  | .maxImm, r => .maxImm r.g r.rd r.ra r.imm21
  | .minuImm, r => .minuImm r.g r.rd r.ra r.imm21
  | .maxuImm, r => .maxuImm r.g r.rd r.ra r.imm21
  | .addSatImm, r => .addSatImm r.g r.rd r.ra r.imm21
  | .addSatuImm, r => .addSatuImm r.g r.rd r.ra r.imm21
  | .shlImm, r => .shlImm r.g r.rd r.ra (r.x.extractLsb' 0 6)
  | .shrImm, r => .shrImm r.g r.rd r.ra (r.x.extractLsb' 0 6)
  | .sarImm, r => .sarImm r.g r.rd r.ra (r.x.extractLsb' 0 6)
  | .rolImm, r => .rolImm r.g r.rd r.ra (r.x.extractLsb' 0 6)
  | .li, r => .li r.g r.rd (r.x.extractLsb' 0 16)
  | .liI32, r => .liI32 r.g r.rd (r.x.extractLsb' 0 32)
  | .liTe, r => .liTe r.g r.rd r.x
  | .mul, r => .mul r.g r.rd r.ra r.rb
  | .mulh, r => .mulh r.g r.rd r.ra r.rb
  | .mulhu, r => .mulhu r.g r.rd r.ra r.rb
  | .div, r => .div r.g r.rd r.ra r.rb
  | .divu, r => .divu r.g r.rd r.ra r.rb
  | .rem, r => .rem r.g r.rd r.ra r.rb
  | .remu, r => .remu r.g r.rd r.ra r.rb
  | .clz, r => .clz r.g r.rd r.ra
  | .ctz, r => .ctz r.g r.rd r.ra
  | .popc, r => .popc r.g r.rd r.ra
  | .bswap, r => .bswap r.g r.rd r.ra
  | .sextB, r => .sextB r.g r.rd r.ra
  | .sextH, r => .sextH r.g r.rd r.ra
  | .sextW, r => .sextW r.g r.rd r.ra
  | .zextB, r => .zextB r.g r.rd r.ra
  | .zextH, r => .zextH r.g r.rd r.ra
  | .zextW, r => .zextW r.g r.rd r.ra
  | .bext, r => .bext r.g r.rd r.ra (r.x.extractLsb' 0 6) (r.x.extractLsb' 6 6)
  | .bins, r => .bins r.g r.rd r.ra (r.x.extractLsb' 0 6) (r.x.extractLsb' 6 6)
  | .lea, r => .lea r.g r.rd r.ra r.rb (r.f.extractLsb' 0 2) r.disp
  | .cmpEq, r => .cmpEq r.g r.vd r.ra r.rb
  | .cmpNe, r => .cmpNe r.g r.vd r.ra r.rb
  | .cmpLt, r => .cmpLt r.g r.vd r.ra r.rb
  | .cmpGe, r => .cmpGe r.g r.vd r.ra r.rb
  | .cmpLtu, r => .cmpLtu r.g r.vd r.ra r.rb
  | .cmpGeu, r => .cmpGeu r.g r.vd r.ra r.rb
  | .cmpGt, r => .cmpGt r.g r.vd r.ra r.rb
  | .cmpLe, r => .cmpLe r.g r.vd r.ra r.rb
  | .cmpGtu, r => .cmpGtu r.g r.vd r.ra r.rb
  | .cmpLeu, r => .cmpLeu r.g r.vd r.ra r.rb
  | .cmpTst, r => .cmpTst r.g r.vd r.ra r.rb
  | .cmpNtst, r => .cmpNtst r.g r.vd r.ra r.rb
  | .cmpEqImm, r => .cmpEqImm r.g r.vd r.ra r.imm21
  | .cmpNeImm, r => .cmpNeImm r.g r.vd r.ra r.imm21
  | .cmpLtImm, r => .cmpLtImm r.g r.vd r.ra r.imm21
  | .cmpGeImm, r => .cmpGeImm r.g r.vd r.ra r.imm21
  | .cmpLtuImm, r => .cmpLtuImm r.g r.vd r.ra r.imm21
  | .cmpGeuImm, r => .cmpGeuImm r.g r.vd r.ra r.imm21
  | .cmpGtImm, r => .cmpGtImm r.g r.vd r.ra r.imm21
  | .cmpLeImm, r => .cmpLeImm r.g r.vd r.ra r.imm21
  | .cmpGtuImm, r => .cmpGtuImm r.g r.vd r.ra r.imm21
  | .cmpLeuImm, r => .cmpLeuImm r.g r.vd r.ra r.imm21
  | .cmpTstImm, r => .cmpTstImm r.g r.vd r.ra r.imm21
  | .cmpNtstImm, r => .cmpNtstImm r.g r.vd r.ra r.imm21
  | .pand, r => .pand r.g r.vd r.va r.vb
  | .por, r => .por r.g r.vd r.va r.vb
  | .pxor, r => .pxor r.g r.vd r.va r.vb
  | .pnot, r => .pnot r.g r.vd r.va
  | .fadd, r => .fadd r.g r.rd r.ra r.rb r.t r.rm
  | .fsub, r => .fsub r.g r.rd r.ra r.rb r.t r.rm
  | .fmul, r => .fmul r.g r.rd r.ra r.rb r.t r.rm
  | .fdiv, r => .fdiv r.g r.rd r.ra r.rb r.t r.rm
  | .fsqrt, r => .fsqrt r.g r.rd r.ra r.t r.rm
  | .fmin, r => .fmin r.g r.rd r.ra r.rb r.t
  | .fmax, r => .fmax r.g r.rd r.ra r.rb r.t
  | .fcmpEq, r => .fcmpEq r.g r.vd r.ra r.rb r.t
  | .fcmpNe, r => .fcmpNe r.g r.vd r.ra r.rb r.t
  | .fcmpLt, r => .fcmpLt r.g r.vd r.ra r.rb r.t
  | .fcmpLe, r => .fcmpLe r.g r.vd r.ra r.rb r.t
  | .fcmpUn, r => .fcmpUn r.g r.vd r.ra r.rb r.t
  | .fcvt, r => .fcvt r.g r.rd r.ra r.t r.t2 r.rm
  | .fclass, r => .fclass r.g r.rd r.ra r.t
  | .fma, r => .fma r.g r.rd r.ra r.rb r.rc r.t r.rm
  | .fmaNa, r => .fmaNa r.g r.rd r.ra r.rb r.rc r.t r.rm
  | .fmaNc, r => .fmaNc r.g r.rd r.ra r.rb r.rc r.t r.rm
  | .fmaNaNc, r => .fmaNaNc r.g r.rd r.ra r.rb r.rc r.t r.rm
  | .mov, r => .mov r.g r.rd r.ra
  | .movF, r => .movF r.g r.rd r.ra
  | .mfs, r => .mfs r.g r.rd (r.x.extractLsb' 0 8)
  | .mts, r => .mts r.g r.ra (r.x.extractLsb' 0 8)
  | .pwdogWrite, r => .pwdogWrite r.g r.ra
  | .bootcntWrite, r => .bootcntWrite r.g r.ra
  | .br, r => .br r.g (r.x.extractLsb' 5 22) (r.x.extractLsb' 0 5)
  | .jmp, r => .jmp r.g r.rd
  | .call, r => .call r.g r.rd (r.x.extractLsb' 5 22) (r.x.extractLsb' 0 5)
  | .callReg, r => .callReg r.g r.rd r.ra
  | .ret, r => .ret r.g r.rd
  | .loop, r => .loop r.g r.rd (r.x.extractLsb' 5 22) (r.x.extractLsb' 0 5)
  | .ldB, r => .ldB r.g r.rd r.ra r.rb r.disp
  | .ldH, r => .ldH r.g r.rd r.ra r.rb r.disp
  | .ldW, r => .ldW r.g r.rd r.ra r.rb r.disp
  | .ldD, r => .ldD r.g r.rd r.ra r.rb r.disp
  | .ldsB, r => .ldsB r.g r.rd r.ra r.rb r.disp
  | .ldsH, r => .ldsH r.g r.rd r.ra r.rb r.disp
  | .ldsW, r => .ldsW r.g r.rd r.ra r.rb r.disp
  | .ldBS, r => .ldBS r.g r.rd r.ra r.rb r.disp
  | .ldHS, r => .ldHS r.g r.rd r.ra r.rb r.disp
  | .ldWS, r => .ldWS r.g r.rd r.ra r.rb r.disp
  | .ldDS, r => .ldDS r.g r.rd r.ra r.rb r.disp
  | .ldsBS, r => .ldsBS r.g r.rd r.ra r.rb r.disp
  | .ldsHS, r => .ldsHS r.g r.rd r.ra r.rb r.disp
  | .ldsWS, r => .ldsWS r.g r.rd r.ra r.rb r.disp
  | .stB, r => .stB r.g r.rd r.ra r.rb r.disp
  | .stH, r => .stH r.g r.rd r.ra r.rb r.disp
  | .stW, r => .stW r.g r.rd r.ra r.rb r.disp
  | .stD, r => .stD r.g r.rd r.ra r.rb r.disp
  | .stBS, r => .stBS r.g r.rd r.ra r.rb r.disp
  | .stHS, r => .stHS r.g r.rd r.ra r.rb r.disp
  | .stWS, r => .stWS r.g r.rd r.ra r.rb r.disp
  | .stDS, r => .stDS r.g r.rd r.ra r.rb r.disp
  | .vld, r => .vld r.g r.vd r.ra r.rb r.t r.m
  | .vldS, r => .vldS r.g r.vd r.ra r.rb r.t r.m
  | .vgather, r => .vgather r.g r.vd r.ra r.vb r.t r.m
  | .vst, r => .vst r.g r.vd r.ra r.rb r.t r.m
  | .vscatter, r => .vscatter r.g r.vd r.ra r.vb r.t r.m
  | .ldsync, r => .ldsync r.g r.rd r.ra r.disp
  | .ldsyncKeep, r => .ldsyncKeep r.g r.rd r.ra r.disp
  | .stsync, r => .stsync r.g r.rd r.ra r.disp
  | .stfill, r => .stfill r.g r.rd r.ra r.disp
  | .feset, r => .feset r.g r.ra r.disp
  | .feclr, r => .feclr r.g r.ra r.disp
  | .feread, r => .feread r.g r.rd r.ra r.disp
  | .amoAdd, r => .amoAdd r.g r.rd r.ra r.rb r.t (Ord.ofCode (r.x.extractLsb' 9 2)) (Scope.ofCode (r.x.extractLsb' 7 2))
  | .amoAnd, r => .amoAnd r.g r.rd r.ra r.rb r.t (Ord.ofCode (r.x.extractLsb' 9 2)) (Scope.ofCode (r.x.extractLsb' 7 2))
  | .amoOr, r => .amoOr r.g r.rd r.ra r.rb r.t (Ord.ofCode (r.x.extractLsb' 9 2)) (Scope.ofCode (r.x.extractLsb' 7 2))
  | .amoXor, r => .amoXor r.g r.rd r.ra r.rb r.t (Ord.ofCode (r.x.extractLsb' 9 2)) (Scope.ofCode (r.x.extractLsb' 7 2))
  | .amoMin, r => .amoMin r.g r.rd r.ra r.rb r.t (Ord.ofCode (r.x.extractLsb' 9 2)) (Scope.ofCode (r.x.extractLsb' 7 2))
  | .amoMax, r => .amoMax r.g r.rd r.ra r.rb r.t (Ord.ofCode (r.x.extractLsb' 9 2)) (Scope.ofCode (r.x.extractLsb' 7 2))
  | .amoSwap, r => .amoSwap r.g r.rd r.ra r.rb r.t (Ord.ofCode (r.x.extractLsb' 9 2)) (Scope.ofCode (r.x.extractLsb' 7 2))
  | .amoCas, r => .amoCas r.g r.rd r.ra r.rb r.rc r.t (Ord.ofCode (r.x.extractLsb' 9 2)) (Scope.ofCode (r.x.extractLsb' 7 2))
  | .fence, r => .fence r.g (Ord.ofCode (r.x.extractLsb' 9 2)) (Scope.ofCode (r.x.extractLsb' 7 2))
  | .plbload, r => .plbload r.g r.rd r.ra
  | .plbinval, r => .plbinval r.g (if r.x.getLsbD 0 then none else some r.ra) (if r.x.getLsbD 1 then some r.rb else none)
  | .scflush, r => .scflush r.g r.ra r.rb
  | .scinval, r => .scinval r.g r.ra
  | .prefetch, r => .prefetch r.g r.ra
  | .prefetchW, r => .prefetchW r.g r.ra
  | .vaddInt, r => .vaddInt r.g r.vd r.va r.vb r.t r.sat r.m
  | .vsubInt, r => .vsubInt r.g r.vd r.va r.vb r.t r.sat r.m
  | .vmulInt, r => .vmulInt r.g r.vd r.va r.vb r.t r.sat r.m
  | .vminInt, r => .vminInt r.g r.vd r.va r.vb r.t r.m
  | .vmaxInt, r => .vmaxInt r.g r.vd r.va r.vb r.t r.m
  | .vabsInt, r => .vabsInt r.g r.vd r.va r.t r.sat r.m
  | .vnegInt, r => .vnegInt r.g r.vd r.va r.t r.sat r.m
  | .vshl, r => .vshl r.g r.vd r.va r.vb r.t r.sat r.m
  | .vshr, r => .vshr r.g r.vd r.va r.vb r.t r.m
  | .vsar, r => .vsar r.g r.vd r.va r.vb r.t r.m
  | .vrand, r => .vrand r.g r.vd r.ra r.rb r.t r.m
  | .vaddIntScalar, r => .vaddIntScalar r.g r.vd r.va r.rb r.t r.sat r.m
  | .vsubIntScalar, r => .vsubIntScalar r.g r.vd r.va r.rb r.t r.sat r.m
  | .vmulIntScalar, r => .vmulIntScalar r.g r.vd r.va r.rb r.t r.sat r.m
  | .vminIntScalar, r => .vminIntScalar r.g r.vd r.va r.rb r.t r.m
  | .vmaxIntScalar, r => .vmaxIntScalar r.g r.vd r.va r.rb r.t r.m
  | .vshlScalar, r => .vshlScalar r.g r.vd r.va r.rb r.t r.sat r.m
  | .vshrScalar, r => .vshrScalar r.g r.vd r.va r.rb r.t r.m
  | .vsarScalar, r => .vsarScalar r.g r.vd r.va r.rb r.t r.m
  | .vaddFp, r => .vaddFp r.g r.vd r.va r.vb r.t r.rm r.m
  | .vsubFp, r => .vsubFp r.g r.vd r.va r.vb r.t r.rm r.m
  | .vmulFp, r => .vmulFp r.g r.vd r.va r.vb r.t r.rm r.m
  | .vminFp, r => .vminFp r.g r.vd r.va r.vb r.t r.m
  | .vmaxFp, r => .vmaxFp r.g r.vd r.va r.vb r.t r.m
  | .vabsFp, r => .vabsFp r.g r.vd r.va r.t r.m
  | .vnegFp, r => .vnegFp r.g r.vd r.va r.t r.m
  | .vaddFpScalar, r => .vaddFpScalar r.g r.vd r.va r.rb r.t r.rm r.m
  | .vsubFpScalar, r => .vsubFpScalar r.g r.vd r.va r.rb r.t r.rm r.m
  | .vmulFpScalar, r => .vmulFpScalar r.g r.vd r.va r.rb r.t r.rm r.m
  | .vminFpScalar, r => .vminFpScalar r.g r.vd r.va r.rb r.t r.m
  | .vmaxFpScalar, r => .vmaxFpScalar r.g r.vd r.va r.rb r.t r.m
  | .vfma, r => .vfma r.g r.vd r.va r.vb r.vc r.t r.rm r.m
  | .vfmaNa, r => .vfmaNa r.g r.vd r.va r.vb r.vc r.t r.rm r.m
  | .vfmaNc, r => .vfmaNc r.g r.vd r.va r.vb r.vc r.t r.rm r.m
  | .vfmaNaNc, r => .vfmaNaNc r.g r.vd r.va r.vb r.vc r.t r.rm r.m
  | .vcmpEq, r => .vcmpEq r.g r.md r.va r.vb r.t r.m
  | .vcmpNe, r => .vcmpNe r.g r.md r.va r.vb r.t r.m
  | .vcmpLt, r => .vcmpLt r.g r.md r.va r.vb r.t r.m
  | .vcmpLe, r => .vcmpLe r.g r.md r.va r.vb r.t r.m
  | .vcmpGt, r => .vcmpGt r.g r.md r.va r.vb r.t r.m
  | .vcmpGe, r => .vcmpGe r.g r.md r.va r.vb r.t r.m
  | .vcmpUn, r => .vcmpUn r.g r.md r.va r.vb r.t r.m
  | .vcmpEqScalar, r => .vcmpEqScalar r.g r.md r.va r.rb r.t r.m
  | .vcmpNeScalar, r => .vcmpNeScalar r.g r.md r.va r.rb r.t r.m
  | .vcmpLtScalar, r => .vcmpLtScalar r.g r.md r.va r.rb r.t r.m
  | .vcmpLeScalar, r => .vcmpLeScalar r.g r.md r.va r.rb r.t r.m
  | .vcmpGtScalar, r => .vcmpGtScalar r.g r.md r.va r.rb r.t r.m
  | .vcmpGeScalar, r => .vcmpGeScalar r.g r.md r.va r.rb r.t r.m
  | .vcmpUnScalar, r => .vcmpUnScalar r.g r.md r.va r.rb r.t r.m
  | .vsel, r => .vsel r.g r.vd r.va r.vb r.t (r.x.extractLsb' 7 2)
  | .vcompress, r => .vcompress r.g r.vd r.va r.rc r.t r.m
  | .vexpand, r => .vexpand r.g r.vd r.va r.t r.m
  | .vperm, r => .vperm r.g r.vd r.va r.vb r.t r.m
  | .vbcast, r => .vbcast r.g r.vd r.ra r.t r.m
  | .vredAdd, r => .vredAdd r.g r.rd r.va r.t r.sat r.rm r.m
  | .vredMax, r => .vredMax r.g r.rd r.va r.t r.m
  | .vredMin, r => .vredMin r.g r.rd r.va r.t r.m
  | .vredmaxIdx, r => .vredmaxIdx r.g r.rd r.va r.rc r.t r.m
  | .vredminIdx, r => .vredminIdx r.g r.rd r.va r.rc r.t r.m
  | .vscanAdd, r => .vscanAdd r.g r.vd r.va r.t r.sat r.rm r.m
  | .vcvt, r => .vcvt r.g r.vd r.va (r.b.extractLsb' 0 3) r.t r.t2 r.rm
  | .vlog2, r => .vlog2 r.g r.vd r.va r.rm r.m
  | .vexp2, r => .vexp2 r.g r.vd r.va r.rm r.m
  | .vrcp, r => .vrcp r.g r.vd r.va r.rm r.m
  | .vrsqrt, r => .vrsqrt r.g r.vd r.va r.rm r.m
  | .vsqrt, r => .vsqrt r.g r.vd r.va r.rm r.m
  | .vsin, r => .vsin r.g r.vd r.va r.rm r.m
  | .vcos, r => .vcos r.g r.vd r.va r.rm r.m
  | .vdiv, r => .vdiv r.g r.vd r.va r.vb r.t r.rm r.m
  | .vrem, r => .vrem r.g r.vd r.va r.vb r.t r.m
  | .vdivScalar, r => .vdivScalar r.g r.vd r.va r.rb r.t r.rm r.m
  | .vremScalar, r => .vremScalar r.g r.vd r.va r.rb r.t r.m
  | .sbind, r => .sbind r.g (r.d.extractLsb' 0 2) r.ra r.rb r.rc
  | .sunbind, r => .sunbind r.g (r.d.extractLsb' 0 2)
  | .stest, r => .stest r.g r.rd (r.a.extractLsb' 0 2)
  | .vmovg, r => .vmovg r.g r.rd r.va r.rb r.t
  | .gmovv, r => .gmovv r.g r.vd r.ra r.rb r.t
  | .vand, r => .vand r.g r.vd r.va r.vb r.t r.m
  | .vor, r => .vor r.g r.vd r.va r.vb r.t r.m
  | .vxor, r => .vxor r.g r.vd r.va r.vb r.t r.m
  | .vnot, r => .vnot r.g r.vd r.va r.t r.m
  | .vandScalar, r => .vandScalar r.g r.vd r.va r.rb r.t r.m
  | .vorScalar, r => .vorScalar r.g r.vd r.va r.rb r.t r.m
  | .vxorScalar, r => .vxorScalar r.g r.vd r.va r.rb r.t r.m
  | .fork, r => .fork r.g r.rd r.ra r.rb (r.x.getLsbD 7) (r.x.getLsbD 6) (r.x.extractLsb' 4 2) (r.x.extractLsb' 0 4)
  | .join, r => .join r.g r.ra
  | .spawn, r => .spawn r.g r.rd r.ra r.rb
  | .halt, r => .halt r.g
  | .yield, r => .yield r.g r.rd
  | .lend, r => .lend r.g (r.x.getLsbD 0)
  | .pin, r => .pin r.g r.rd (r.x.getLsbD 0)
  | .callat, r => .callat r.g r.rd r.ra r.rb
  | .retm, r => .retm r.g r.ra
  | .msend, r => .msend r.g r.ra r.rb (r.x.extractLsb' 0 8)
  | .mrecv, r => .mrecv r.g r.rd r.rc
  | .mwait, r => .mwait r.g r.rd
  | .mtry, r => .mtry r.g r.rd r.rc (r.x.extractLsb' 0 3)
  | .ksig, r => .ksig r.g r.ra (r.x.extractLsb' 0 8)
  | .ksub, r => .ksub r.g r.ra (r.x.extractLsb' 0 8)
  | .kwait, r => .kwait r.g r.ra (r.x.extractLsb' 0 8)
  | .kset, r => .kset r.g r.ra (r.x.extractLsb' 0 8)
  | .kread, r => .kread r.g r.rd (r.x.extractLsb' 0 8)
  | .ttarm, r => .ttarm r.g r.rd r.ra r.rb (r.x.extractLsb' 0 8)
  | .ttcancel, r => .ttcancel r.g r.rd r.ra
  | .qbind, r => .qbind r.g ((r.d - 24#5).extractLsb' 0 2) (PortMode.ofX r.disp)
  | .qstat, r => .qstat r.g r.rd (r.x.extractLsb' 0 4)
  | .roam, r => .roam r.g r.ra
  | .mma, r => .mma r.g r.rd r.ra r.rb r.rc (r.yb 7) (r.yb 6) (r.yb 5) (r.yb 4) (r.y.extractLsb' 0 4) r.td
  | .accld, r => .accld r.g r.rd r.ra r.rc (r.yb 7) (r.y.extractLsb' 0 4) r.td
  | .accst, r => .accst r.g r.rd r.ra r.rb r.rc (r.yb 7) (r.yb 6) (r.y.extractLsb' 4 2) (r.y.extractLsb' 0 4) r.td
  | .acczero, r => .acczero r.g r.rd r.rc (r.yb 7) (r.y.extractLsb' 0 4) r.td
  | .mpack, r => .mpack r.g r.rd r.ra r.rb (r.yb 7) r.td
  | .munpack, r => .munpack r.g r.rd r.ra r.rb (r.yb 7) r.td
  | .mwaitj, r => .mwaitj r.g r.rd r.ra
  | .mpoll, r => .mpoll r.g r.rd r.ra
  | .mwake, r => .mwake r.g
  | .cpy, r => .cpy r.g r.rd r.ra r.rb r.rc (r.yb 6) (Dim.ofCode (r.y.extractLsb' 0 2)) r.td
  | .cpyMc, r => .cpyMc r.g r.rd r.ra r.rb r.rc (r.y.extractLsb' 7 8) (r.yb 6) (Dim.ofCode (r.y.extractLsb' 0 2)) r.td
  | .cpyLb, r => .cpyLb r.g r.rd r.ra r.rb r.rc (r.yb 6) (r.yb 5) (r.y.extractLsb' 3 2) r.td
  | .cpyRing, r => .cpyRing r.g r.rd r.ra r.rb r.rc (r.yb 6) (Dim.ofCode (r.y.extractLsb' 0 2)) r.td
  | .ksproj, r => .ksproj r.g r.ra (r.y.extractLsb' 0 5) r.td
  | .kstore, r => .kstore r.g r.ra r.rb r.rc (r.y.extractLsb' 0 5) r.td
  | .kgather, r => .kgather r.g r.rd r.ra r.rb r.rc (r.yb 8) (r.y.extractLsb' 6 2) (r.y.extractLsb' 0 5) r.td
  | .kfence, r => .kfence r.g r.td
  | .kstat, r => .kstat r.g r.rd r.td
  | .kbuild, r => .kbuild r.g r.ra (r.y.extractLsb' 0 5) r.td
  | .rinv, r => .rinv r.g r.rd r.ra r.td
  | .rinvT, r => .rinvT r.g r.rd r.ra r.td
  | .rinvCard, r => .rinvCard r.g r.rd r.ra r.rb r.td
  | .lzcfg, r => .lzcfg r.g r.rd r.ra (r.y.extractLsb' 0 4) r.td
  | .lzres, r => .lzres r.g r.rd r.ra r.td
  | .lzrel, r => .lzrel r.g r.rd r.ra r.td
  | .lzcpy, r => .lzcpy r.g r.rd r.ra r.rb r.rc (r.yb 8) (r.y.extractLsb' 0 8) r.td
  | .sigupd, r => .sigupd r.g r.ra r.rb (SigOp.ofCode (r.y.extractLsb' 0 2)) r.td
  | .sigwait, r => .sigwait r.g r.ra r.rb (Cmp.ofCode (r.y.extractLsb' 0 2)) r.td
  | .migpt, r => .migpt r.g
  | .trig, r => .trig r.g r.rd r.ra (r.x.extractLsb' 0 4)
  | .wakeGo, r => .wakeGo r.g r.rd r.ra
  | .wakeHold, r => .wakeHold r.g r.rd r.ra
  | .wakeDrop, r => .wakeDrop r.g r.rd r.ra
  | .pair, r => .pair r.g r.rd r.ra r.rb
  | .heelack, r => .heelack r.g r.ra
  | .eresume, r => .eresume r.g r.rd r.ra
  | .ekill, r => .ekill r.g r.rd r.ra

/-- The decoding of one head with its tail. -/
noncomputable def decodeHead (h : BitVec 16) (t : Word) : Except DecodeError Instr :=
  match decodeForm h t with
  | .error e => .error e
  | .ok (o, r) => .ok (o.instr r)

/-- The number of bytes of a tail of the given length code (R41). -/
def tailParcels (tl : BitVec 2) : Nat :=
  match tl.toNat with
  | 0 => 0 | 1 => 1 | 2 => 2 | _ => 4

/-- The instruction of a table word (spec/opcode_table.json): the table writes the head in the highest 16 bits of
the row and the tail, where it has one, in the bits below; the bits of a longer tail are zero. -/
noncomputable def decodeTableWord (nbits w : Nat) : Option Instr :=
  let h := BitVec.ofNat 16 (w / 2 ^ (nbits - 16))
  let t := BitVec.ofNat 64 (w % 2 ^ (nbits - 16))
  match decodeHead h t with
  | .ok i => some i
  | .error _ => none

/-! ### The encoder -/

/-- The X field of a floating-point form (R50). -/
def xFp (t : Ty) (rm : Rm) (t2 : Ty) : Word := (t2.code ++ t.code ++ rm.code).setWidth 64

/-- The X field of a vector form (R52). -/
def xVec (sat : Bool) (m : Option MReg) (t : Ty) (rm : Rm) : Word :=
  (bit1 sat ++ bit1 m.isSome ++ m.getD 0 ++ t.code ++ rm.code).setWidth 64

/-- The X field of an atomic (R268). -/
def xAmo (t : Ty) (o : Ord) (sc : Scope) : Word := (o.code ++ sc.code ++ t.code ++ 0#3).setWidth 64

/-- The X field of a fence (R275). -/
def xFence (o : Ord) (sc : Scope) : Word := (o.code ++ sc.code ++ 0#7).setWidth 64

/-- The X field of plbinval (R278): OTH when a context is named, ALL when no address is. -/
def xPlbinval (a b : Option Reg) : Word := (bit1 b.isSome ++ bit1 a.isNone).setWidth 64

/-- The code of an optional register field: zero where it is unused. -/
def optCode : Option Reg → BitVec 5
  | some r => r.code
  | none => 0

/-- The layout and the fields of an instruction, from the tables of R55-R57 and the entries; an event has none. -/
def Instr.raw : Instr → Option (Layout × Raw)
  | .nop g => some (.none, { op := 0x01, d := 0, g := g, tl := 0 })
  | .brk g => some (.none, { op := 0x01, d := 1, g := g, tl := 0 })
  | .brkCode g code => some (.ti, { op := 0x01, d := 1, g := g, tl := 1, x := (code).setWidth 64 })
  | .trap g code => some (.ti, { op := 0x15, d := 0, g := g, tl := 1, x := (code).setWidth 64 })
  | .eret g => some (.none, { op := 0x15, d := 1, g := g, tl := 0 })
  | .add g d a b => some (.ta, { op := 0x02, d := d.code, g := g, tl := 1, a := a.code, b := b.code })
  | .sub g d a b => some (.ta, { op := 0x02, d := d.code, g := g, tl := 1, a := a.code, b := b.code, f := 0x01 })
  | .land g d a b => some (.ta, { op := 0x02, d := d.code, g := g, tl := 1, a := a.code, b := b.code, f := 0x02 })
  | .lor g d a b => some (.ta, { op := 0x02, d := d.code, g := g, tl := 1, a := a.code, b := b.code, f := 0x03 })
  | .lxor g d a b => some (.ta, { op := 0x02, d := d.code, g := g, tl := 1, a := a.code, b := b.code, f := 0x04 })
  | .andn g d a b => some (.ta, { op := 0x02, d := d.code, g := g, tl := 1, a := a.code, b := b.code, f := 0x05 })
  | .shl g d a b => some (.ta, { op := 0x02, d := d.code, g := g, tl := 1, a := a.code, b := b.code, f := 0x06 })
  | .shr g d a b => some (.ta, { op := 0x02, d := d.code, g := g, tl := 1, a := a.code, b := b.code, f := 0x07 })
  | .sar g d a b => some (.ta, { op := 0x02, d := d.code, g := g, tl := 1, a := a.code, b := b.code, f := 0x08 })
  | .rol g d a b => some (.ta, { op := 0x02, d := d.code, g := g, tl := 1, a := a.code, b := b.code, f := 0x09 })
  | .min g d a b => some (.ta, { op := 0x02, d := d.code, g := g, tl := 1, a := a.code, b := b.code, f := 0x0A })
  | .max g d a b => some (.ta, { op := 0x02, d := d.code, g := g, tl := 1, a := a.code, b := b.code, f := 0x0B })
  | .minu g d a b => some (.ta, { op := 0x02, d := d.code, g := g, tl := 1, a := a.code, b := b.code, f := 0x0C })
  | .maxu g d a b => some (.ta, { op := 0x02, d := d.code, g := g, tl := 1, a := a.code, b := b.code, f := 0x0D })
  | .addSat g d a b => some (.ta, { op := 0x02, d := d.code, g := g, tl := 1, a := a.code, b := b.code, f := 0x0E })
  | .subSat g d a b => some (.ta, { op := 0x02, d := d.code, g := g, tl := 1, a := a.code, b := b.code, f := 0x0F })
  | .addSatu g d a b => some (.ta, { op := 0x02, d := d.code, g := g, tl := 1, a := a.code, b := b.code, f := 0x10 })
  | .subSatu g d a b => some (.ta, { op := 0x02, d := d.code, g := g, tl := 1, a := a.code, b := b.code, f := 0x11 })
  | .sel g d a b c => some (.tb, { op := 0x02, d := d.code, g := g, tl := 2, a := a.code, b := b.code, c := 0#2 ++ c, f := 0x12 })
  | .addImm g d a imm => some (.tcs, { op := 0x03, d := d.code, g := g, tl := 2, a := a.code, x := (imm).setWidth 64 })
  | .landImm g d a imm => some (.tcs, { op := 0x03, d := d.code, g := g, tl := 2, a := a.code, f := 0x02, x := (imm).setWidth 64 })
  | .lorImm g d a imm => some (.tcs, { op := 0x03, d := d.code, g := g, tl := 2, a := a.code, f := 0x03, x := (imm).setWidth 64 })
  | .lxorImm g d a imm => some (.tcs, { op := 0x03, d := d.code, g := g, tl := 2, a := a.code, f := 0x04, x := (imm).setWidth 64 })
  | .andnImm g d a imm => some (.tcs, { op := 0x03, d := d.code, g := g, tl := 2, a := a.code, f := 0x05, x := (imm).setWidth 64 })
  | .minImm g d a imm => some (.tcs, { op := 0x03, d := d.code, g := g, tl := 2, a := a.code, f := 0x0A, x := (imm).setWidth 64 })
  | .maxImm g d a imm => some (.tcs, { op := 0x03, d := d.code, g := g, tl := 2, a := a.code, f := 0x0B, x := (imm).setWidth 64 })
  | .minuImm g d a imm => some (.tcs, { op := 0x03, d := d.code, g := g, tl := 2, a := a.code, f := 0x0C, x := (imm).setWidth 64 })
  | .maxuImm g d a imm => some (.tcs, { op := 0x03, d := d.code, g := g, tl := 2, a := a.code, f := 0x0D, x := (imm).setWidth 64 })
  | .addSatImm g d a imm => some (.tcs, { op := 0x03, d := d.code, g := g, tl := 2, a := a.code, f := 0x0E, x := (imm).setWidth 64 })
  | .addSatuImm g d a imm => some (.tcs, { op := 0x03, d := d.code, g := g, tl := 2, a := a.code, f := 0x10, x := (imm).setWidth 64 })
  | .shlImm g d a n => some (.tcs, { op := 0x03, d := d.code, g := g, tl := 2, a := a.code, f := 0x06, x := (n).setWidth 64 })
  | .shrImm g d a n => some (.tcs, { op := 0x03, d := d.code, g := g, tl := 2, a := a.code, f := 0x07, x := (n).setWidth 64 })
  | .sarImm g d a n => some (.tcs, { op := 0x03, d := d.code, g := g, tl := 2, a := a.code, f := 0x08, x := (n).setWidth 64 })
  | .rolImm g d a n => some (.tcs, { op := 0x03, d := d.code, g := g, tl := 2, a := a.code, f := 0x09, x := (n).setWidth 64 })
  | .li g d imm => some (.ti, { op := 0x04, d := d.code, g := g, tl := 1, x := (imm).setWidth 64 })
  | .liI32 g d imm => some (.i32, { op := 0x04, d := d.code, g := g, tl := 2, x := (imm).setWidth 64 })
  | .liTe g d imm => some (.te, { op := 0x04, d := d.code, g := g, tl := 3, x := imm })
  | .mul g d a b => some (.ta, { op := 0x05, d := d.code, g := g, tl := 1, a := a.code, b := b.code })
  | .mulh g d a b => some (.ta, { op := 0x05, d := d.code, g := g, tl := 1, a := a.code, b := b.code, f := 0x01 })
  | .mulhu g d a b => some (.ta, { op := 0x05, d := d.code, g := g, tl := 1, a := a.code, b := b.code, f := 0x02 })
  | .div g d a b => some (.ta, { op := 0x05, d := d.code, g := g, tl := 1, a := a.code, b := b.code, f := 0x08 })
  | .divu g d a b => some (.ta, { op := 0x05, d := d.code, g := g, tl := 1, a := a.code, b := b.code, f := 0x09 })
  | .rem g d a b => some (.ta, { op := 0x05, d := d.code, g := g, tl := 1, a := a.code, b := b.code, f := 0x0A })
  | .remu g d a b => some (.ta, { op := 0x05, d := d.code, g := g, tl := 1, a := a.code, b := b.code, f := 0x0B })
  | .clz g d a => some (.ta, { op := 0x06, d := d.code, g := g, tl := 1, a := a.code })
  | .ctz g d a => some (.ta, { op := 0x06, d := d.code, g := g, tl := 1, a := a.code, f := 0x01 })
  | .popc g d a => some (.ta, { op := 0x06, d := d.code, g := g, tl := 1, a := a.code, f := 0x02 })
  | .bswap g d a => some (.ta, { op := 0x06, d := d.code, g := g, tl := 1, a := a.code, f := 0x03 })
  | .sextB g d a => some (.ta, { op := 0x06, d := d.code, g := g, tl := 1, a := a.code, f := 0x04 })
  | .sextH g d a => some (.ta, { op := 0x06, d := d.code, g := g, tl := 1, a := a.code, f := 0x05 })
  | .sextW g d a => some (.ta, { op := 0x06, d := d.code, g := g, tl := 1, a := a.code, f := 0x06 })
  | .zextB g d a => some (.ta, { op := 0x06, d := d.code, g := g, tl := 1, a := a.code, f := 0x07 })
  | .zextH g d a => some (.ta, { op := 0x06, d := d.code, g := g, tl := 1, a := a.code, f := 0x08 })
  | .zextW g d a => some (.ta, { op := 0x06, d := d.code, g := g, tl := 1, a := a.code, f := 0x09 })
  | .bext g d a pos len => some (.tcs, { op := 0x06, d := d.code, g := g, tl := 2, a := a.code, f := 0x10, x := (len ++ pos).setWidth 64 })
  | .bins g d a pos len => some (.tcs, { op := 0x06, d := d.code, g := g, tl := 2, a := a.code, f := 0x11, x := (len ++ pos).setWidth 64 })
  | .lea g d a b scale disp => some (.tb, { op := 0x07, d := d.code, g := g, tl := 2, a := a.code, b := b.code, f := 0#4 ++ scale, x := (disp).setWidth 64 })
  | .cmpEq g d a b => some (.ta, { op := 0x08, d := 0#2 ++ d, g := g, tl := 1, a := a.code, b := b.code })
  | .cmpNe g d a b => some (.ta, { op := 0x08, d := 0#2 ++ d, g := g, tl := 1, a := a.code, b := b.code, f := 0x01 })
  | .cmpLt g d a b => some (.ta, { op := 0x08, d := 0#2 ++ d, g := g, tl := 1, a := a.code, b := b.code, f := 0x02 })
  | .cmpGe g d a b => some (.ta, { op := 0x08, d := 0#2 ++ d, g := g, tl := 1, a := a.code, b := b.code, f := 0x03 })
  | .cmpLtu g d a b => some (.ta, { op := 0x08, d := 0#2 ++ d, g := g, tl := 1, a := a.code, b := b.code, f := 0x04 })
  | .cmpGeu g d a b => some (.ta, { op := 0x08, d := 0#2 ++ d, g := g, tl := 1, a := a.code, b := b.code, f := 0x05 })
  | .cmpGt g d a b => some (.ta, { op := 0x08, d := 0#2 ++ d, g := g, tl := 1, a := a.code, b := b.code, f := 0x06 })
  | .cmpLe g d a b => some (.ta, { op := 0x08, d := 0#2 ++ d, g := g, tl := 1, a := a.code, b := b.code, f := 0x07 })
  | .cmpGtu g d a b => some (.ta, { op := 0x08, d := 0#2 ++ d, g := g, tl := 1, a := a.code, b := b.code, f := 0x08 })
  | .cmpLeu g d a b => some (.ta, { op := 0x08, d := 0#2 ++ d, g := g, tl := 1, a := a.code, b := b.code, f := 0x09 })
  | .cmpTst g d a b => some (.ta, { op := 0x08, d := 0#2 ++ d, g := g, tl := 1, a := a.code, b := b.code, f := 0x0A })
  | .cmpNtst g d a b => some (.ta, { op := 0x08, d := 0#2 ++ d, g := g, tl := 1, a := a.code, b := b.code, f := 0x0B })
  | .cmpEqImm g d a imm => some (.tcs, { op := 0x08, d := 0#2 ++ d, g := g, tl := 2, a := a.code, x := (imm).setWidth 64 })
  | .cmpNeImm g d a imm => some (.tcs, { op := 0x08, d := 0#2 ++ d, g := g, tl := 2, a := a.code, f := 0x01, x := (imm).setWidth 64 })
  | .cmpLtImm g d a imm => some (.tcs, { op := 0x08, d := 0#2 ++ d, g := g, tl := 2, a := a.code, f := 0x02, x := (imm).setWidth 64 })
  | .cmpGeImm g d a imm => some (.tcs, { op := 0x08, d := 0#2 ++ d, g := g, tl := 2, a := a.code, f := 0x03, x := (imm).setWidth 64 })
  | .cmpLtuImm g d a imm => some (.tcs, { op := 0x08, d := 0#2 ++ d, g := g, tl := 2, a := a.code, f := 0x04, x := (imm).setWidth 64 })
  | .cmpGeuImm g d a imm => some (.tcs, { op := 0x08, d := 0#2 ++ d, g := g, tl := 2, a := a.code, f := 0x05, x := (imm).setWidth 64 })
  | .cmpGtImm g d a imm => some (.tcs, { op := 0x08, d := 0#2 ++ d, g := g, tl := 2, a := a.code, f := 0x06, x := (imm).setWidth 64 })
  | .cmpLeImm g d a imm => some (.tcs, { op := 0x08, d := 0#2 ++ d, g := g, tl := 2, a := a.code, f := 0x07, x := (imm).setWidth 64 })
  | .cmpGtuImm g d a imm => some (.tcs, { op := 0x08, d := 0#2 ++ d, g := g, tl := 2, a := a.code, f := 0x08, x := (imm).setWidth 64 })
  | .cmpLeuImm g d a imm => some (.tcs, { op := 0x08, d := 0#2 ++ d, g := g, tl := 2, a := a.code, f := 0x09, x := (imm).setWidth 64 })
  | .cmpTstImm g d a imm => some (.tcs, { op := 0x08, d := 0#2 ++ d, g := g, tl := 2, a := a.code, f := 0x0A, x := (imm).setWidth 64 })
  | .cmpNtstImm g d a imm => some (.tcs, { op := 0x08, d := 0#2 ++ d, g := g, tl := 2, a := a.code, f := 0x0B, x := (imm).setWidth 64 })
  | .pand g d a b => some (.ta, { op := 0x09, d := 0#2 ++ d, g := g, tl := 1, a := 0#2 ++ a, b := 0#2 ++ b })
  | .por g d a b => some (.ta, { op := 0x09, d := 0#2 ++ d, g := g, tl := 1, a := 0#2 ++ a, b := 0#2 ++ b, f := 0x01 })
  | .pxor g d a b => some (.ta, { op := 0x09, d := 0#2 ++ d, g := g, tl := 1, a := 0#2 ++ a, b := 0#2 ++ b, f := 0x02 })
  | .pnot g d a => some (.ta, { op := 0x09, d := 0#2 ++ d, g := g, tl := 1, a := 0#2 ++ a, f := 0x03 })
  | .fadd g d a b t rm => some (.tb, { op := 0x0A, d := d.code, g := g, tl := 2, a := a.code, b := b.code, x := xFp t rm .f16 })
  | .fsub g d a b t rm => some (.tb, { op := 0x0A, d := d.code, g := g, tl := 2, a := a.code, b := b.code, f := 0x01, x := xFp t rm .f16 })
  | .fmul g d a b t rm => some (.tb, { op := 0x0A, d := d.code, g := g, tl := 2, a := a.code, b := b.code, f := 0x02, x := xFp t rm .f16 })
  | .fdiv g d a b t rm => some (.tb, { op := 0x0A, d := d.code, g := g, tl := 2, a := a.code, b := b.code, f := 0x03, x := xFp t rm .f16 })
  | .fsqrt g d a t rm => some (.tb, { op := 0x0A, d := d.code, g := g, tl := 2, a := a.code, f := 0x04, x := xFp t rm .f16 })
  | .fmin g d a b t => some (.tb, { op := 0x0A, d := d.code, g := g, tl := 2, a := a.code, b := b.code, f := 0x05, x := xFp t .rne .f16 })
  | .fmax g d a b t => some (.tb, { op := 0x0A, d := d.code, g := g, tl := 2, a := a.code, b := b.code, f := 0x06, x := xFp t .rne .f16 })
  | .fcmpEq g d a b t => some (.tb, { op := 0x0B, d := 0#2 ++ d, g := g, tl := 2, a := a.code, b := b.code, x := xFp t .rne .f16 })
  | .fcmpNe g d a b t => some (.tb, { op := 0x0B, d := 0#2 ++ d, g := g, tl := 2, a := a.code, b := b.code, f := 0x01, x := xFp t .rne .f16 })
  | .fcmpLt g d a b t => some (.tb, { op := 0x0B, d := 0#2 ++ d, g := g, tl := 2, a := a.code, b := b.code, f := 0x02, x := xFp t .rne .f16 })
  | .fcmpLe g d a b t => some (.tb, { op := 0x0B, d := 0#2 ++ d, g := g, tl := 2, a := a.code, b := b.code, f := 0x03, x := xFp t .rne .f16 })
  | .fcmpUn g d a b t => some (.tb, { op := 0x0B, d := 0#2 ++ d, g := g, tl := 2, a := a.code, b := b.code, f := 0x04, x := xFp t .rne .f16 })
  | .fcvt g d a t t2 rm => some (.tb, { op := 0x0B, d := d.code, g := g, tl := 2, a := a.code, f := 0x08, x := xFp t rm t2 })
  | .fclass g d a t => some (.tb, { op := 0x0B, d := d.code, g := g, tl := 2, a := a.code, f := 0x09, x := xFp t .rne .f16 })
  | .fma g d a b c t rm => some (.tb, { op := 0x0C, d := d.code, g := g, tl := 2, a := a.code, b := b.code, c := c.code, x := xFp t rm .f16 })
  | .fmaNa g d a b c t rm => some (.tb, { op := 0x0C, d := d.code, g := g, tl := 2, a := a.code, b := b.code, c := c.code, f := 0x01, x := xFp t rm .f16 })
  | .fmaNc g d a b c t rm => some (.tb, { op := 0x0C, d := d.code, g := g, tl := 2, a := a.code, b := b.code, c := c.code, f := 0x02, x := xFp t rm .f16 })
  | .fmaNaNc g d a b c t rm => some (.tb, { op := 0x0C, d := d.code, g := g, tl := 2, a := a.code, b := b.code, c := c.code, f := 0x03, x := xFp t rm .f16 })
  | .mov g d a => some (.ta, { op := 0x0D, d := d.code, g := g, tl := 1, a := a.code })
  | .movF g d a => some (.ta, { op := 0x0D, d := d.code, g := g, tl := 1, a := a.code, f := 0x01 })
  | .mfs g d idx => some (.tb, { op := 0x0D, d := d.code, g := g, tl := 2, f := 0x02, x := (idx).setWidth 64 })
  | .mts g a idx => some (.tb, { op := 0x0D, d := 0, g := g, tl := 2, a := a.code, f := 0x03, x := (idx).setWidth 64 })
  | .pwdogWrite g a => some (.tb, { op := 0x0D, d := 0, g := g, tl := 2, a := a.code, f := 0x03, x := 0x80 })
  | .bootcntWrite g a => some (.tb, { op := 0x0D, d := 0, g := g, tl := 2, a := a.code, f := 0x03, x := 0x81 })
  | .br g off head => some (.tc, { op := 0x10, d := 0, g := g, tl := 2, x := (off ++ head).setWidth 64 })
  | .jmp g d => some (.none, { op := 0x11, d := d.code, g := g, tl := 0 })
  | .call g d off head => some (.tc, { op := 0x12, d := d.code, g := g, tl := 2, x := (off ++ head).setWidth 64 })
  | .callReg g d a => some (.ta, { op := 0x12, d := d.code, g := g, tl := 1, a := a.code })
  | .ret g d => some (.none, { op := 0x13, d := d.code, g := g, tl := 0 })
  | .loop g d off head => some (.tc, { op := 0x14, d := d.code, g := g, tl := 2, x := (off ++ head).setWidth 64 })
  | .ldB g d a b disp => some (.tb, { op := 0x18, d := d.code, g := g, tl := 2, a := a.code, b := b.code, x := (disp).setWidth 64 })
  | .ldH g d a b disp => some (.tb, { op := 0x18, d := d.code, g := g, tl := 2, a := a.code, b := b.code, f := 0x01, x := (disp).setWidth 64 })
  | .ldW g d a b disp => some (.tb, { op := 0x18, d := d.code, g := g, tl := 2, a := a.code, b := b.code, f := 0x02, x := (disp).setWidth 64 })
  | .ldD g d a b disp => some (.tb, { op := 0x18, d := d.code, g := g, tl := 2, a := a.code, b := b.code, f := 0x03, x := (disp).setWidth 64 })
  | .ldsB g d a b disp => some (.tb, { op := 0x18, d := d.code, g := g, tl := 2, a := a.code, b := b.code, f := 0x04, x := (disp).setWidth 64 })
  | .ldsH g d a b disp => some (.tb, { op := 0x18, d := d.code, g := g, tl := 2, a := a.code, b := b.code, f := 0x05, x := (disp).setWidth 64 })
  | .ldsW g d a b disp => some (.tb, { op := 0x18, d := d.code, g := g, tl := 2, a := a.code, b := b.code, f := 0x06, x := (disp).setWidth 64 })
  | .ldBS g d a b disp => some (.tb, { op := 0x18, d := d.code, g := g, tl := 2, a := a.code, b := b.code, f := 0x08, x := (disp).setWidth 64 })
  | .ldHS g d a b disp => some (.tb, { op := 0x18, d := d.code, g := g, tl := 2, a := a.code, b := b.code, f := 0x09, x := (disp).setWidth 64 })
  | .ldWS g d a b disp => some (.tb, { op := 0x18, d := d.code, g := g, tl := 2, a := a.code, b := b.code, f := 0x0A, x := (disp).setWidth 64 })
  | .ldDS g d a b disp => some (.tb, { op := 0x18, d := d.code, g := g, tl := 2, a := a.code, b := b.code, f := 0x0B, x := (disp).setWidth 64 })
  | .ldsBS g d a b disp => some (.tb, { op := 0x18, d := d.code, g := g, tl := 2, a := a.code, b := b.code, f := 0x0C, x := (disp).setWidth 64 })
  | .ldsHS g d a b disp => some (.tb, { op := 0x18, d := d.code, g := g, tl := 2, a := a.code, b := b.code, f := 0x0D, x := (disp).setWidth 64 })
  | .ldsWS g d a b disp => some (.tb, { op := 0x18, d := d.code, g := g, tl := 2, a := a.code, b := b.code, f := 0x0E, x := (disp).setWidth 64 })
  | .stB g d a b disp => some (.tb, { op := 0x19, d := d.code, g := g, tl := 2, a := a.code, b := b.code, x := (disp).setWidth 64 })
  | .stH g d a b disp => some (.tb, { op := 0x19, d := d.code, g := g, tl := 2, a := a.code, b := b.code, f := 0x01, x := (disp).setWidth 64 })
  | .stW g d a b disp => some (.tb, { op := 0x19, d := d.code, g := g, tl := 2, a := a.code, b := b.code, f := 0x02, x := (disp).setWidth 64 })
  | .stD g d a b disp => some (.tb, { op := 0x19, d := d.code, g := g, tl := 2, a := a.code, b := b.code, f := 0x03, x := (disp).setWidth 64 })
  | .stBS g d a b disp => some (.tb, { op := 0x19, d := d.code, g := g, tl := 2, a := a.code, b := b.code, f := 0x08, x := (disp).setWidth 64 })
  | .stHS g d a b disp => some (.tb, { op := 0x19, d := d.code, g := g, tl := 2, a := a.code, b := b.code, f := 0x09, x := (disp).setWidth 64 })
  | .stWS g d a b disp => some (.tb, { op := 0x19, d := d.code, g := g, tl := 2, a := a.code, b := b.code, f := 0x0A, x := (disp).setWidth 64 })
  | .stDS g d a b disp => some (.tb, { op := 0x19, d := d.code, g := g, tl := 2, a := a.code, b := b.code, f := 0x0B, x := (disp).setWidth 64 })
  | .vld g d a b t m => some (.tb, { op := 0x1A, d := 0#2 ++ d, g := g, tl := 2, a := a.code, b := b.code, x := xVec false m t .rne })
  | .vldS g d a b t m => some (.tb, { op := 0x1A, d := 0#2 ++ d, g := g, tl := 2, a := a.code, b := b.code, f := 0x01, x := xVec false m t .rne })
  | .vgather g d a b t m => some (.tb, { op := 0x1A, d := 0#2 ++ d, g := g, tl := 2, a := a.code, b := 0#2 ++ b, f := 0x02, x := xVec false m t .rne })
  | .vst g d a b t m => some (.tb, { op := 0x1B, d := 0#2 ++ d, g := g, tl := 2, a := a.code, b := b.code, x := xVec false m t .rne })
  | .vscatter g d a b t m => some (.tb, { op := 0x1B, d := 0#2 ++ d, g := g, tl := 2, a := a.code, b := 0#2 ++ b, f := 0x02, x := xVec false m t .rne })
  | .ldsync g d a disp => some (.tb, { op := 0x1C, d := d.code, g := g, tl := 2, a := a.code, x := (disp).setWidth 64 })
  | .ldsyncKeep g d a disp => some (.tb, { op := 0x1C, d := d.code, g := g, tl := 2, a := a.code, f := 0x01, x := (disp).setWidth 64 })
  | .stsync g d a disp => some (.tb, { op := 0x1C, d := d.code, g := g, tl := 2, a := a.code, f := 0x02, x := (disp).setWidth 64 })
  | .stfill g d a disp => some (.tb, { op := 0x1C, d := d.code, g := g, tl := 2, a := a.code, f := 0x03, x := (disp).setWidth 64 })
  | .feset g a disp => some (.tb, { op := 0x1C, d := 0, g := g, tl := 2, a := a.code, f := 0x04, x := (disp).setWidth 64 })
  | .feclr g a disp => some (.tb, { op := 0x1C, d := 0, g := g, tl := 2, a := a.code, f := 0x05, x := (disp).setWidth 64 })
  | .feread g d a disp => some (.tb, { op := 0x1C, d := d.code, g := g, tl := 2, a := a.code, f := 0x06, x := (disp).setWidth 64 })
  | .amoAdd g d a b t o sc => some (.tb, { op := 0x1D, d := d.code, g := g, tl := 2, a := a.code, b := b.code, x := xAmo t o sc })
  | .amoAnd g d a b t o sc => some (.tb, { op := 0x1D, d := d.code, g := g, tl := 2, a := a.code, b := b.code, f := 0x01, x := xAmo t o sc })
  | .amoOr g d a b t o sc => some (.tb, { op := 0x1D, d := d.code, g := g, tl := 2, a := a.code, b := b.code, f := 0x02, x := xAmo t o sc })
  | .amoXor g d a b t o sc => some (.tb, { op := 0x1D, d := d.code, g := g, tl := 2, a := a.code, b := b.code, f := 0x03, x := xAmo t o sc })
  | .amoMin g d a b t o sc => some (.tb, { op := 0x1D, d := d.code, g := g, tl := 2, a := a.code, b := b.code, f := 0x04, x := xAmo t o sc })
  | .amoMax g d a b t o sc => some (.tb, { op := 0x1D, d := d.code, g := g, tl := 2, a := a.code, b := b.code, f := 0x05, x := xAmo t o sc })
  | .amoSwap g d a b t o sc => some (.tb, { op := 0x1D, d := d.code, g := g, tl := 2, a := a.code, b := b.code, f := 0x06, x := xAmo t o sc })
  | .amoCas g d a b c t o sc => some (.tb, { op := 0x1D, d := d.code, g := g, tl := 2, a := a.code, b := b.code, c := c.code, f := 0x07, x := xAmo t o sc })
  | .fence g o sc => some (.tb, { op := 0x1E, d := 0, g := g, tl := 2, x := xFence o sc })
  | .plbload g d a => some (.tb, { op := 0x1E, d := d.code, g := g, tl := 2, a := a.code, f := 0x01 })
  | .plbinval g a b => some (.tb, { op := 0x1E, d := 0, g := g, tl := 2, a := optCode a, b := optCode b, f := 0x02, x := xPlbinval a b })
  | .scflush g a b => some (.tb, { op := 0x1E, d := 0, g := g, tl := 2, a := a.code, b := b.code, f := 0x03 })
  | .scinval g a => some (.tb, { op := 0x1E, d := 0, g := g, tl := 2, a := a.code, f := 0x04 })
  | .prefetch g a => some (.ta, { op := 0x1F, d := 0, g := g, tl := 1, a := a.code })
  | .prefetchW g a => some (.ta, { op := 0x1F, d := 0, g := g, tl := 1, a := a.code, f := 0x01 })
  | .vaddInt g d a b t sat m => some (.tb, { op := 0x20, d := 0#2 ++ d, g := g, tl := 2, a := 0#2 ++ a, b := 0#2 ++ b, x := xVec sat m t .rne })
  | .vsubInt g d a b t sat m => some (.tb, { op := 0x20, d := 0#2 ++ d, g := g, tl := 2, a := 0#2 ++ a, b := 0#2 ++ b, f := 0x01, x := xVec sat m t .rne })
  | .vmulInt g d a b t sat m => some (.tb, { op := 0x20, d := 0#2 ++ d, g := g, tl := 2, a := 0#2 ++ a, b := 0#2 ++ b, f := 0x02, x := xVec sat m t .rne })
  | .vminInt g d a b t m => some (.tb, { op := 0x20, d := 0#2 ++ d, g := g, tl := 2, a := 0#2 ++ a, b := 0#2 ++ b, f := 0x03, x := xVec false m t .rne })
  | .vmaxInt g d a b t m => some (.tb, { op := 0x20, d := 0#2 ++ d, g := g, tl := 2, a := 0#2 ++ a, b := 0#2 ++ b, f := 0x04, x := xVec false m t .rne })
  | .vabsInt g d a t sat m => some (.tb, { op := 0x20, d := 0#2 ++ d, g := g, tl := 2, a := 0#2 ++ a, f := 0x05, x := xVec sat m t .rne })
  | .vnegInt g d a t sat m => some (.tb, { op := 0x20, d := 0#2 ++ d, g := g, tl := 2, a := 0#2 ++ a, f := 0x06, x := xVec sat m t .rne })
  | .vshl g d a b t sat m => some (.tb, { op := 0x20, d := 0#2 ++ d, g := g, tl := 2, a := 0#2 ++ a, b := 0#2 ++ b, f := 0x07, x := xVec sat m t .rne })
  | .vshr g d a b t m => some (.tb, { op := 0x20, d := 0#2 ++ d, g := g, tl := 2, a := 0#2 ++ a, b := 0#2 ++ b, f := 0x08, x := xVec false m t .rne })
  | .vsar g d a b t m => some (.tb, { op := 0x20, d := 0#2 ++ d, g := g, tl := 2, a := 0#2 ++ a, b := 0#2 ++ b, f := 0x09, x := xVec false m t .rne })
  | .vrand g d a b t m => some (.tb, { op := 0x20, d := 0#2 ++ d, g := g, tl := 2, a := a.code, b := b.code, f := 0x0A, x := xVec false m t .rne })
  | .vaddIntScalar g d a b t sat m => some (.tb, { op := 0x20, d := 0#2 ++ d, g := g, tl := 2, a := 0#2 ++ a, b := b.code, f := 0x20, x := xVec sat m t .rne })
  | .vsubIntScalar g d a b t sat m => some (.tb, { op := 0x20, d := 0#2 ++ d, g := g, tl := 2, a := 0#2 ++ a, b := b.code, f := 0x21, x := xVec sat m t .rne })
  | .vmulIntScalar g d a b t sat m => some (.tb, { op := 0x20, d := 0#2 ++ d, g := g, tl := 2, a := 0#2 ++ a, b := b.code, f := 0x22, x := xVec sat m t .rne })
  | .vminIntScalar g d a b t m => some (.tb, { op := 0x20, d := 0#2 ++ d, g := g, tl := 2, a := 0#2 ++ a, b := b.code, f := 0x23, x := xVec false m t .rne })
  | .vmaxIntScalar g d a b t m => some (.tb, { op := 0x20, d := 0#2 ++ d, g := g, tl := 2, a := 0#2 ++ a, b := b.code, f := 0x24, x := xVec false m t .rne })
  | .vshlScalar g d a b t sat m => some (.tb, { op := 0x20, d := 0#2 ++ d, g := g, tl := 2, a := 0#2 ++ a, b := b.code, f := 0x27, x := xVec sat m t .rne })
  | .vshrScalar g d a b t m => some (.tb, { op := 0x20, d := 0#2 ++ d, g := g, tl := 2, a := 0#2 ++ a, b := b.code, f := 0x28, x := xVec false m t .rne })
  | .vsarScalar g d a b t m => some (.tb, { op := 0x20, d := 0#2 ++ d, g := g, tl := 2, a := 0#2 ++ a, b := b.code, f := 0x29, x := xVec false m t .rne })
  | .vaddFp g d a b t rm m => some (.tb, { op := 0x21, d := 0#2 ++ d, g := g, tl := 2, a := 0#2 ++ a, b := 0#2 ++ b, x := xVec false m t rm })
  | .vsubFp g d a b t rm m => some (.tb, { op := 0x21, d := 0#2 ++ d, g := g, tl := 2, a := 0#2 ++ a, b := 0#2 ++ b, f := 0x01, x := xVec false m t rm })
  | .vmulFp g d a b t rm m => some (.tb, { op := 0x21, d := 0#2 ++ d, g := g, tl := 2, a := 0#2 ++ a, b := 0#2 ++ b, f := 0x02, x := xVec false m t rm })
  | .vminFp g d a b t m => some (.tb, { op := 0x21, d := 0#2 ++ d, g := g, tl := 2, a := 0#2 ++ a, b := 0#2 ++ b, f := 0x03, x := xVec false m t .rne })
  | .vmaxFp g d a b t m => some (.tb, { op := 0x21, d := 0#2 ++ d, g := g, tl := 2, a := 0#2 ++ a, b := 0#2 ++ b, f := 0x04, x := xVec false m t .rne })
  | .vabsFp g d a t m => some (.tb, { op := 0x21, d := 0#2 ++ d, g := g, tl := 2, a := 0#2 ++ a, f := 0x05, x := xVec false m t .rne })
  | .vnegFp g d a t m => some (.tb, { op := 0x21, d := 0#2 ++ d, g := g, tl := 2, a := 0#2 ++ a, f := 0x06, x := xVec false m t .rne })
  | .vaddFpScalar g d a b t rm m => some (.tb, { op := 0x21, d := 0#2 ++ d, g := g, tl := 2, a := 0#2 ++ a, b := b.code, f := 0x20, x := xVec false m t rm })
  | .vsubFpScalar g d a b t rm m => some (.tb, { op := 0x21, d := 0#2 ++ d, g := g, tl := 2, a := 0#2 ++ a, b := b.code, f := 0x21, x := xVec false m t rm })
  | .vmulFpScalar g d a b t rm m => some (.tb, { op := 0x21, d := 0#2 ++ d, g := g, tl := 2, a := 0#2 ++ a, b := b.code, f := 0x22, x := xVec false m t rm })
  | .vminFpScalar g d a b t m => some (.tb, { op := 0x21, d := 0#2 ++ d, g := g, tl := 2, a := 0#2 ++ a, b := b.code, f := 0x23, x := xVec false m t .rne })
  | .vmaxFpScalar g d a b t m => some (.tb, { op := 0x21, d := 0#2 ++ d, g := g, tl := 2, a := 0#2 ++ a, b := b.code, f := 0x24, x := xVec false m t .rne })
  | .vfma g d a b c t rm m => some (.tb, { op := 0x22, d := 0#2 ++ d, g := g, tl := 2, a := 0#2 ++ a, b := 0#2 ++ b, c := 0#2 ++ c, x := xVec false m t rm })
  | .vfmaNa g d a b c t rm m => some (.tb, { op := 0x22, d := 0#2 ++ d, g := g, tl := 2, a := 0#2 ++ a, b := 0#2 ++ b, c := 0#2 ++ c, f := 0x01, x := xVec false m t rm })
  | .vfmaNc g d a b c t rm m => some (.tb, { op := 0x22, d := 0#2 ++ d, g := g, tl := 2, a := 0#2 ++ a, b := 0#2 ++ b, c := 0#2 ++ c, f := 0x02, x := xVec false m t rm })
  | .vfmaNaNc g d a b c t rm m => some (.tb, { op := 0x22, d := 0#2 ++ d, g := g, tl := 2, a := 0#2 ++ a, b := 0#2 ++ b, c := 0#2 ++ c, f := 0x03, x := xVec false m t rm })
  | .vcmpEq g d a b t m => some (.tb, { op := 0x23, d := 0#3 ++ d, g := g, tl := 2, a := 0#2 ++ a, b := 0#2 ++ b, x := xVec false m t .rne })
  | .vcmpNe g d a b t m => some (.tb, { op := 0x23, d := 0#3 ++ d, g := g, tl := 2, a := 0#2 ++ a, b := 0#2 ++ b, f := 0x01, x := xVec false m t .rne })
  | .vcmpLt g d a b t m => some (.tb, { op := 0x23, d := 0#3 ++ d, g := g, tl := 2, a := 0#2 ++ a, b := 0#2 ++ b, f := 0x02, x := xVec false m t .rne })
  | .vcmpLe g d a b t m => some (.tb, { op := 0x23, d := 0#3 ++ d, g := g, tl := 2, a := 0#2 ++ a, b := 0#2 ++ b, f := 0x03, x := xVec false m t .rne })
  | .vcmpGt g d a b t m => some (.tb, { op := 0x23, d := 0#3 ++ d, g := g, tl := 2, a := 0#2 ++ a, b := 0#2 ++ b, f := 0x04, x := xVec false m t .rne })
  | .vcmpGe g d a b t m => some (.tb, { op := 0x23, d := 0#3 ++ d, g := g, tl := 2, a := 0#2 ++ a, b := 0#2 ++ b, f := 0x05, x := xVec false m t .rne })
  | .vcmpUn g d a b t m => some (.tb, { op := 0x23, d := 0#3 ++ d, g := g, tl := 2, a := 0#2 ++ a, b := 0#2 ++ b, f := 0x06, x := xVec false m t .rne })
  | .vcmpEqScalar g d a b t m => some (.tb, { op := 0x23, d := 0#3 ++ d, g := g, tl := 2, a := 0#2 ++ a, b := b.code, f := 0x20, x := xVec false m t .rne })
  | .vcmpNeScalar g d a b t m => some (.tb, { op := 0x23, d := 0#3 ++ d, g := g, tl := 2, a := 0#2 ++ a, b := b.code, f := 0x21, x := xVec false m t .rne })
  | .vcmpLtScalar g d a b t m => some (.tb, { op := 0x23, d := 0#3 ++ d, g := g, tl := 2, a := 0#2 ++ a, b := b.code, f := 0x22, x := xVec false m t .rne })
  | .vcmpLeScalar g d a b t m => some (.tb, { op := 0x23, d := 0#3 ++ d, g := g, tl := 2, a := 0#2 ++ a, b := b.code, f := 0x23, x := xVec false m t .rne })
  | .vcmpGtScalar g d a b t m => some (.tb, { op := 0x23, d := 0#3 ++ d, g := g, tl := 2, a := 0#2 ++ a, b := b.code, f := 0x24, x := xVec false m t .rne })
  | .vcmpGeScalar g d a b t m => some (.tb, { op := 0x23, d := 0#3 ++ d, g := g, tl := 2, a := 0#2 ++ a, b := b.code, f := 0x25, x := xVec false m t .rne })
  | .vcmpUnScalar g d a b t m => some (.tb, { op := 0x23, d := 0#3 ++ d, g := g, tl := 2, a := 0#2 ++ a, b := b.code, f := 0x26, x := xVec false m t .rne })
  | .vsel g d a b t m => some (.tb, { op := 0x23, d := 0#2 ++ d, g := g, tl := 2, a := 0#2 ++ a, b := 0#2 ++ b, f := 0x08, x := xVec false (some m) t .rne })
  | .vcompress g d a c t m => some (.tb, { op := 0x24, d := 0#2 ++ d, g := g, tl := 2, a := 0#2 ++ a, c := c.code, x := xVec false m t .rne })
  | .vexpand g d a t m => some (.tb, { op := 0x24, d := 0#2 ++ d, g := g, tl := 2, a := 0#2 ++ a, f := 0x01, x := xVec false m t .rne })
  | .vperm g d a b t m => some (.tb, { op := 0x24, d := 0#2 ++ d, g := g, tl := 2, a := 0#2 ++ a, b := 0#2 ++ b, f := 0x02, x := xVec false m t .rne })
  | .vbcast g d a t m => some (.tb, { op := 0x24, d := 0#2 ++ d, g := g, tl := 2, a := a.code, f := 0x03, x := xVec false m t .rne })
  | .vredAdd g d a t sat rm m => some (.tb, { op := 0x25, d := d.code, g := g, tl := 2, a := 0#2 ++ a, x := xVec sat m t rm })
  | .vredMax g d a t m => some (.tb, { op := 0x25, d := d.code, g := g, tl := 2, a := 0#2 ++ a, f := 0x01, x := xVec false m t .rne })
  | .vredMin g d a t m => some (.tb, { op := 0x25, d := d.code, g := g, tl := 2, a := 0#2 ++ a, f := 0x02, x := xVec false m t .rne })
  | .vredmaxIdx g d a c t m => some (.tb, { op := 0x25, d := d.code, g := g, tl := 2, a := 0#2 ++ a, c := c.code, f := 0x03, x := xVec false m t .rne })
  | .vredminIdx g d a c t m => some (.tb, { op := 0x25, d := d.code, g := g, tl := 2, a := 0#2 ++ a, c := c.code, f := 0x04, x := xVec false m t .rne })
  | .vscanAdd g d a t sat rm m => some (.tb, { op := 0x25, d := 0#2 ++ d, g := g, tl := 2, a := 0#2 ++ a, f := 0x05, x := xVec sat m t rm })
  | .vcvt g d a b t t2 rm => some (.tb, { op := 0x26, d := 0#2 ++ d, g := g, tl := 2, a := 0#2 ++ a, b := 0#2 ++ b, x := xFp t rm t2 })
  | .vlog2 g d a rm m => some (.tb, { op := 0x27, d := 0#2 ++ d, g := g, tl := 2, a := 0#2 ++ a, x := xVec false m .f32 rm })
  | .vexp2 g d a rm m => some (.tb, { op := 0x27, d := 0#2 ++ d, g := g, tl := 2, a := 0#2 ++ a, f := 0x01, x := xVec false m .f32 rm })
  | .vrcp g d a rm m => some (.tb, { op := 0x27, d := 0#2 ++ d, g := g, tl := 2, a := 0#2 ++ a, f := 0x02, x := xVec false m .f32 rm })
  | .vrsqrt g d a rm m => some (.tb, { op := 0x27, d := 0#2 ++ d, g := g, tl := 2, a := 0#2 ++ a, f := 0x03, x := xVec false m .f32 rm })
  | .vsqrt g d a rm m => some (.tb, { op := 0x27, d := 0#2 ++ d, g := g, tl := 2, a := 0#2 ++ a, f := 0x04, x := xVec false m .f32 rm })
  | .vsin g d a rm m => some (.tb, { op := 0x27, d := 0#2 ++ d, g := g, tl := 2, a := 0#2 ++ a, f := 0x05, x := xVec false m .f32 rm })
  | .vcos g d a rm m => some (.tb, { op := 0x27, d := 0#2 ++ d, g := g, tl := 2, a := 0#2 ++ a, f := 0x06, x := xVec false m .f32 rm })
  | .vdiv g d a b t rm m => some (.tb, { op := 0x28, d := 0#2 ++ d, g := g, tl := 2, a := 0#2 ++ a, b := 0#2 ++ b, x := xVec false m t rm })
  | .vrem g d a b t m => some (.tb, { op := 0x28, d := 0#2 ++ d, g := g, tl := 2, a := 0#2 ++ a, b := 0#2 ++ b, f := 0x01, x := xVec false m t .rne })
  | .vdivScalar g d a b t rm m => some (.tb, { op := 0x28, d := 0#2 ++ d, g := g, tl := 2, a := 0#2 ++ a, b := b.code, f := 0x20, x := xVec false m t rm })
  | .vremScalar g d a b t m => some (.tb, { op := 0x28, d := 0#2 ++ d, g := g, tl := 2, a := 0#2 ++ a, b := b.code, f := 0x21, x := xVec false m t .rne })
  | .sbind g d a b c => some (.tb, { op := 0x29, d := 0#2 ++ 1#1 ++ d, g := g, tl := 2, a := a.code, b := b.code, c := c.code })
  | .sunbind g d => some (.tb, { op := 0x29, d := 0#2 ++ 1#1 ++ d, g := g, tl := 2, f := 0x01 })
  | .stest g d a => some (.tb, { op := 0x29, d := d.code, g := g, tl := 2, a := 0#2 ++ 1#1 ++ a, f := 0x02 })
  | .vmovg g d a b t => some (.tb, { op := 0x2A, d := d.code, g := g, tl := 2, a := 0#2 ++ a, b := b.code, x := xVec false none t .rne })
  | .gmovv g d a b t => some (.tb, { op := 0x2A, d := 0#2 ++ d, g := g, tl := 2, a := a.code, b := b.code, f := 0x01, x := xVec false none t .rne })
  | .vand g d a b t m => some (.tb, { op := 0x2B, d := 0#2 ++ d, g := g, tl := 2, a := 0#2 ++ a, b := 0#2 ++ b, x := xVec false m t .rne })
  | .vor g d a b t m => some (.tb, { op := 0x2B, d := 0#2 ++ d, g := g, tl := 2, a := 0#2 ++ a, b := 0#2 ++ b, f := 0x01, x := xVec false m t .rne })
  | .vxor g d a b t m => some (.tb, { op := 0x2B, d := 0#2 ++ d, g := g, tl := 2, a := 0#2 ++ a, b := 0#2 ++ b, f := 0x02, x := xVec false m t .rne })
  | .vnot g d a t m => some (.tb, { op := 0x2B, d := 0#2 ++ d, g := g, tl := 2, a := 0#2 ++ a, f := 0x03, x := xVec false m t .rne })
  | .vandScalar g d a b t m => some (.tb, { op := 0x2B, d := 0#2 ++ d, g := g, tl := 2, a := 0#2 ++ a, b := b.code, f := 0x20, x := xVec false m t .rne })
  | .vorScalar g d a b t m => some (.tb, { op := 0x2B, d := 0#2 ++ d, g := g, tl := 2, a := 0#2 ++ a, b := b.code, f := 0x21, x := xVec false m t .rne })
  | .vxorScalar g d a b t m => some (.tb, { op := 0x2B, d := 0#2 ++ d, g := g, tl := 2, a := 0#2 ++ a, b := b.code, f := 0x22, x := xVec false m t .rne })
  | .fork g d a b lendBit pv dom prio => some (.tb, { op := 0x30, d := d.code, g := g, tl := 2, a := a.code, b := b.code, x := (bit1 lendBit ++ bit1 pv ++ dom ++ prio).setWidth 64 })
  | .join g a => some (.tb, { op := 0x30, d := 0, g := g, tl := 2, a := a.code, f := 0x01 })
  | .spawn g d a b => some (.tb, { op := 0x30, d := d.code, g := g, tl := 2, a := a.code, b := b.code, f := 0x02 })
  | .halt g => some (.tb, { op := 0x30, d := 0, g := g, tl := 2, f := 0x03 })
  | .yield g d => some (.tb, { op := 0x30, d := d.code, g := g, tl := 2, f := 0x04 })
  | .lend g on => some (.tb, { op := 0x30, d := 0, g := g, tl := 2, f := 0x05, x := (bit1 on).setWidth 64 })
  | .pin g d on => some (.tb, { op := 0x30, d := d.code, g := g, tl := 2, f := 0x06, x := (bit1 on).setWidth 64 })
  | .callat g d a b => some (.tb, { op := 0x31, d := d.code, g := g, tl := 2, a := a.code, b := b.code })
  | .retm g a => some (.tb, { op := 0x31, d := 0, g := g, tl := 2, a := a.code, f := 0x01 })
  | .msend g a b k => some (.tb, { op := 0x32, d := 0, g := g, tl := 2, a := a.code, b := b.code, x := (k).setWidth 64 })
  | .mrecv g d c => some (.tb, { op := 0x32, d := d.code, g := g, tl := 2, c := c.code, f := 0x01 })
  | .mwait g d => some (.tb, { op := 0x32, d := d.code, g := g, tl := 2, f := 0x02 })
  | .mtry g d c pd => some (.tb, { op := 0x32, d := d.code, g := g, tl := 2, c := c.code, f := 0x03, x := (pd).setWidth 64 })
  | .ksig g a k => some (.tb, { op := 0x33, d := 0, g := g, tl := 2, a := a.code, x := (k).setWidth 64 })
  | .ksub g a k => some (.tb, { op := 0x33, d := 0, g := g, tl := 2, a := a.code, f := 0x01, x := (k).setWidth 64 })
  | .kwait g a k => some (.tb, { op := 0x33, d := 0, g := g, tl := 2, a := a.code, f := 0x02, x := (k).setWidth 64 })
  | .kset g a k => some (.tb, { op := 0x33, d := 0, g := g, tl := 2, a := a.code, f := 0x03, x := (k).setWidth 64 })
  | .kread g d k => some (.tb, { op := 0x33, d := d.code, g := g, tl := 2, f := 0x04, x := (k).setWidth 64 })
  | .ttarm g d a b k => some (.tb, { op := 0x34, d := d.code, g := g, tl := 2, a := a.code, b := b.code, x := (k).setWidth 64 })
  | .ttcancel g d a => some (.tb, { op := 0x34, d := d.code, g := g, tl := 2, a := a.code, f := 0x01 })
  | .qbind g d mode => some (.tb, { op := 0x35, d := 0b110#3 ++ d, g := g, tl := 2, x := (mode.toX).setWidth 64 })
  | .qstat g d q => some (.tb, { op := 0x35, d := d.code, g := g, tl := 2, f := 0x01, x := (q).setWidth 64 })
  | .roam g a => some (.tb, { op := 0x36, d := 0, g := g, tl := 2, a := a.code })
  | .mma g d a b c asy ad nb na tile td => some (.td, { op := 0x38, d := d.code, g := g, tl := 3, a := a.code, b := b.code, c := c.code, y := (bit1 asy ++ bit1 ad ++ bit1 nb ++ bit1 na ++ tile).setWidth 15, td := td })
  | .accld g d a c asy tile td => some (.td, { op := 0x39, d := d.code, g := g, tl := 3, a := a.code, c := c.code, y := (bit1 asy ++ 0#3 ++ tile).setWidth 15, td := td })
  | .accst g d a b c asy int rm tile td => some (.td, { op := 0x39, d := d.code, g := g, tl := 3, a := a.code, b := b.code, c := c.code, f := 0x01, y := (bit1 asy ++ bit1 int ++ rm ++ tile).setWidth 15, td := td })
  | .acczero g d c asy tile td => some (.td, { op := 0x39, d := d.code, g := g, tl := 3, c := c.code, f := 0x02, y := (bit1 asy ++ 0#3 ++ tile).setWidth 15, td := td })
  | .mpack g d a b asy td => some (.td, { op := 0x3A, d := d.code, g := g, tl := 3, a := a.code, b := b.code, y := (bit1 asy ++ 0#7).setWidth 15, td := td })
  | .munpack g d a b asy td => some (.td, { op := 0x3A, d := d.code, g := g, tl := 3, a := a.code, b := b.code, f := 0x01, y := (bit1 asy ++ 0#7).setWidth 15, td := td })
  | .mwaitj g d a => some (.ta, { op := 0x3B, d := d.code, g := g, tl := 1, a := a.code })
  | .mpoll g d a => some (.ta, { op := 0x3B, d := d.code, g := g, tl := 1, a := a.code, f := 0x01 })
  | .mwake g => some (.ta, { op := 0x3B, d := 0, g := g, tl := 1, f := 0x02 })
  | .cpy g d a b c quiet dim td => some (.td, { op := 0x3C, d := d.code, g := g, tl := 3, a := a.code, b := b.code, c := c.code, y := (bit1 quiet ++ 0#4 ++ dim.code).setWidth 15, td := td })
  | .cpyMc g d a b c msk quiet dim td => some (.td, { op := 0x3C, d := d.code, g := g, tl := 3, a := a.code, b := b.code, c := c.code, f := 0x01, y := msk ++ bit1 quiet ++ 0#4 ++ dim.code, td := td })
  | .cpyLb g d a b c quiet inv ch td => some (.td, { op := 0x3C, d := d.code, g := g, tl := 3, a := a.code, b := b.code, c := c.code, f := 0x02, y := (bit1 quiet ++ bit1 inv ++ ch ++ 0#1 ++ 1#2).setWidth 15, td := td })
  | .cpyRing g d a b c quiet dim td => some (.td, { op := 0x3C, d := d.code, g := g, tl := 3, a := a.code, b := b.code, c := c.code, f := 0x03, y := (bit1 quiet ++ 0#4 ++ dim.code).setWidth 15, td := td })
  | .ksproj g a ent td => some (.td, { op := 0x3D, d := 0, g := g, tl := 3, a := a.code, y := (ent).setWidth 15, td := td })
  | .kstore g a b c ent td => some (.td, { op := 0x3D, d := 0, g := g, tl := 3, a := a.code, b := b.code, c := c.code, f := 0x01, y := (ent).setWidth 15, td := td })
  | .kgather g d a b c qv rad ent td => some (.td, { op := 0x3D, d := d.code, g := g, tl := 3, a := a.code, b := b.code, c := c.code, f := 0x02, y := (bit1 qv ++ rad ++ 0#1 ++ ent).setWidth 15, td := td })
  | .kfence g td => some (.td, { op := 0x3D, d := 0, g := g, tl := 3, f := 0x03, td := td })
  | .kstat g d td => some (.td, { op := 0x3D, d := d.code, g := g, tl := 3, f := 0x04, td := td })
  | .kbuild g a ent td => some (.td, { op := 0x3D, d := 0, g := g, tl := 3, a := a.code, f := 0x05, y := (ent).setWidth 15, td := td })
  | .rinv g d a td => some (.td, { op := 0x3E, d := d.code, g := g, tl := 3, a := a.code, td := td })
  | .rinvT g d a td => some (.td, { op := 0x3E, d := d.code, g := g, tl := 3, a := a.code, f := 0x01, td := td })
  | .rinvCard g d a b td => some (.td, { op := 0x3E, d := d.code, g := g, tl := 3, a := a.code, b := b.code, f := 0x02, td := td })
  | .lzcfg g d a lz td => some (.td, { op := 0x3E, d := d.code, g := g, tl := 3, a := a.code, f := 0x03, y := (lz).setWidth 15, td := td })
  | .lzres g d a td => some (.td, { op := 0x3E, d := d.code, g := g, tl := 3, a := a.code, f := 0x04, td := td })
  | .lzrel g d a td => some (.td, { op := 0x3E, d := d.code, g := g, tl := 3, a := a.code, f := 0x05, td := td })
  | .lzcpy g d a b c quiet off td => some (.td, { op := 0x3E, d := d.code, g := g, tl := 3, a := a.code, b := b.code, c := c.code, f := 0x06, y := (bit1 quiet ++ off).setWidth 15, td := td })
  | .sigupd g a b op td => some (.td, { op := 0x3E, d := 0, g := g, tl := 3, a := a.code, b := b.code, f := 0x07, y := (op.code).setWidth 15, td := td })
  | .sigwait g a b cmp td => some (.td, { op := 0x3E, d := 0, g := g, tl := 3, a := a.code, b := b.code, f := 0x08, y := (cmp.code).setWidth 15, td := td })
  | .migpt g => some (.tb, { op := 0x3F, d := 0, g := g, tl := 2 })
  | .trig g d a ent => some (.tb, { op := 0x3F, d := d.code, g := g, tl := 2, a := a.code, f := 0x01, x := (ent).setWidth 64 })
  | .wakeGo g d a => some (.tb, { op := 0x3F, d := d.code, g := g, tl := 2, a := a.code, f := 0x02 })
  | .wakeHold g d a => some (.tb, { op := 0x3F, d := d.code, g := g, tl := 2, a := a.code, f := 0x02, x := 1 })
  | .wakeDrop g d a => some (.tb, { op := 0x3F, d := d.code, g := g, tl := 2, a := a.code, f := 0x02, x := 2 })
  | .pair g d a b => some (.tb, { op := 0x3F, d := d.code, g := g, tl := 2, a := a.code, b := b.code, f := 0x03 })
  | .heelack g a => some (.tb, { op := 0x3F, d := 0, g := g, tl := 2, a := a.code, f := 0x04 })
  | .eresume g d a => some (.tb, { op := 0x3F, d := d.code, g := g, tl := 2, a := a.code, f := 0x05 })
  | .ekill g d a => some (.tb, { op := 0x3F, d := d.code, g := g, tl := 2, a := a.code, f := 0x06 })
  | .lineFetchComplete _ _ _ => none
  | .syncAttempt _ _ => none
  | .syncAttemptResult _ _ => none
  | .atomicUnitStep _ => none
  | .releaseComplete _ _ => none
  | .sfuRequestStart _ => none
  | .sfuRequestComplete _ => none
  | .dividerComplete _ _ => none
  | .streamReadAhead _ _ _ _ => none
  | .joinReevaluate _ _ => none
  | .msendArrival _ => none
  | .messageDelivery _ => none
  | .semaphoreCycleUpdate _ => none
  | .parkedInstructionRetry _ _ => none
  | .waitLimitExpiry _ _ => none
  | .linkWordArrival _ _ => none
  | .meJobStart _ => none
  | .meJobComplete _ => none
  | .meIdleGate _ => none
  | .meWakeComplete _ => none
  | .retrieverCycle _ => none
  | .copyStart _ _ => none
  | .copyGranuleCount _ _ _ _ _ => none
  | .copyComplete _ _ _ => none
  | .copyEndFault _ _ _ => none
  | .kseCommandStart _ => none
  | .kseCommandComplete _ => none
  | .rinvAnswer _ _ _ => none
  | .invocationArrival _ => none
  | .lzresArrival _ _ => none
  | .lzrelArrival _ _ => none
  | .lzSegmentArrival _ => none
  | .lzTornTimeout _ _ => none
  | .sigupdArrival _ => none
  | .sigwaitReevaluate _ _ => none
  | .pairCompare _ _ => none
  | .trapRecordDeferred _ => none
  | .handlerWatchdogExpiry _ _ => none
  | .storeBufferDrain _ _ => none
  | .homeAgentRequest _ => none
  | .homeResponse _ _ => none
  | .storeAck _ => none
  | .lateRefusal _ _ => none
  | .plbFillComplete _ _ => none
  | .hostAtomicopCompletion _ _ => none
  | .slotAllocatorLaunch _ => none
  | .stealSweep _ => none
  | .stealBackoffExpiry _ => none
  | .threadRestore _ => none
  | .pmcPowerLimit _ => none
  | .evictSave _ _ => none
  | .parkEvictExpiry _ => none
  | .preempt _ => none
  | .doorbell _ _ => none
  | .queueEnable _ => none
  | .qsPick _ => none
  | .qsWaitEvaluate _ _ => none
  | .qsFaultParkExpiry _ => none
  | .qsSignalAck _ _ => none
  | .migrationDrain _ => none
  | .migrationCopy _ _ => none
  | .migrationResume _ => none
  | .migrationTimeout _ => none
  | .migrationReportWrite _ => none
  | .contextSave _ _ => none
  | .contextRestore _ _ => none
  | .coreMigration _ _ => none
  | .forwardQuietExpiry _ _ => none
  | .burstIdleEntry => none
  | .burstRetainEntry => none
  | .burstOffEntry => none
  | .watchDozeEntry => none
  | .dramSelfRefreshEntry => none
  | .islandWake _ _ => none
  | .islandWakeComplete _ => none
  | .dramExitComplete => none
  | .clockChange _ _ => none
  | .energyUpdate => none
  | .triggerEvaluate _ _ => none
  | .triggerCooldownExpiry _ => none
  | .triggerEntryWrite _ _ _ => none
  | .scHeel => none
  | .heelFreezeComplete => none
  | .scReleaseResume => none
  | .scReleaseKill => none
  | .scAckwin _ => none
  | .heelAckWindowExpiry => none
  | .errorDetected _ => none
  | .patrolScrub => none
  | .thermalThrottle => none
  | .thermalTrip => none
  | .timeTick => none
  | .flitReceive _ _ => none
  | .linkControlReceive _ _ => none
  | .linkAckTimeout _ => none
  | .linkTrainingComplete _ _ => none
  | .linkTrainingLost _ => none
  | .wake _ => none
  | .fqrd _ => none
  | .mqrd _ => none
  | .mreply _ _ _ => none
  | .msixModerationExpiry _ => none
  | .plbInvalidate _ => none
  | .translationInvalidate _ => none
  | .routeCacheDrop _ => none
  | .tableWrite _ => none
  | .mgmtCommandComplete => none
  | .fqlog _ => none
  | .mqlog _ => none
  | .memoryWindowRead _ _ _ => none
  | .memoryWindowWrite _ _ _ => none
  | .energyAccountLowRead _ => none
  | .flashRead => none
  | .flashProg => none
  | .flashErase => none
  | .flashOpComplete => none
  | .attestGo => none
  | .attestReportDone => none
  | .bootctl _ => none
  | .debugAttachSelect _ => none
  | .debugStepMode _ => none
  | .debugResume _ => none
  | .debugKill _ => none
  | .registerWrite _ _ _ _ => none
  | .powerOnReset _ => none
  | .plinthBringup _ => none
  | .plinthWatchdogExpiry => none
  | .markerFlip _ _ => none
  | .contextCreate _ => none
  | .contextEnd _ => none
  | .powerLoss => none
  | .inFieldTest _ _ => none

/-- The head and the tail of an instruction (R41, R43); an event has none. -/
def encode (i : Instr) : Option (BitVec 16 × Word) := i.raw.map fun p => p.2.words p.1

end Sys2Proof
end

