-- ==== Sys2Proof/Config.lean ====
section
/-! DEFINITION. What the spec leaves free: constants without a body, so that no proof can see a value of theirs. Those of
a number are applied to a counter of State that each use advances. -/

namespace Sys2Proof.Config

/-- A free word: the CHECK of a token (R449), the energy added to an account (R403), the value of an access that can
return old or new bytes. Log entry 5. -/
opaque freeWord : Nat → Word

/-- SHA-384 of a list of bytes, which the spec names and does not define (R469, R477). Log entry 5. -/
opaque sha384 : List Byte → BitVec 384

/-- The fuses (R474): the hash of the root key, by which the armature table and the images are verified (R469), and the unique
secret, which no register and no bus shows. Log entry 5. -/
opaque rootKeyHash : BitVec 384
opaque uniqueSecret : BitVec 256

/-- The device key, which HKDF-SHA-384 derives from the unique secret (R474), and the UID, derived from it too (R477). Log
entry 5. -/
opaque deviceKey : BitVec 256 → BitVec 384
opaque uidOf : BitVec 256 → Word

/-- The signature of a digest by a key (R474, R477). Log entry 5. -/
opaque signature : (key digest : BitVec 384) → BitVec 768

/-- The silicon revision (R479). Log entry 5. -/
opaque revision : BitVec 16

/-- The chip that the head flit of a packet names as its destination: the spec gives no layout of a packet's payload (R432, R434).
Log entry 31. -/
opaque packetChip : BitVec 208 → Nat

/-- What a telemetry register reads at a time (R485): measured temperature and power. Log entry 5. -/
opaque telemetry : (off : Nat) → (time : Word) → Word

end Sys2Proof.Config
end

