-- ==== Sys2Proof/Machine/Float.lean ====
section
/-! DEFINITION. Binary floating point (03 R75-R94): formats, values, the one rounding of R78, the arithmetic
operations, comparisons and conversions. Encodings are natural numbers below 2^w; the exact value of an operation is
a sign, a natural m and an exponent e, with a mark `sticky` for a magnitude strictly between m·2^e and (m+1)·2^e. -/

namespace Sys2Proof.Machine

/-- The flags one operation sets (R22): they are added to fpctl when the instruction completes. -/
structure Flags where
  nv : Bool := false
  dz : Bool := false
  ovf : Bool := false
  uf : Bool := false
  nx : Bool := false
  sat : Bool := false
deriving DecidableEq, Repr

/-- No flag. -/
def Flags.none : Flags := {}

/-- The flags of two operations together. -/
def Flags.or (a b : Flags) : Flags :=
  ⟨a.nv || b.nv, a.dz || b.dz, a.ovf || b.ovf, a.uf || b.uf, a.nx || b.nx, a.sat || b.sat⟩

/-- The four rounding modes (R22). -/
inductive RMode where
  | rne | rtz | rup | rdn
deriving DecidableEq, Repr

/-- The mode of fpctl.RM (R22). -/
def RMode.ofBits (b : BitVec 2) : RMode :=
  match b.toNat with
  | 0 => .rne | 1 => .rtz | 2 => .rup | _ => .rdn

/-- The infinities and NaNs of a format (R76, R88). -/
inductive Specials where
  /-- An all-ones exponent is an infinity or a NaN. -/
  | ieee
  /-- Only the all-ones encoding is a NaN, and there is no infinity (E4M3). -/
  | nanOnly
  /-- Neither infinity nor NaN (E3M2, E2M3, E2M1). -/
  | none
deriving DecidableEq, Repr

/-- A binary format (R76, R88). -/
structure Fmt where
  ebits : Nat
  fbits : Nat
  bias : Nat
  specials : Specials
  /-- The OCP formats have no signalling NaN (R88). -/
  quietOnly : Bool := false
deriving DecidableEq, Repr

namespace Fmt
def f16 : Fmt := ⟨5, 10, 15, .ieee, false⟩
def bf16 : Fmt := ⟨8, 7, 127, .ieee, false⟩
def f32 : Fmt := ⟨8, 23, 127, .ieee, false⟩
def f64 : Fmt := ⟨11, 52, 1023, .ieee, false⟩
def e4m3 : Fmt := ⟨4, 3, 7, .nanOnly, true⟩
def e5m2 : Fmt := ⟨5, 2, 15, .ieee, true⟩
def e3m2 : Fmt := ⟨3, 2, 3, .none, true⟩
def e2m3 : Fmt := ⟨2, 3, 1, .none, true⟩
def e2m1 : Fmt := ⟨2, 1, 1, .none, true⟩

/-- The width of an encoding. -/
def width (f : Fmt) : Nat := 1 + f.ebits + f.fbits
/-- The precision p(f) of R78. -/
def prec (f : Fmt) : Nat := f.fbits + 1
/-- The exponent of the minimum normal value, emin(f) of R78. -/
def emin (f : Fmt) : Int := 1 - (f.bias : Int)
/-- The sign bit's weight. -/
def signBit (f : Fmt) : Nat := 2 ^ (f.ebits + f.fbits)
/-- The magnitude encoding of the maximum finite value (R76, R88). -/
def maxFinite (f : Fmt) : Nat :=
  match f.specials with
  | .ieee => (2 ^ f.ebits - 1) * 2 ^ f.fbits - 1
  | .nanOnly => f.signBit - 2
  | .none => f.signBit - 1
/-- The magnitude encoding of infinity, in a format that has one. -/
def infinity (f : Fmt) : Nat := (2 ^ f.ebits - 1) * 2 ^ f.fbits
/-- The format has an infinity (R88). -/
def hasInf (f : Fmt) : Bool := f.specials == .ieee
/-- The NaN an operation writes (R76, R88): canonical, sign 0; 0 where the format has none (R90). -/
def nan (f : Fmt) : Nat :=
  match f.specials with
  | .ieee => f.infinity + 2 ^ (f.fbits - 1)
  | .nanOnly => f.signBit - 1
  | .none => 0
/-- The format is narrow (R88). -/
def narrow (f : Fmt) : Bool := f.width ≤ 16
end Fmt

/-- The format of a floating-point type (R76); an integer type has none. -/
def fmtOf : Ty → Option Fmt
  | .f16 => some .f16
  | .bf16 => some .bf16
  | .f32 => some .f32
  | .f64 => some .f64
  | _ => none

/-- A value of a format: m·2^e for a number. -/
inductive FVal where
  | nan (signalling : Bool)
  | inf (neg : Bool)
  | num (neg : Bool) (m : Nat) (e : Int)
deriving DecidableEq, Repr

namespace FVal
/-- The value of an encoding (R76, R88). -/
def ofBits (f : Fmt) (b : Nat) : FVal :=
  let neg := f.signBit ≤ b % (2 * f.signBit)
  let mag := b % f.signBit
  let ex := mag / 2 ^ f.fbits
  let fr := mag % 2 ^ f.fbits
  if f.specials == .ieee && ex == 2 ^ f.ebits - 1 then
    if fr == 0 then .inf neg else .nan (!f.quietOnly && fr < 2 ^ (f.fbits - 1))
  else if f.specials == .nanOnly && mag == f.signBit - 1 then .nan false
  else if ex == 0 then .num neg fr (f.emin - f.fbits)
  else .num neg (fr + 2 ^ f.fbits) ((ex : Int) - f.bias - f.fbits)

/-- The value is a NaN. -/
def isNan : FVal → Bool
  | .nan _ => true
  | _ => false
/-- The value is a signalling NaN. -/
def isSnan : FVal → Bool
  | .nan s => s
  | _ => false
/-- The value is a zero. -/
def isZero : FVal → Bool
  | .num _ m _ => m == 0
  | _ => false
/-- The sign of a number or an infinity. -/
def sign : FVal → Bool
  | .nan _ => false
  | .inf n => n
  | .num n _ _ => n
/-- The value with its sign changed; a NaN stays. -/
def negate : FVal → FVal
  | .nan s => .nan s
  | .inf n => .inf (!n)
  | .num n m e => .num (!n) m e
end FVal

/-- A signed encoding. -/
def Fmt.signed (f : Fmt) (neg : Bool) (mag : Nat) : Nat := if neg then f.signBit + mag else mag

/-- Whether a magnitude lo + r/2^k (plus a sticky part) rounds away from zero (R78). -/
def roundsUp (mode : RMode) (neg : Bool) (lo r k : Nat) (sticky : Bool) : Bool :=
  let half := if k = 0 then 1 else 2 ^ (k - 1)
  let inexact := r != 0 || sticky
  match mode with
  | .rne => if k = 0 then false
            else half < r || (r == half && (sticky || lo % 2 == 1))
  | .rtz => false
  | .rup => inexact && !neg
  | .rdn => inexact && neg

/-- m·2^e (with `sticky`) on the grid of spacing 2^q: the rounded multiple and whether it is inexact. -/
def roundGrid (mode : RMode) (neg : Bool) (m : Nat) (e : Int) (sticky : Bool) (q : Int) : Nat × Bool :=
  if q ≤ e then (m * 2 ^ (e - q).toNat + (if roundsUp mode neg 0 0 0 sticky then 1 else 0), sticky)
  else
    let k := (q - e).toNat
    let lo := m / 2 ^ k
    let r := m % 2 ^ k
    (lo + (if roundsUp mode neg lo r k sticky then 1 else 0), r != 0 || sticky)

/-- The magnitude an overflow returns (R79), or the maximum finite value where R90 governs. -/
def overflowMag (f : Fmt) (mode : RMode) (neg r90 : Bool) : Nat :=
  if r90 || !f.hasInf then f.maxFinite
  else match mode, neg with
    | .rne, _ => f.infinity
    | .rtz, _ => f.maxFinite
    | .rup, false => f.infinity
    | .rup, true => f.maxFinite
    | .rdn, false => f.maxFinite
    | .rdn, true => f.infinity

/-- The one rounding of R78-R80: the encoding and the flags of the value ±m·2^e, m > 0, in a format.
`r90` selects the overflow rule of narrowing conversions (R90). -/
def roundTo (f : Fmt) (mode : RMode) (r90 : Bool) (neg : Bool) (m : Nat) (e : Int) (sticky : Bool) : Nat × Flags :=
  let ex := (Nat.log2 m : Int) + e
  let ee := max ex f.emin
  let q := ee - f.prec + 1
  let (y0, inexact) := roundGrid mode neg m e sticky q
  let (y, eey) := if y0 == 2 ^ f.prec then (2 ^ f.fbits, ee + 1) else (y0, ee)
  let mag := if y < 2 ^ f.fbits then y
             else (eey + f.bias).toNat * 2 ^ f.fbits + (y - 2 ^ f.fbits)
  let tiny := decide (ex < f.emin) &&
    !(ex == f.emin - 1 && (roundGrid mode neg m e sticky (ex - f.prec + 1)).1 == 2 ^ f.prec)
  if f.maxFinite < mag then (f.signed neg (overflowMag f mode neg r90), { ovf := true, nx := true })
  else (f.signed neg mag, { nx := inexact, uf := tiny && inexact })

/-- The encoding of a value that is a number, rounded; zero keeps its sign. -/
def packNum (f : Fmt) (mode : RMode) (r90 : Bool) (neg : Bool) (m : Nat) (e : Int) (sticky : Bool) : Nat × Flags :=
  if m == 0 && !sticky then (f.signed neg 0, .none) else roundTo f mode r90 neg m e sticky

/-- The canonical NaN with NV as given (R81). -/
def nanResult (f : Fmt) (nv : Bool) : Nat × Flags := (f.nan, { nv := nv })

/-- An infinity of a format. -/
def infResult (f : Fmt) (neg : Bool) (fl : Flags := .none) : Nat × Flags := (f.signed neg f.infinity, fl)

/-- m·2^e as an integer multiple of 2^q, q ≤ e. -/
def scaled (neg : Bool) (m : Nat) (e q : Int) : Int :=
  let v : Int := (m * 2 ^ (e - q).toNat : Nat)
  if neg then -v else v

/-- The sum of two numbers, with the sign rule of an exact zero (R82). -/
def addNum (f : Fmt) (mode : RMode) (na : Bool) (ma : Nat) (ea : Int) (nb : Bool) (mb : Nat) (eb : Int) : Nat × Flags :=
  let q := min ea eb
  let v := scaled na ma ea q + scaled nb mb eb q
  if v == 0 then
    if ma == 0 && mb == 0 && na == nb then (f.signed na 0, .none)
    else (f.signed (mode == .rdn) 0, .none)
  else packNum f mode false (v < 0) v.natAbs q false

/-- The sum of two values (R82, R83). -/
def addVal (f : Fmt) (mode : RMode) (a b : FVal) : Nat × Flags :=
  match a, b with
  | .nan s, y => nanResult f (s || y.isSnan)
  | _, .nan s => nanResult f s
  | .inf na, .inf nb => if na == nb then infResult f na else nanResult f true
  | .inf na, .num _ _ _ => infResult f na
  | .num _ _ _, .inf nb => infResult f nb
  | .num na ma ea, .num nb mb eb => addNum f mode na ma ea nb mb eb

/-- fadd (R83). -/
def fadd (f : Fmt) (mode : RMode) (a b : Nat) : Nat × Flags := addVal f mode (.ofBits f a) (.ofBits f b)

/-- fsub computes a + (-b) (R83). -/
def fsub (f : Fmt) (mode : RMode) (a b : Nat) : Nat × Flags := addVal f mode (.ofBits f a) (FVal.ofBits f b).negate

/-- fmul (R83). -/
def fmul (f : Fmt) (mode : RMode) (a b : Nat) : Nat × Flags :=
  match FVal.ofBits f a, FVal.ofBits f b with
  | .nan s, y => nanResult f (s || y.isSnan)
  | _, .nan s => nanResult f s
  | .inf na, .inf nb => infResult f (na != nb)
  | .inf na, .num nb m _ => if m == 0 then nanResult f true else infResult f (na != nb)
  | .num na m _, .inf nb => if m == 0 then nanResult f true else infResult f (na != nb)
  | .num na ma ea, .num nb mb eb => packNum f mode false (na != nb) (ma * mb) (ea + eb) false

/-- fdiv (R83). The quotient is taken with prec + 3 bits below its top bit, the remainder making it sticky. -/
def fdiv (f : Fmt) (mode : RMode) (a b : Nat) : Nat × Flags :=
  match FVal.ofBits f a, FVal.ofBits f b with
  | .nan s, y => nanResult f (s || y.isSnan)
  | _, .nan s => nanResult f s
  | .inf _, .inf _ => nanResult f true
  | .inf na, .num nb _ _ => infResult f (na != nb)
  | .num na _ _, .inf nb => (f.signed (na != nb) 0, .none)
  | .num na ma ea, .num nb mb eb =>
    if mb == 0 then
      if ma == 0 then nanResult f true else infResult f (na != nb) { dz := true }
    else if ma == 0 then (f.signed (na != nb) 0, .none)
    else
      let k := 2 * f.prec + 3
      let n := ma * 2 ^ k
      packNum f mode false (na != nb) (n / mb) (ea - eb - k) (n % mb != 0)

/-- One bit of the integer square root of n, from the bit `fuel - 1` down. -/
def isqrtStep (n : Nat) : Nat → Nat → Nat
  | 0, r => r
  | k + 1, r =>
    let r' := r + 2 ^ k
    isqrtStep n k (if r' * r' ≤ n then r' else r)

/-- The integer square root: the largest r with r·r ≤ n. -/
def isqrt (n : Nat) : Nat := isqrtStep n (Nat.log2 n / 2 + 1) 0

/-- The square root of m·2^e as a magnitude with its sticky mark. -/
def sqrtMag (m : Nat) (e : Int) (extra : Nat) : Nat × Int × Bool :=
  let m' := if e % 2 == 0 then m else 2 * m
  let e' := if e % 2 == 0 then e else e - 1
  let n := m' * 2 ^ (2 * extra)
  let r := isqrt n
  (r, e' / 2 - extra, r * r != n)

/-- fsqrt (R83). -/
def fsqrt (f : Fmt) (mode : RMode) (a : Nat) : Nat × Flags :=
  match FVal.ofBits f a with
  | .nan s => nanResult f s
  | .inf neg => if neg then nanResult f true else infResult f false
  | .num neg m e =>
    if m == 0 then (f.signed neg 0, .none)
    else if neg then nanResult f true
    else
      let (r, er, st) := sqrtMag m e (f.prec + 3)
      packNum f mode false false r er st

/-- The fused multiply-add (±a·b) ± c (R84). -/
def ffma (f : Fmt) (mode : RMode) (negProd negC : Bool) (a b c : Nat) : Nat × Flags :=
  let x := FVal.ofBits f a
  let y := FVal.ofBits f b
  let z := if negC then (FVal.ofBits f c).negate else FVal.ofBits f c
  let snan := x.isSnan || y.isSnan || z.isSnan
  let invalid := match x, y with
    | .inf _, .num _ m _ => m == 0
    | .num _ m _, .inf _ => m == 0
    | _, _ => false
  if invalid then nanResult f true
  else if x.isNan || y.isNan || z.isNan then nanResult f snan
  else
    let ps := (x.sign != y.sign) != negProd
    match x, y, z with
    | .num _ ma ea, .num _ mb eb, .num nc mc ec => addNum f mode ps (ma * mb) (ea + eb) nc mc ec
    | .num _ _ _, .num _ _ _, .inf nc => infResult f nc
    | _, _, .inf nc => if nc == ps then infResult f ps else nanResult f true
    | _, _, _ => infResult f ps

/-- The order of two numbers or infinities: -1, 0 or 1; both zeros are equal. -/
def cmpVal (a b : FVal) : Int :=
  match a, b with
  | .inf na, .inf nb => if na == nb then 0 else if na then -1 else 1
  | .inf na, _ => if na then -1 else 1
  | _, .inf nb => if nb then 1 else -1
  | .num na ma ea, .num nb mb eb =>
    let q := min ea eb
    let d := scaled na ma ea q - scaled nb mb eb q
    if d < 0 then -1 else if d == 0 then 0 else 1
  | _, _ => 0

/-- fmin (`wantMax` false) and fmax (R85): zeros ordered -0 below +0, one NaN gives the other operand. -/
def fminmax (f : Fmt) (wantMax : Bool) (a b : Nat) : Nat × Flags :=
  let x := FVal.ofBits f a
  let y := FVal.ofBits f b
  let fl : Flags := { nv := x.isSnan || y.isSnan }
  if x.isNan && y.isNan then (f.nan, fl)
  else if x.isNan then (b, fl)
  else if y.isNan then (a, fl)
  else
    let c := cmpVal x y
    let aBelow := c < 0 || (c == 0 && x.sign && !y.sign)
    (if aBelow != wantMax then a else b, fl)

/-- The floating-point comparisons (R86, R109, R144). -/
inductive FCmp where
  | eq | ne | lt | le | gt | ge | un
deriving DecidableEq, Repr

/-- A comparison and its flags (R86). -/
def fcompare (f : Fmt) (op : FCmp) (a b : Nat) : Bool × Flags :=
  let x := FVal.ofBits f a
  let y := FVal.ofBits f b
  let un := x.isNan || y.isNan
  let sn := x.isSnan || y.isSnan
  let c := cmpVal x y
  match op with
  | .eq => (!un && c == 0, { nv := sn })
  | .ne => (un || c != 0, { nv := sn })
  | .lt => (!un && decide (c < 0), { nv := un })
  | .le => (!un && decide (c ≤ 0), { nv := un })
  | .gt => (!un && decide (0 < c), { nv := un })
  | .ge => (!un && decide (0 ≤ c), { nv := un })
  | .un => (un, { nv := sn })

/-- fclass (R117): the bit of the operand's class. -/
def fclassBit (f : Fmt) (a : Nat) : Nat :=
  match FVal.ofBits f a with
  | .nan s => if s then 8 else 9
  | .inf neg => if neg then 0 else 7
  | .num neg m _ =>
    if m == 0 then (if neg then 3 else 4)
    else if m < 2 ^ f.fbits then (if neg then 2 else 5)
    else (if neg then 1 else 6)

/-- vabs and vneg on a floating-point type (R81): a NaN becomes the canonical NaN, no flag. -/
def fabsneg (f : Fmt) (isNeg : Bool) (a : Nat) : Nat :=
  if (FVal.ofBits f a).isNan then f.nan
  else if isNeg then (if f.signBit ≤ a then a - f.signBit else a + f.signBit)
  else a % f.signBit

/-! ### Conversions (R89-R94) -/

/-- A conversion between floating-point formats (R89-R91). `same` marks equal source and destination types. -/
def fconvert (dst src : Fmt) (same : Bool) (mode : RMode) (a : Nat) : Nat × Flags :=
  let r90 := dst.narrow && !same
  match FVal.ofBits src a with
  | .nan s => (dst.nan, { nv := r90 || s })
  | .inf neg =>
    if dst.hasInf then infResult dst neg else (dst.signed neg dst.maxFinite, { ovf := true, nx := true })
  | .num neg m e => if same then (a, .none) else packNum dst mode r90 neg m e false

end Sys2Proof.Machine

namespace Sys2Proof

/-- The least value of an integer type (R72). -/
def Ty.minInt (t : Ty) : Int :=
  match t with
  | .i8 | .i16 | .i32 | .i64 => -(2 ^ (t.width - 1) : Int)
  | _ => 0

/-- The greatest value of an integer type (R72). -/
def Ty.maxInt (t : Ty) : Int :=
  match t with
  | .i8 | .i16 | .i32 | .i64 => 2 ^ (t.width - 1) - 1
  | _ => 2 ^ t.width - 1

/-- The type is signed (R72). -/
def Ty.signed (t : Ty) : Bool :=
  match t with
  | .i8 | .i16 | .i32 | .i64 => true
  | _ => false

/-- An integer clamped to a type, and whether it was out of range (R74, R94). -/
def Ty.clamp (t : Ty) (v : Int) : Int × Bool :=
  if v < t.minInt then (t.minInt, true) else if t.maxInt < v then (t.maxInt, true) else (v, false)

/-- The integer value of the low bits of a register under a type (R75). -/
def Ty.toInt (t : Ty) (bits : Nat) : Int :=
  let b := bits % 2 ^ t.width
  if t.signed && 2 ^ (t.width - 1) ≤ b then (b : Int) - 2 ^ t.width else b

/-- The w-bit pattern of an integer, modulo 2^w (R73). -/
def Ty.ofInt (t : Ty) (v : Int) : Nat := (v % 2 ^ t.width).toNat

end Sys2Proof

namespace Sys2Proof.Machine

/-- Float to integer (R92). -/
def fToInt (dst : Ty) (src : Fmt) (mode : RMode) (a : Nat) : Nat × Flags :=
  match FVal.ofBits src a with
  | .nan _ => (0, { nv := true })
  | .inf neg => (dst.ofInt (if neg then dst.minInt else dst.maxInt), { nv := true, sat := true })
  | .num neg m e =>
    let (r, inexact) := roundGrid mode neg m e false 0
    let v : Int := if neg then -(r : Int) else r
    let (c, out) := dst.clamp v
    if out then (dst.ofInt c, { nv := true, sat := true }) else (dst.ofInt c, { nx := inexact })

/-- Integer to float (R93, R90). -/
def intToF (dst : Fmt) (mode : RMode) (v : Int) : Nat × Flags :=
  packNum dst mode dst.narrow (v < 0) v.natAbs 0 false

/-- Integer to integer (R94). -/
def intToInt (dst : Ty) (v : Int) : Nat × Flags :=
  let (c, out) := dst.clamp v
  (dst.ofInt c, { sat := out })

/-- The conversion of one element from type t2 to type t (R118, R149). -/
def convert (t t2 : Ty) (mode : RMode) (a : Nat) : Nat × Flags :=
  match fmtOf t, fmtOf t2 with
  | some d, some s => fconvert d s (t == t2) mode a
  | none, some s => fToInt t s mode a
  | some d, none => intToF d mode (t2.toInt a)
  | none, none => intToInt t (t2.toInt a)

end Sys2Proof.Machine
end

