-- ==== Sys2Proof/Machine/MatrixMath.lean ====
section
/-! DEFINITION. What a matrix-engine job computes (10 R285-R301, R317-R320), over a function that reads one byte of the
job's memory and a function that reads one element of its tile. -/

namespace Sys2Proof.Machine

/-- The class of a matrix format (R285). -/
inductive MClass where
  | int | float | block | store
deriving DecidableEq, Repr

/-- The value rule of an element (R285). -/
inductive MKind where
  | sint | uint | bin | tri
  | fp (f : Fmt)
  | mxint
deriving DecidableEq, Repr

/-- A row of the format table (R285). -/
structure MFmt where
  w : Nat
  sw : Nat
  cls : MClass
  planes : Nat
  passes : Nat
  kind : MKind
deriving DecidableEq, Repr

/-- The format of a code; codes 0x1B to 0x1F are reserved (R285). -/
def mfmt (code : Nat) : Option MFmt :=
  match code with
  | 0x00 => some ⟨2, 2, .int, 2, 1, .sint⟩
  | 0x01 => some ⟨3, 4, .int, 3, 1, .sint⟩
  | 0x02 => some ⟨4, 4, .int, 4, 1, .sint⟩
  | 0x03 => some ⟨5, 8, .int, 5, 1, .sint⟩
  | 0x04 => some ⟨6, 8, .int, 6, 1, .sint⟩
  | 0x05 => some ⟨8, 8, .int, 8, 1, .sint⟩
  | 0x06 => some ⟨12, 16, .int, 12, 2, .sint⟩
  | 0x07 => some ⟨16, 16, .int, 16, 2, .sint⟩
  | 0x08 => some ⟨1, 1, .int, 1, 1, .uint⟩
  | 0x09 => some ⟨2, 2, .int, 2, 1, .uint⟩
  | 0x0A => some ⟨4, 4, .int, 4, 1, .uint⟩
  | 0x0B => some ⟨8, 8, .int, 8, 1, .uint⟩
  | 0x0C => some ⟨1, 1, .int, 1, 1, .bin⟩
  | 0x0D => some ⟨2, 2, .int, 2, 1, .tri⟩
  | 0x0E => some ⟨16, 16, .float, 11, 2, .fp .f16⟩
  | 0x0F => some ⟨16, 16, .float, 8, 1, .fp .bf16⟩
  | 0x10 => some ⟨8, 8, .float, 4, 1, .fp .e4m3⟩
  | 0x11 => some ⟨8, 8, .float, 3, 1, .fp .e5m2⟩
  | 0x12 => some ⟨6, 8, .float, 3, 1, .fp .e3m2⟩
  | 0x13 => some ⟨6, 8, .float, 4, 1, .fp .e2m3⟩
  | 0x14 => some ⟨4, 4, .float, 2, 1, .fp .e2m1⟩
  | 0x15 => some ⟨8, 8, .block, 4, 1, .fp .e4m3⟩
  | 0x16 => some ⟨4, 4, .block, 2, 1, .fp .e2m1⟩
  | 0x17 => some ⟨8, 8, .block, 8, 1, .mxint⟩
  | 0x18 => some ⟨32, 32, .store, 0, 0, .fp .f32⟩
  | 0x19 => some ⟨32, 32, .store, 0, 0, .sint⟩
  | 0x1A => some ⟨64, 64, .store, 0, 0, .sint⟩
  | _ => none

/-- A shape record (R287): strides are signed. -/
structure Shape where
  base : Word
  rows : Nat
  cols : Nat
  rstride : Int
  pstride : Int
  estride : Nat
  fmt : Nat
  scale : Word
  pl : Bool
  win : Bool
  /-- A reserved bit of the record is set. -/
  dirty : Bool
deriving DecidableEq, Repr

/-- A shape record from its four words (R287). -/
def Shape.ofWords (w0 w1 w2 w3 : Word) : Shape :=
  { base := w0,
    rows := (w2.extractLsb' 0 16).toNat, cols := (w2.extractLsb' 16 16).toNat,
    rstride := (w1.extractLsb' 32 32).toInt, pstride := (w1.extractLsb' 0 32).toInt,
    estride := (w2.extractLsb' 32 16).toNat, fmt := (w2.extractLsb' 48 5).toNat,
    scale := w3, pl := w2.getLsbD 56, win := w2.getLsbD 57,
    dirty := w2.extractLsb' 53 3 != 0 || w2.extractLsb' 58 6 != 0 }

/-- The part of a tile a job covers (R291). -/
structure Window where
  row0 : Nat
  col0 : Nat
  rows : Nat
  cols : Nat
deriving DecidableEq, Repr

/-- Bits t to t + n - 1 of memory, bit t being bit t mod 8 of byte ⌊t/8⌋ modulo 2^64 (R288). -/
def bitsAt (rd : Word → Byte) (t : Int) : Nat → Nat
  | 0 => 0
  | n + 1 =>
    let u := t + n
    bitsAt rd t n + (if (rd (Word.ofInt (u / 8))).getLsbD (u % 8).toNat then 2 ^ n else 0)

/-- The bit address of a container of row layout (R288). -/
def Shape.bitAddr (s : Shape) (sw r c : Nat) : Int :=
  8 * ((s.base.toNat : Int) + r * s.rstride) + c * s.estride * sw

/-- The byte address of a plane word (R289). -/
def Shape.planeAddr (s : Shape) (p k : Nat) : Word :=
  Word.ofInt ((s.base.toNat : Int) + p * s.pstride + k * s.rstride)

/-- The encoding of an element, in either layout (R285, R288, R289). -/
def Shape.elem (s : Shape) (f : MFmt) (rd : Word → Byte) (r c : Nat) : Nat :=
  if s.pl then
    (List.range f.w).foldl (fun acc p =>
      let a := s.planeAddr p r
      acc + (if (rd (a + Word.ofNat (c / 8))).getLsbD (c % 8) then 2 ^ p else 0)) 0
  else bitsAt rd (s.bitAddr f.sw r c) f.w

/-- A w-bit pattern read as two's complement. -/
def sintOf (w b : Nat) : Int := if 2 ^ (w - 1) ≤ b then (b : Int) - 2 ^ w else b

/-- A number as ±m·2^e. -/
def numOf (v : Int) (e : Int) : FVal := .num (v < 0) v.natAbs e

/-- The value of an element without its block scale (R285), and whether a TRI2 0b10 was read (IOP). -/
def MFmt.value (f : MFmt) (b : Nat) : FVal × Bool :=
  match f.kind with
  | .sint => (numOf (sintOf f.w b) 0, false)
  | .uint => (.num false b 0, false)
  | .bin => (.num (b == 1) 1 0, false)
  | .tri => (match b with
      | 1 => (.num false 1 0, false)
      | 3 => (.num true 1 0, false)
      | 2 => (.num false 0 0, true)
      | _ => (.num false 0 0, false))
  | .fp ff => (FVal.ofBits ff b, false)
  | .mxint => (numOf (sintOf 8 b) (-6), false)

/-- The block scale byte of a group (R286, R290): an exponent, or none for NaN. -/
def scaleOf (b : Byte) : Option Int := if b = 0xFF#8 then none else some ((b.toNat : Int) - 127)

/-- The flags of a job's status word (R303). -/
structure JFlags where
  iop : Bool := false
  sat : Bool := false
  nv : Bool := false
  ovf : Bool := false
  uf : Bool := false
  nx : Bool := false
deriving DecidableEq, Repr

/-- Both sets of flags. -/
def JFlags.or (a b : JFlags) : JFlags :=
  ⟨a.iop || b.iop, a.sat || b.sat, a.nv || b.nv, a.ovf || b.ovf, a.uf || b.uf, a.nx || b.nx⟩

/-- The flags of one rounding, as a job reports them. -/
def Flags.job (f : Flags) : JFlags := { sat := f.sat, nv := f.nv, ovf := f.ovf, uf := f.uf, nx := f.nx }

/-- The exact product of two factors with the sign of the negations (R298); none where a factor is a NaN or the
product is 0 × Inf. -/
def mulExact (neg : Bool) (a b : FVal) : Option FVal :=
  match a, b with
  | .nan _, _ => none
  | _, .nan _ => none
  | .inf na, .inf nb => some (.inf ((na != nb) != neg))
  | .inf na, .num nb m _ => if m == 0 then none else some (.inf ((na != nb) != neg))
  | .num na m _, .inf nb => if m == 0 then none else some (.inf ((na != nb) != neg))
  | .num na ma ea, .num nb mb eb => some (.num ((na != nb) != neg) (ma * mb) (ea + eb))

/-- A term of a group: the product, or why it is not a number. -/
inductive Term where
  | val (v : FVal)
  | nan (signalling : Bool)
  | zeroInf
deriving DecidableEq, Repr

/-- The term of one product, with its scales (R298, R299). -/
def productTerm (neg : Bool) (a b : FVal) (sa sb : Option Int) : Term :=
  match sa, sb with
  | some ea, some eb =>
    if a.isNan || b.isNan then .nan (a.isSnan || b.isSnan)
    else match mulExact neg a b with
      | none => .zeroInf
      | some (.num n m e) => .val (.num n m (e + ea + eb))
      | some v => .val v
  | _, _ => .nan (a.isSnan || b.isSnan)

/-- The exact sum of numbers as v·2^e. -/
def sumExact (l : List FVal) : Int × Int :=
  l.foldl (fun (acc : Int × Int) t => match t with
    | .num n m e =>
      if m == 0 then acc
      else if acc.1 == 0 then ((if n then -(m : Int) else m), e)
      else
        let q := min acc.2 e
        (acc.1 * 2 ^ (acc.2 - q).toNat + scaled n m e q, q)
    | _ => acc) (0, 0)

/-- The result of a group of finite or special terms, an f32 encoding (R298, R299). -/
def groupResult (terms : List Term) : Nat × JFlags :=
  let vals := terms.filterMap fun t => match t with | .val v => some v | _ => none
  let infs := vals.filterMap fun v => match v with | .inf n => some n | _ => none
  if terms.any (fun t => match t with | .nan _ => true | _ => false) then
    (Fmt.f32.nan, { nv := terms.any fun t => match t with | .nan s => s | _ => false })
  else if terms.any (fun t => t == .zeroInf) then (Fmt.f32.nan, { nv := true })
  else if infs.any (fun n => n) && infs.any (fun n => !n) then (Fmt.f32.nan, { nv := true })
  else match infs with
    | n :: _ => (Fmt.f32.signed n Fmt.f32.infinity, {})
    | [] =>
      let (v, e) := sumExact vals
      if v == 0 then (Fmt.f32.signed (vals.all fun t => t.sign) 0, {})
      else
        let (r, fl) := packNum .f32 .rne false (v < 0) v.natAbs e false
        (r, fl.job)

/-- The term of an accumulator value (R298). -/
def accTerm (bits : Nat) : Term :=
  match FVal.ofBits .f32 bits with
  | .nan s => .nan s
  | v => .val v

/-- The operands and modifiers of an mma (R316). -/
structure MmaArgs where
  a : Shape
  b : Shape
  ad : Bool
  na : Bool
  nb : Bool
deriving DecidableEq, Repr

/-- The K indices of group g (R298). -/
def groupRange (k g : Nat) : List Nat := (List.range (min 32 (k - 32 * g))).map (· + 32 * g)

/-- The scale of a row or column group (R290); none stands for a NaN scale, 2^0 where the format has no scales. -/
def Shape.scaleAt (s : Shape) (f : MFmt) (rd : Word → Byte) (k rc g : Nat) : Option Int :=
  if f.cls == .block then scaleOf (rd (s.scale + Word.ofNat (rc * ((k + 31) / 32) + g))) else some 0

/-- One element of an mma window: the groups folded in ascending order (R298, R300). -/
def mmaElem (x : MmaArgs) (fa fb : MFmt) (rd : Word → Byte) (t : Word) (i j : Nat) : Word × JFlags :=
  let k := x.a.cols
  let gs := List.range ((k + 31) / 32)
  let isInt := fa.cls == .int && fb.cls == .int
  let neg := x.na != x.nb
  let elem (kk : Nat) : (FVal × Bool) × (FVal × Bool) :=
    (fa.value (x.a.elem fa rd i kk), fb.value (x.b.elem fb rd kk j))
  if isInt then
    let lim : Int := 2 ^ 63 - 1
    let r := gs.foldl (fun (acc : Int × JFlags) g =>
      let es := (groupRange k g).map elem
      let s := es.foldl (fun (s : Int) (e : (FVal × Bool) × (FVal × Bool)) => match e.1.1, e.2.1 with
        | .num n1 m1 _, .num n2 m2 _ => if (n1 != n2) != neg then s - (m1 * m2 : Nat) else s + (m1 * m2 : Nat)
        | _, _ => s) acc.1
      let c := max (-lim) (min lim s)
      (c, acc.2.or { sat := c != s, iop := es.any fun e => e.1.2 || e.2.2 })) (if x.ad then 0 else t.toInt, {})
    (Word.ofInt r.1, r.2)
  else
    let r := gs.foldl (fun (acc : Nat × JFlags) g =>
      let sa := x.a.scaleAt fa rd k i g
      let sb := x.b.scaleAt fb rd k j g
      let es := (groupRange k g).map elem
      let ts := es.map fun e => productTerm neg e.1.1 e.2.1 sa sb
      let (v, fl) := groupResult (accTerm acc.1 :: ts)
      (v, (acc.2.or fl).or { iop := es.any fun e => e.1.2 || e.2.2 })) (if x.ad then 0 else t.toNat % 2 ^ 32, {})
    (Word.ofNat r.1, r.2)

/-- The element accld writes (R318). -/
def accldElem (f : MFmt) (b : Nat) : Word × JFlags :=
  match f.kind with
  | .fp ff =>
    let (v, fl) := fconvert .f32 ff (ff == .f32) .rne b
    (Word.ofNat v, { nv := fl.nv })
  | _ => match f.value b with
    | (.num n m _, iop) => (Word.ofInt (if n then -(m : Int) else m), { iop := iop })
    | (_, iop) => (0, { iop := iop })

/-- The exact value accst converts (R319), and NV of the product. -/
def accstValue (isInt : Bool) (t s : Word) : FVal × Bool :=
  if isInt then (numOf t.toInt (-((s.extractLsb' 0 6).toNat : Int)), false)
  else
    let a := FVal.ofBits .f32 (t.toNat % 2 ^ 32)
    let b := FVal.ofBits .f32 (s.toNat % 2 ^ 32)
    match mulExact false a b with
    | some v => (v, false)
    | none => (.nan false, true)

/-- The least and greatest values of an integer matrix format. -/
def MFmt.range (f : MFmt) : Int × Int :=
  match f.kind with
  | .uint => (0, 2 ^ f.w - 1)
  | _ => (-(2 ^ (f.w - 1) : Int), 2 ^ (f.w - 1) - 1)

/-- The container accst writes (R319, R90, R92). -/
def accstElem (f : MFmt) (isInt : Bool) (mode : RMode) (t s : Word) : Nat × JFlags :=
  let (x, nv) := accstValue isInt t s
  match f.kind with
  | .fp ff =>
    match x with
    | .nan _ => (ff.nan, { nv := true })
    | .inf n =>
      if ff.hasInf then (ff.signed n ff.infinity, { nv := nv })
      else (ff.signed n ff.maxFinite, { nv := nv, ovf := true, nx := true })
    | .num n m e =>
      let (r, fl) := packNum ff mode true n m e false
      (r, fl.job)
  | _ =>
    let (lo, hi) := f.range
    let enc (v : Int) : Nat := (v % 2 ^ f.w).toNat
    match x with
    | .nan _ => (0, { nv := true })
    | .inf n => (enc (if n then lo else hi), { nv := true, sat := true })
    | .num n m e =>
      let (r, inexact) := roundGrid mode n m e false 0
      let v : Int := if n then -(r : Int) else r
      if v < lo then (enc lo, { nv := true, sat := true })
      else if hi < v then (enc hi, { nv := true, sat := true })
      else (enc v, { nx := inexact })

/-- Bits to write: at a bit address, a count of bits and their value. -/
abbrev BitWrite := Int × Nat × Nat

/-- Every (row, column) of a window or record, row by row. -/
def cellsOf (rows cols : Nat) : List (Nat × Nat) :=
  (List.range rows).flatMap fun r => (List.range cols).map fun c => (r, c)

/-- The writes of mpack: each plane word of the destination (R289, R320). -/
def mpackWrites (src dst : Shape) (f : MFmt) (rd : Word → Byte) : List BitWrite :=
  (List.range f.w).flatMap fun p => (List.range src.rows).map fun k =>
    let v := (List.range src.cols).foldl (fun acc j =>
      if (src.elem f rd k j).testBit p then acc + 2 ^ j else acc) 0
    (8 * ((dst.planeAddr p k).toNat : Int), 64, v)

/-- The writes of munpack: each container of the destination, upper bits zero (R320). -/
def munpackWrites (src dst : Shape) (f : MFmt) (rd : Word → Byte) : List BitWrite :=
  (cellsOf dst.rows dst.cols).map fun rc => (dst.bitAddr f.sw rc.1 rc.2, f.sw, src.elem f rd rc.1 rc.2)

/-- The cycles of a job once started (R308). -/
def jobCycles (watch : Bool) (op : Nat) (rows k passes planes : Nat) : Nat :=
  match op with
  | 0 => 8 + (if watch then (k + 15) / 16 else (k + 31) / 32) * passes * planes
  | 1 | 2 => 4 + rows
  | 3 => 4
  | _ => 4 + k

end Sys2Proof.Machine
end

