-- ==== Sys2Proof/Machine/State.lean ====
section
/-! DEFINITION. The state of one Lumryn chip as plain data, its faults and refusals, and the state after reset.
Sparse tables are association lists (`Tab`); memory is a list of (address, byte) cells in one canonical form.
INVENTORY.md lists every field with its rule of spec/ and its reset value. -/

namespace Sys2Proof.Machine

/-- A sparse table: an unlisted number holds the table's default. -/
abbrev Tab (α : Type) := List (Nat × α)

/-! ### The matrix engine of a cluster (R285-R312) -/

/-- The instructions that make jobs (R313). -/
inductive MeForm where
  | mma | accld | accst | acczero | mpack | munpack
deriving DecidableEq, Repr

/-- A job as accepted (R302, R315), with the records read at issue. -/
structure Job where
  form : MeForm
  core : Nat
  slot : Nat
  ctx : Nat
  id : BitVec 16
  pc : Word
  asy : Bool
  tile : Nat
  a : Shape
  b : Shape
  win : Window
  na : Bool
  nb : Bool
  ad : Bool
  int : Bool
  rm : BitVec 2
  scale : BitVec 64
  td : Td
  /-- The core holds it in one of its 2 reserved entries (R302). -/
  own : Bool
  /-- The thread is one of a redundant pair: the other's core and slot, and whether this one is the primary (R409). -/
  twin : Option (Nat × Nat × Bool)
deriving DecidableEq, Repr

/-- A matrix engine. Tile t, element (i, j) is `tiles` t, 64·i + j; unlisted is zero. -/
structure Me where
  tiles : Tab (Tab Word) := []
  latch : Tab Byte := []
  /-- The core that owns each tile (R296). -/
  owner : Tab Nat := []
  /-- Accepted jobs that have not completed, oldest first; the running one among them. -/
  jobs : List Job := []
  /-- The running job: its core, its ID, and the cycles it takes (R308). -/
  running : Option (Nat × BitVec 16 × Nat) := none
  /-- Threads waiting for an entry, first come first (R302). -/
  waiters : List (Nat × Nat) := []
  gated : Bool := false
  waking : Bool := false
  /-- The context that began the wake under way, to which its energy is charged (R310). -/
  wakeFor : Option Nat := none
  /-- The time from which it counts idle cycles (R309, R322). -/
  idleSince : Word := 0
  fenced : Bool := false
deriving DecidableEq, Repr

/-! ### The copy engine of a cluster (R323-R340) -/

/-- The copy instructions, and the tile moves of a card (R446). -/
inductive CpyForm where
  | cpy | mc | lb | ring | lz | card
deriving DecidableEq, Repr

/-- The landing-zone move of lzcpy, or one tile of a card (R446, R451). -/
structure LzMove where
  token : Word
  src : Word
  len : Nat
  off : Nat
deriving DecidableEq, Repr

/-- Progress at one target (R332): how many units of the stream have arrived without a gap, and which beyond it. -/
structure Prog where
  target : Nat
  done : Nat := 0
  ahead : List Nat := []
deriving DecidableEq, Repr

/-- A copy (R323), from its mailbox register on. -/
structure Copy where
  form : CpyForm
  core : Nat
  ctx : Nat
  slot : Nat
  /-- The issuing thread's tag (R189). -/
  tag : Nat
  id : BitVec 16
  pc : Word
  dst : Word
  src : Word
  len : Nat
  n1 : Nat := 1
  n2 : Nat := 1
  ss1 : Int := 0
  ss2 : Int := 0
  ds1 : Int := 0
  ds2 : Int := 0
  ac : Bool := false
  ssem : Nat := 0
  scount : Nat := 0
  rstart : Nat := 0
  rlog : Nat := 0
  quiet : Bool := false
  inv : Bool := false
  ch : Nat := 0
  moves : List LzMove := []
  /-- The card entry its segments serve at the receiver (R446). -/
  card : Option Nat := none
  td : Td
  started : Bool := false
  /-- Requests of it that are parked at a home agent: the unit, and the canonical address that met the page (R330, R337). -/
  asked : List (Nat × Word) := []
  progress : List Prog := []
  /-- The code and address of the fault that ends it. -/
  fault : Option (Byte × Word) := none
deriving DecidableEq, Repr

/-- A line-buffer channel (R335): the core, context and LEN that last used it, and its rows, oldest first. -/
structure LineBuf where
  core : Nat
  ctx : Nat
  len : Nat
  rows : List (Word × List Byte)
deriving DecidableEq, Repr

/-- A copy engine. -/
structure Ce where
  copies : List Copy := []
  bufs : Tab LineBuf := []
  fenced : Bool := false
deriving DecidableEq, Repr

/-! ### The key store engine of a cluster (R341-R357) -/

/-- A loaded projection (R341-R343); row j's sign bits are `rows` j. -/
structure Projection where
  d : Nat
  b : Nat
  rows : List (BitVec 256)
  hash : Word
deriving DecidableEq, Repr

/-- A bank entry: its context, and the projection it holds, none when empty (R341). -/
structure BankEntry where
  ctx : Nat
  proj : Option Projection := none
deriving DecidableEq, Repr

/-- The commands of the KSE (R351). -/
inductive KseForm where
  | ksproj | kstore | kbuild | kgather (qv : Bool) (rad : Nat) (cap : Nat)
deriving DecidableEq, Repr

/-- A command in the KSE's queue (R348). `reads`, `writes` and `got` record what it had done when it was set aside: the values it
read, in order, how many writes, checks and counts it made, and the projection it works with. -/
structure KseCmd where
  form : KseForm
  core : Nat
  slot : Nat
  ctx : Nat
  tag : Nat
  pc : Word
  a : Word
  b : Word
  c : Word
  entry : Nat
  td : Td
  reads : List Word := []
  writes : Nat := 0
  got : Option Projection := none
  /-- The page it waits for (R244, R348). -/
  aside : Option Word := none
deriving DecidableEq, Repr

/-- A key store engine. -/
structure Kse where
  bank : Tab BankEntry := []
  queue : List KseCmd := []
  running : Option Nat := none
  last : Nat := 0
  /-- Page headers and pools used, by context, up to 256 each (R385); `none` is an overflowed register. -/
  used : Tab (Option (List Word)) := []
  fenced : Bool := false
deriving DecidableEq, Repr

/-- The engines of a cluster. -/
structure Cluster where
  me : Me := {}
  ce : Ce := {}
  kse : Kse := {}
deriving DecidableEq, Repr

/-! ### One thread (R13) -/

/-- A line as a thread entered it (R32, R39): PC[63:6] and its 64 bytes. -/
structure Line where
  num : Nat
  bytes : Vec
deriving DecidableEq, Repr

/-- What a line fetch has brought: the line, or the code of its refusal (R37, R187). -/
inductive Fetched where
  | line (l : Line)
  | refused (num : Nat) (code : Byte)
deriving DecidableEq, Repr

/-- A bound stream (R154): the descriptor, the next vector number, the sticky overrun bit, and the vectors read ahead
(R156), the next one first. -/
structure Stream where
  base : Word
  s0 : BitVec 32
  s1 : BitVec 32
  c0 : BitVec 16
  c1 : BitVec 16
  wr : Bool
  pos : Nat := 0
  ovr : Bool := false
  ahead : List Vec := []
deriving DecidableEq, Repr

/-- A pass port's binding (R19, R223): a queue and a direction. -/
structure Bind where
  queue : Nat
  wr : Bool
deriving DecidableEq, Repr

/-- A place words pass through: a core queue, or a neighbour link named from the core that uses it (R18). -/
inductive Chan where
  | queue (q : Nat)
  | west
  | east
deriving DecidableEq, Repr

/-- An entry of a slot's store buffer (R121): a store of up to 64 bytes at its canonical address, with its byte enables and
the address as the instruction formed it, which a late refusal reports (R227, R377), or the release marker of a fence (R275). A marker is `due` from when the conditions of R255 have been met. -/
inductive SbEntry where
  | store (addr : Word) (data : Vec) (en : BitVec 64) (formed : Word)
  | marker (scope : Scope)
deriving DecidableEq, Repr

/-- The answer to a request: data, or the code of the fault it raises at the requester. -/
inductive Reply where
  | val (v : Vec)
  | err (code : Byte)
deriving DecidableEq, Repr

/-- States of an island; the watch island has only `active` and `idle`, its DOZE (R393). Shallower first. -/
inductive PState where
  | active | idle | retain | off
deriving DecidableEq, Repr

/-- What a parked thread waits for (R163, R170, R201). A wait that polls is tried again in the thread's own cycles;
the others end by the step that brings what they wait for. -/
inductive Wait where
  /-- A word or room on a port or link (R20, R176); counted against wlim. -/
  | port
  /-- Room in the slot's store buffer (R121). -/
  | sbRoom
  /-- The slot's store buffer to empty (R251), or a fence before a line entry (R276). -/
  | sbEmpty
  /-- The outstanding count: to reach zero (R208), or to leave 65,535 (R377). -/
  | outst
  /-- A rights fill for the page of an address (R236). -/
  | plb (addr : Word)
  /-- A line fetch (R187). -/
  | line (num : Nat)
  /-- The answer to a request sent to a home, a slice, another chip or the host (R122, R269). -/
  | request
  /-- A synchronising access (R264): whether an attempt is in flight. -/
  | sync (inFlight : Bool)
  /-- A division or an SFU request that runs (R96, R152). -/
  | unit
  /-- join, on the counter at an address (R206). -/
  | join (addr : Word)
  /-- mrecv and mwait (R216). -/
  | mail
  /-- ksub, kwait and the TD wait of an instruction (R48, R219); counted. -/
  | sem
  /-- An inbox entry (R185, R207, R225); counted. -/
  | inbox
  /-- The reply binding of the slot (R213); counted. -/
  | binding
  /-- The caller's mailbox queue (R214); counted. -/
  | callerMail
  /-- A release at a scope (R255). -/
  | release
  /-- A copy mailbox register (R174). -/
  | copyReg
  /-- The ME job queue (R302). -/
  | meQueue
  /-- The KSE command queue (R348). -/
  | kseQueue
  /-- A job: a blocking ME job or mwaitj (R312, R321). -/
  | job (id : Nat)
  /-- kfence (R355). -/
  | kfence
  /-- kgather at the KSE (R354). -/
  | kse
  /-- migpt during a migration, by the PC of the instruction (R391). -/
  | migpt (at_ : Word)
  /-- wake.go: an island, and the state it asks for (R395). -/
  | wakeGo (island : Nat) (target : PState)
  /-- sigwait (R456); counted. -/
  | sigwait
  /-- The answer of another chip to rinv, lzres or lzrel (R441, R450, R454). -/
  | answer
  /-- plbinval and scinval, until earlier checked stores have drained (R237, R246). -/
  | inval
  /-- The compare queue of a redundant pair (R409). -/
  | pair
  /-- An element of a scattered store, which nothing abandons: the answer of its home, or, polled, the buffer to empty (R124). -/
  | elem (polled : Bool)
  /-- The next own cycle, in which the instruction goes on with what has arrived; whether a unit had accepted its request (R168,
  R187, R219). -/
  | due (accepted : Bool)
deriving DecidableEq, Repr

/-- A stop as its record will show it (R368, R492). -/
structure Stop where
  code : Byte
  pc : Word
  rpc : Word
  addr : Word := 0
  type : Nat := 0
  imp : Bool := false
  seq : BitVec 16 := 0
  jobid : BitVec 16 := 0
  junit : Nat := 0
  jstate : Nat := 0
  tile : Nat := 0
  ecode : Byte := 0
deriving DecidableEq, Repr

/-- Whether a thread issues (R163). -/
inductive Run where
  | ready
  /-- Parked, with the limit read when a counted wait began and the rotations counted (R24, R264). -/
  | parked (w : Wait) (lim wc : Nat)
  /-- Stopped; `record` is the slot of its trap area record, none while the area has no free slot (R369). -/
  | trapped (why : Stop) (record : Option Nat)
  /-- Stopped by the debugger (R380). -/
  | stopped (why : Stop) (record : Option Nat)
deriving DecidableEq, Repr

/-- What an instruction that has computed its result writes when its unit completes (R96, R152). -/
structure Result where
  done : Nat
  g : Vector Word 24
  pred : BitVec 8
  v : Vector Vec 8
  m : Vector Word 4
  fpctl : Word
  streams : Vector (Option Stream) 4
  sb : List SbEntry
  pops : List Chan
  pushes : List (Chan × Word)
  pc : Word
  line : Option Line
  sfu : Bool
  /-- An SFU request has started, and so has a completion time (R152). -/
  started : Bool
deriving DecidableEq, Repr

/-- A task record, prepared for launch (R180): its fields, the code of a poisoned launch, the trap record and depth of
a handler, and the twin of a pair. -/
structure TaskRec where
  pc : Word
  /-- g0 and up: four arguments, more for an invocation (R444). -/
  args : List Word
  join : Word := 0
  prio : Nat := 0
  dom : Nat := 0
  ctx : Nat
  tid : Option (BitVec 32) := none
  pin : Bool := false
  lend : Bool := false
  cv : Bool := false
  ccore : Nat := 0
  cslot : Nat := 0
  /-- Launched from a poisoned waiting-table entry (R186). -/
  poisoned : Bool := false
  trapinfo : Word := 0
  /-- The record a handler task is for, by its number in the context (R133, R370). -/
  recSeq : Nat := 0
  depth : Nat := 0
deriving DecidableEq, Repr

/-- What a thread has the device do in one step; for a redundant pair it is done once (R409). -/
inductive DevCmd where
  /-- eresume and ekill, of the record at an address, and the end of a thread that is killed, by the number of its record (R375). -/
  | resume (at_ : Word)
  | kill (at_ : Word)
  | endKill (i : Nat)
  /-- trig: an entry and a score (R400). -/
  | trig (n : Nat) (score : Word)
  /-- wake.hold: whether the contract may be registered; the registration; wake.drop (R396). -/
  | mayHold (t : Nat) (island : Nat)
  | hold (t : Nat) (island : Nat)
  | drop (i : Nat)
  /-- pair: the word of virtual cores and the record (R408). -/
  | pair (cores : Word) (r : TaskRec)
deriving DecidableEq, Repr

/-- An access or command of a paired thread waiting in its core's compare queue, an access with its address as it was formed (R409). -/
inductive CmpEntry where
  | access (addr : Word) (acc : Access) (formed : Word)
  | store (addr : Word) (data : Vec) (en : BitVec 64) (formed : Word)
  | command (c : DevCmd)
  | copy (c : Copy)
  | kse (k : KseCmd)
  /-- An invocation: header, arguments, number of tiles. -/
  | invoke (header : Word) (args : List Word) (tiles : Nat)
deriving DecidableEq, Repr

/-- A PLB entry (R236): a page base and size in bytes, its domain and the context's rights byte. -/
structure PlbEntry where
  base : Nat
  size : Nat
  domain : BitVec 16
  rights : Byte
deriving DecidableEq, Repr

/-- A thread (R13) with what its slot and its core keep with it. -/
structure Thread where
  pc : Word
  line : Option Line := none
  g : Vector Word 24 := Vector.replicate 24 0
  pred : BitVec 8 := 1
  v : Vector Vec 8 := Vector.replicate 8 0
  m : Vector Word 4 := Vector.replicate 4 0
  streams : Vector (Option Stream) 4 := Vector.replicate 4 none
  ports : Vector (Option Bind) 4 := Vector.replicate 4 none
  fpctl : Word := 0
  wlim : Nat := 65536
  outst : Nat := 0
  seq : BitVec 16 := 0
  tid : BitVec 32 := 0
  prio : Nat := 0
  dom : Nat := 0
  trapinfo : Word := 0
  /-- Which record of its context a handler task was started for: a decided record's slot is reused (R133, R370). -/
  recSeq : Nat := 0
  join : Word := 0
  cv : Bool := false
  ccore : Nat := 0
  cslot : Nat := 0
  lend : Bool := false
  pinned : Bool := false
  /-- A launch from a poisoned waiting-table entry, with its code (R186). -/
  poisoned : Bool := false
  /-- The depth of a handler task (R372); 0 for another thread. -/
  depth : Nat := 0
  run : Run := .ready
  /-- The first cycle of its core in which it may issue (R101). -/
  readyAt : Nat := 0
  /-- The cycle of launch or restore, for the choice of R167, R172. -/
  since : Nat := 0
  /-- The time at which the wait it is parked on began (R171). -/
  parkedAt : Word := 0
  pending : Option Result := none
  sb : List SbEntry := []
  /-- Words and room reserved by the parked instruction (R20). -/
  heldPops : List Chan := []
  heldRoom : List Chan := []
  /-- The answers the parked instruction has received, in the order of its requests. -/
  replies : List Reply := []
  /-- What the rights fills of the parked instruction returned, none for a page without a mapping (R236). -/
  filled : List (Nat × Option PlbEntry) := []
  /-- The next line, when the parked instruction entered it before it sent a request (R32). -/
  entered : Option (Word × Line) := none
  /-- What the line fetch of the pending entry has brought (R37, R187). -/
  fetched : Option Fetched := none
  /-- A counted wait, or a join, that the instruction has left for a rights fill, a line fetch or an answer and goes back
  to: the wait, its limit, its rotations, and when it began (R24, R171, R267). -/
  waited : Option (Wait × Nat × Nat × Word) := none
  /-- A fence stands before the next line entry (R276): the number of buffer entries still to leave. -/
  fenceLeft : Nat := 0
  /-- Host paths written since the last release at .sys (R255). -/
  hostWrites : Bool := false
  /-- KSE commands of the thread that have not ended (R349). -/
  pend : Nat := 0
  /-- The debugger's step mode (R380). -/
  step : Bool := false
  /-- The stop of a stepped yield or roam, taken when the thread is back in a slot (R209, R225, R380). -/
  stopDue : Option Stop := none
  /-- The other thread of a redundant pair: its core, its slot, whether this one is the primary (R408). -/
  twin : Option (Nat × Nat × Bool) := none
  cmpq : List CmpEntry := []
  /-- A late refusal that arrived while the thread was stopped (R379): code, sequence number, address. -/
  refusal : Option (Byte × BitVec 16 × Word) := none
  /-- An ekill or a handler's end has decided a record, by its number in the context, and what the decrement it then makes was
  answered (R375): once decided it goes on after an abandoned park. -/
  killing : Option (Nat × Option Reply) := none
  /-- A fork has reserved a place in its core's deque (R182, R205). -/
  heldDeque : Bool := false
  /-- A ttcancel has taken its entry out of the table: its PC, and the counter that it decrements (R222). -/
  cancelling : Option (Word × Word) := none
  /-- The store at the head of the buffer has met a page that is not present, and waits at the home agent for the driver's wake
  (R122, R244). -/
  sbParked : Bool := false
  /-- The same of the line it fetches (R244, R382). -/
  lineParked : Bool := false
  /-- The table entry a parked ttarm reserves (R221), or the job ID a parked blocking form waits for (R315). -/
  heldEntry : Option Nat := none
  /-- The stores an invalidation of the instruction waits for: core, slot, and the count of entries that have left the slot's
  buffer by which they are out (R237). -/
  waitsFor : List (Nat × Nat × Nat) := []
deriving DecidableEq, Repr

/-! ### Records that start threads (R180, R185, R225) -/

/-- An entry of an inbox (R185): a record, an entry reserved for a spawn (R207), or the four entries of a roaming
thread, which launch as one (R190). -/
inductive InboxItem where
  | task (r : TaskRec)
  | reserved (core slot : Nat)
  | roamer (t : Thread)
deriving DecidableEq, Repr

/-- How a saved thread becomes eligible to resume (R170). -/
structure Saved where
  th : Thread
  /-- The slot it stood in (R368). -/
  slot : Nat := 15
  /-- It was eligible when saved, or has become so: its place in the order of eligibility. -/
  eligible : Option Nat
  prio : Nat
deriving DecidableEq, Repr

/-- Why a core evicts a thread: the PMC lowers power (R167), a long join makes room (R171), or a record of higher priority
pre-empts, for which the slot is reserved: a task, a roaming thread, or a save record (R172). -/
inductive EvictWhy where
  | power
  | join
  | record (r : InboxItem)
  /-- A save record, by its number and its place in the order of eligibility. -/
  | resume (n : Nat) (elig : Option Nat)
deriving DecidableEq, Repr

/-- An entry of the waiting-task table (R186, R221). -/
inductive TtEntry where
  | reserved (slot : Nat)
  | armed (r : TaskRec) (sem : Nat) (t : Nat)
deriving DecidableEq, Repr

/-- A message of a mailbox queue (R188). -/
structure Msg where
  value : Word
  status : BitVec 16 := 0
  seq : BitVec 16 := 0
  src : Nat
  kind : Nat
  tag : Nat
deriving DecidableEq, Repr

/-- A semaphore (R217): count, poison and the code it carries. -/
structure Sem where
  v : Nat := 0
  p : Bool := false
  code : Byte := 0
deriving DecidableEq, Repr

/-- A reply binding (R212): the owner's tag and the replies still to arrive. -/
structure Binding where
  tag : Nat
  count : Nat
deriving DecidableEq, Repr

/-! ### Requests beyond the core (R243, R266, R377) -/

/-- Who sent a request. -/
inductive Sender where
  | thread (core slot : Nat)
  | fetch (core slot : Nat)
  /-- A store already counted as outstanding, with its sequence number. -/
  | store (core slot : Nat) (seq : BitVec 16)
  | queue (q : Nat)
  | trigger (n : Nat)
  | copy (cluster core id : Nat)
  /-- The report of a context's migration (R392). -/
  | report (ctx : Nat)
  | otherChip (chip : Nat) (tag : Nat)
  /-- Its sender has ended: the answer is discarded (R372). -/
  | nobody
deriving DecidableEq, Repr

/-- Where a request stands. -/
inductive ReqState where
  /-- On its way to its home agent or slice. -/
  | queued
  /-- At its home agent, on a page that is not present (R244). -/
  | parked
  /-- Sent to another chip, or to the host (none), unanswered. -/
  | sent (chip : Option Nat)
  /-- Waiting at the PCI Express home for mediated requests to its range (R271). -/
  | fenced
  /-- Posted to the mediator under a tag (R429). -/
  | mediated (tag : Nat)
  | answered (r : Reply)
deriving DecidableEq, Repr

/-- A request of the die's network. The address is canonical (R227) for a translated access, a window address for SRAM. -/
structure Req where
  src : Sender
  ctx : Nat
  addr : Word
  acc : Access
  st : ReqState := .queued
deriving DecidableEq, Repr

/-- A request a thread has sent beyond its completion and that counts as outstanding (R377). -/
structure Inflight where
  core : Nat
  slot : Nat
  seq : BitVec 16
  addr : Word
  /-- None while it is on its way; then accepted (`none`) or refused with a code. -/
  outcome : Option (Option Byte) := none
  /-- An msend on its way to its owner core (R215). -/
  msend : Option (Nat × Nat × Word × Nat) := none
deriving DecidableEq, Repr

/-! ### Cores (R160-R190) -/

/-- One core. -/
structure Core where
  ctx : Option Nat := none
  /-- Cycles since power-up (R162). -/
  cycle : Nat := 0
  slots : Tab Thread := []
  saved : Tab Saved := []
  inbox : List InboxItem := []
  hits : List TaskRec := []
  table : Tab TtEntry := []
  /-- Bottom record first (R182). -/
  deque : List TaskRec := []
  /-- How many of the bottom records the hardware part holds. -/
  dequeHw : Nat := 0
  mail : List Msg := []
  bindings : Tab Binding := []
  sems : Tab Sem := []
  /-- Additions and poison that arrived in the current cycle (R219). -/
  adds : List (Nat × Nat) := []
  poisons : List (Nat × Byte) := []
  queues : Tab (List Word) := []
  /-- Words in the inbound link FIFOs (R177). -/
  west : List Word := []
  east : List Word := []
  /-- Words pushed toward this core, with the cycle from which they can be popped. -/
  westWay : List (Word × Nat) := []
  eastWay : List (Word × Nat) := []
  /-- Most recently used first (R236). -/
  plb : List PlbEntry := []
  /-- Lines held in the instruction line buffers (R187). -/
  ilb : List Nat := []
  lendPtr : Nat := 14
  gated : Bool := false
  evicting : Option Nat := none
  evictWhy : EvictWhy := .power
  jc : BitVec 16 := 0
  /-- Status words of the 64 most recent job IDs (R303). -/
  jobs : List (BitVec 16 × Word) := []
  cn : BitVec 16 := 0
  /-- The copy mailbox registers that are full, oldest first, up to four (R174, R323). -/
  copyRegs : List Copy := []
  /-- Completions waiting in the retriever (R174). -/
  completions : List Msg := []
  lastfb : Nat := 0
  satn : Nat := 0
  /-- How many entries have left each slot's store buffer (R121, R237). -/
  drained : Tab Nat := []
  /-- Start cycle of the last SFU request (R152). -/
  sfuLast : Option Nat := none
  /-- Slots whose SFU requests wait to start, in acceptance order (R152). -/
  sfuFifo : List Nat := []
  stealPtrs : Nat × Nat := (0, 0)
  backoff : Option Nat := none
  /-- Forwarding entries: a context, its destination core, and the time of the last traffic known (R387). -/
  forwards : List (Nat × Nat × Word) := []
  discarded : Nat := 0
  fenced : Bool := false
  /-- A lasting error of the core whose state does not read back: its threads end (R412). -/
  lost : Bool := false
  /-- The plinth has frozen the core for a save or a migration (R383, R386). -/
  held : Bool := false
  /-- Order counter for eligibility (R184). -/
  eligSeq : Nat := 0
deriving DecidableEq, Repr

/-! ### Contexts (R161, R172, R190, R228-R234, R367) -/

/-- An undecided record of a trap area (R368-R370). -/
structure TrapRec where
  core : Nat
  slot : Nat
  /-- The thread it stopped: a resident slot, a save record (16 and up), or none for a notice. -/
  thread : Bool
  type : Nat
  depth : Nat
  /-- Time of writing, for the handler watchdog (R372). -/
  since : Word
  /-- Decided, and not yet freed (R370, R375). -/
  dec : Bool := false
  /-- Its number among the records of the context, which tells it from a later one in the same slot (R133, R370). -/
  seq : Nat := 0
deriving DecidableEq, Repr

/-- A reachability contract (R396). -/
structure Contract where
  watch : Bool
  t : Nat
deriving DecidableEq, Repr

/-- What a move carries of the cores of a context (R384, R385): the cores with what their clusters hold for them. Core
numbers in it are those of the place it left. -/
structure Image where
  place : List Nat := []
  cores : List Core := []
  /-- Core and tile, the tile's words, its latch. -/
  tiles : List (Nat × Nat × Tab Word × Option Byte) := []
  /-- Cluster, its bank entries, its register of used addresses. -/
  banks : List (Nat × Tab BankEntry × Option (Option (List Word))) := []
  jobs : List Job := []
  copies : List Copy := []
  cmds : List KseCmd := []
deriving DecidableEq, Repr

/-- A context. -/
structure Ctx where
  tenant : Nat := 0
  sealed : Bool := false
  /-- Core map: virtual core to physical core (R207, R228); empty while saved. -/
  cores : List Nat := []
  /-- Slice map (R228). -/
  slices : List Nat := []
  /-- Owner map of the 512 KiB quarters, by 4·slice + quarter; unlisted means none (R190). -/
  owners : Tab Nat := []
  /-- Domain of each slice granule (R233); unlisted is 0. -/
  granules : Tab (BitVec 16) := []
  /-- Domain-rights table (R234); unlisted is 0. -/
  rights : Tab Byte := []
  /-- The local DRAM addresses of the rights table and of the slice protection table, where the runtime keeps them there and
  may write them while the context lives (R233, R234); else the two fields above are the tables. -/
  tables : Option (Nat × Nat) := none
  trbase : Word := 0
  trlog : Nat := 6
  hpc : Word := 0
  hprio : Nat := 15
  hset : List Nat := []
  hwdt : Nat := 1000000000
  preempt : Bool := true
  wakeRight : Bool := false
  launched : BitVec 32 := 0
  recs : Tab TrapRec := []
  /-- How many records have been written so far. -/
  recSeq : Nat := 0
  energy : Word := 0
  energyLatch : Option (BitVec 32) := none
  contracts : Tab Contract := []
  /-- Threads whose stop has no record yet (R369): core and slot, in order. -/
  waiting : List (Nat × Nat) := []
  /-- The pages of its trap area on which a write of a record has parked at the home agent, by their first address (R244, R369). -/
  areaParked : List Word := []
  /-- Notices that have no record yet, with the core, the slot and the thread they name, and handler tasks that wait for an inbox
  entry (R369, R371, R412). -/
  notices : List (Nat × Nat × Stop × Option Thread) := []
  handlersDue : List TaskRec := []
  /-- The heel number it must acknowledge (R407). -/
  heelDue : Option Nat := none
  /-- A migration of it is under way (R389). -/
  migrating : Bool := false
  /-- The plinth has begun to save it (R383). -/
  saving : Bool := false
  /-- Saved by the plinth: what it saved (R383). -/
  package : Image := {}
  saved : Bool := false
  /-- The save wrote its slices out: it holds none, and their images are here, with the empty words, by 2^21·c + offset (R383). -/
  out : Bool := false
  image : List Host.Cell := []
  imageEmpties : List Nat := []
  /-- It has ended; the entry stays while started engine operations of it run to their end (R372). -/
  dead : Bool := false
  /-- The bytes the runtime has loaded through the memory window before the first launch (R477). -/
  loaded : List Byte := []
  /-- Tokens its lzres obtained and its lzrel has not given back (R388). -/
  tokens : List Word := []
deriving DecidableEq, Repr


/-! ### Landing slots (R447-R453) -/

/-- States of a landing slot (R449). -/
inductive LzSt where
  | free
  | reserved (chip : Nat) (check : BitVec 16)
  | torn (chip : Nat) (check : BitVec 16) (since : Word)
deriving DecidableEq, Repr

/-- A configured landing slot; an unlisted slot is OFF. -/
structure LzSlot where
  addr : Word
  log : Nat
  sem : Nat
  srcm : BitVec 16
  tag : Nat
  st : LzSt := .free
  /-- Segments counted since the reservation (R453). -/
  counted : Nat := 0
  /-- Progress of each lzcpy into the slot: chip and copy, segments without a gap, segments beyond. -/
  streams : List (Nat × Nat × Prog) := []
deriving DecidableEq, Repr

/-! ### The queue scheduler (R191-R199, R442-R444) -/

/-- States of a queue (R193). -/
inductive QState where
  | off | idle | ready | wait | waitmem | migr | error
deriving DecidableEq, Repr

/-- A queue descriptor (R191) with the progress of its head packet. -/
structure Queue where
  base : Word := 0
  en : Bool := false
  tickets : Nat := 0
  ctx : Nat := 0
  logn : Nat := 0
  rd : BitVec 32 := 0
  wr : BitVec 32 := 0
  pass : Nat := 0
  epkt : BitVec 16 := 0
  err : Byte := 0
  st : QState := .off
  resident : Bool := false
  /-- The head packet, once the QS has read it (R194). -/
  head : List Word := []
  /-- LAUNCH (R195): the first tid, and the copies that have not been written, by their number. -/
  launch : Option (Nat × List Nat) := none
  /-- WAIT (R199): the producer its blocked packet names. -/
  producer : Option Nat := none
  /-- A SIGNAL sent and not acknowledged (R197). -/
  sent : Bool := false
  /-- The page an access of the queue waits for, since when, and the state it had (R194, R196). -/
  parked : Option (Word × Word × QState) := none
deriving DecidableEq, Repr

/-- An entry of the handler table (R439). -/
structure Handler where
  hpc : Word := 0
  en : Bool := false
  srcm : BitVec 16 := 0
  vca : Nat := 0
  sd : BitVec 2 := 0
  pmax : Nat := 0
  ctx : Nat := 0
deriving DecidableEq, Repr

/-- A queued invocation (R442, R443, R446): the handler is read at its pick; `waiting` names the tiles of a card still
to land, by their number. -/
structure Invocation where
  key : Nat
  pkt : InvPacket
  base : Option Nat := none
  written : Nat := 0
  waiting : List Nat := []
deriving DecidableEq, Repr

/-- The queue scheduler. -/
structure Qs where
  queues : Tab Queue := []
  qtbase : Word := 0
  gv : Nat := 0
  handlers : Tab Handler := []
  /-- Invocation queues by priority, oldest first. -/
  inv : Tab (List Invocation) := []
  /-- The next pick made while both kinds have work goes to the invocation queues (R443). -/
  invNext : Bool := true
  /-- Host memory written by a SIGNAL or MARKER since the last release of the QS (R252, R255). -/
  hostWrites : Bool := false
deriving DecidableEq, Repr

/-! ### Power, triggers, the safety core, migration (R388-R407) -/

/-- An island: its state, and the state it is waking to (R394). -/
structure Island where
  st : PState
  waking : Option PState := none
deriving DecidableEq, Repr

/-- States of a trigger entry (R398). -/
inductive TrigSt where
  | off | armed | firing | cooling
deriving DecidableEq, Repr

/-- A trigger entry (R397): its six words as written, and its read-only fields. -/
structure Trigger where
  w0 : Word := 0
  src : Word := 0
  value : Word := 0
  mask : Word := 0
  timeout : Word := 0
  report : Word := 0
  en : Bool := false
  st : TrigSt := .off
  last : Nat := 0
  /-- When its cooldown is over (R398). -/
  coolEnd : Word := 0
  /-- FIRING, its action waits for the DRAM to leave self-refresh (R394). -/
  due : Bool := false
deriving DecidableEq, Repr

/-- Phases of a migration (R389); of COPY, whether the context has been moved. -/
inductive MigPhase where
  | park | drain | copy (moved : Bool) | done (status : Nat)
deriving DecidableEq, Repr

/-- A migration under way (R389, R392). -/
structure Migration where
  ctx : Nat
  target : Nat
  phase : MigPhase
  tstart : Word
  tend : Word := 0
  bytes : Nat := 0
  lag : Word := 0
  timeout : Word
  report : Word
  /-- The trigger entry or the queue that asked for it. -/
  trigger : Option Nat := none
  queue : Option Nat := none
  /-- How many words of the report have been written, and the page at whose home agent the next is parked (R244, R392). -/
  sent : Nat := 0
  parked : Option Word := none
deriving DecidableEq, Repr

/-- The safety core's freeze (R405). -/
inductive Freeze where
  | none | freezing | frozen
deriving DecidableEq, Repr

/-- The safety core and its registers (R404-R407, R484). -/
structure Heel where
  freeze : Freeze := .none
  count : Word := 0
  ackwin : Nat := 10
  dumpbase : Word := 0
  /-- When the acknowledgement window ends. -/
  deadline : Option Word := .none
  /-- When the freeze began (R390). -/
  since : Word := 0
deriving DecidableEq, Repr

/-! ### The system cache (R241) -/

/-- A line of a bank: its canonical line number, the local DRAM line it was filled from, and whether a write to it has not
reached DRAM. The bytes of a line and of its frame are held once, in `mem`. -/
structure CacheLine where
  line : Nat
  frame : Nat
  dirty : Bool
deriving DecidableEq, Repr

/-! ### The fabric (R431-R436) -/

/-- A leash port (R431-R433). -/
structure LeashPort where
  up : Bool := false
  fenced : Bool := false
  neighbour : Option Nat := none
  /-- Next sequence number to send, and the flits unacknowledged: sequence number, VC, replays. -/
  txSeq : Nat := 0
  replay : List (Nat × Nat × Nat) := []
  /-- Flits of each VC that wait for room in the replay buffer. -/
  waiting : List Nat := []
  rxSeq : Nat := 0
  /-- Payloads accepted: VC, whether a head, payload. -/
  rx : List (Nat × Bool × BitVec 208) := []
  /-- The destination of the packet that each VC brings in (R434). -/
  toward : Tab Nat := []
  /-- Link-control content that is repeated until it is acknowledged (R433). -/
  ctl : Option LinkControl := none
  /-- Time of the last acknowledgement, or from which flits are outstanding. -/
  heard : Word := 0
deriving DecidableEq, Repr

/-- Packets this chip sends to another (R435). -/
inductive Packet where
  | access (n : Nat) (addr : Word) (acc : Access)
  | invoke (p : InvPacket)
  | segment (s : LzSegment)
  | lzAnswer (tag : Nat) (v : Word)
  | invAnswer (tag : Nat) (v : Nat)
  | answer (tag : Nat) (r : Reply)
deriving DecidableEq, Repr

/-- What the chip has sent to the world outside it; nothing in the chip reads it back. -/
inductive Out where
  /-- A packet to another chip; one of a sealed context carries its tag in one more flit (R476). -/
  | fabric (chip vc : Nat) (p : Packet) (sealedCtx : Bool := false)
  /-- A PCI Express request to a host bus address, with Relaxed Ordering or without. -/
  | hostRead (addr : Nat) (size : Nat)
  | hostWrite (addr : Nat) (bytes : List Byte) (relaxed : Bool)
  | hostAtomic (addr : Nat) (acc : Access)
  | msix (vec : Nat)
  /-- A host read of a register or through the memory window completes with a value. -/
  | readDone (off : Nat) (size : Nat) (v : Word)
  /-- A link-control flit leaves by a port. -/
  | linkCtl (port : Nat) (ctl : LinkControl)
  /-- The safety core receives a report: a heel at the thermal trip, a lasting error. -/
  | toSc (why : Byte) (arg : Nat)
  /-- The safety core receives a copy of the record of a thread (R410). -/
  | scRecord (core slot : Nat) (words : List (Nat × Word))
  /-- A flit of a packet that crosses this chip leaves by a port: the VC, whether it is the head, the payload (R434). -/
  | transit (port vc : Nat) (head : Bool) (pay : BitVec 208)
  /-- A packet for a chip that this chip cannot reach is refused here (R434). -/
  | refusedTransit (chip vc : Nat)
deriving DecidableEq, Repr

/-! ### The host interface (R421-R430, R478-R486) -/

/-- A fault record before it is posted (R428). -/
structure FaultRec where
  kind : Byte
  sub : Byte
  arg : BitVec 16
  ctx : Nat
  addr : Word
  info : Word
deriving DecidableEq, Repr

/-- A mediated request, posted or waiting (R429). -/
structure MedReq where
  req : Nat
  hostAddr : Nat
deriving DecidableEq, Repr

/-- The host interface block and its queues (R427, R429, R482, R424). -/
structure HostIf where
  fqbase : Word := 0
  fqlog : Nat := 0
  fqwr : BitVec 32 := 0
  fqrd : BitVec 32 := 0
  fqmod : BitVec 16 := 0
  mqbase : Word := 0
  mqlog : Nat := 0
  mqwr : BitVec 32 := 0
  mqrd : BitVec 32 := 0
  mqmod : BitVec 16 := 0
  meden : Bool := false
  winbase : Word := 0
  winctx : Nat := 0
  /-- Fault records that wait to be posted, oldest first. -/
  faults : List FaultRec := []
  /-- Last raise of vectors 256 and 257, and whether a raise waits for the interval (R482). -/
  raised : Tab Word := []
  moderated : List Nat := []
  /-- MSI-X table: four 32-bit words of each vector as two 64-bit words, and the pending bits. -/
  msixTable : Tab Word := []
  msixPending : List Nat := []
  /-- AtomicOp Requester Enable of Device Control 2 (R271). -/
  atomicEnable : Bool := false
  /-- The requests that are posted, by tag, and the values written to MREPLY t (R429, R430). -/
  tags : Tab MedReq := []
  mreply : Tab Word := []
deriving DecidableEq, Repr

/-- The other management registers (R479-R486). -/
structure Mgmt where
  /-- Interval block (R483). -/
  pevict : Nat := 2000
  fpark : Nat := 50
  quiet : Nat := 100
  meidle : Nat := 16384
  bidle : Nat := 10
  /-- Power block (R484). -/
  pkgw : Nat := 180
  tjthr : Nat := 95
  /-- Commands (R481): the parameter word, the two entry words, and the running command. -/
  param : Word := 0
  entry0 : Word := 0
  entry1 : Word := 0
  busy : Option Word := none
  /-- The stores an invalidation command waits for, as a thread's `waitsFor` (R237). -/
  waitsFor : List (Nat × Nat × Nat) := []
  /-- Debug (R483). -/
  attach : Bool := false
  dbgCtx : Nat := 0
  dbgOk : Bool := false
  /-- Kills decided and still running: context and record (R483). -/
  dbgKill : List (Nat × Nat) := []
  /-- Flash port (R485). -/
  faddr : Nat := 0
  fbusy : Bool := false
  denied : Bool := false
  fbuf : List Host.Cell := []
  /-- Error counters (R485): SRAMCE, SRAMDE, DRAMCE, DRAMDE, EXRETRY, LASTING, LINKREP0-3, WINERR. -/
  counters : Tab Nat := []
  /-- Attestation (R486): ACTX, ANONCE, ERR, BUSY, and AREP's bytes, unlisted zero. -/
  actx : Nat := 0
  anonce : BitVec 384 := 0
  aerr : Bool := false
  abusy : Bool := false
  arep : List Host.Cell := []
deriving DecidableEq, Repr

/-- How far the start has come (R469). -/
inductive Boot where
  /-- Held in reset until every rail is in range (R488). -/
  | held
  /-- Before step 1. -/
  | rom
  /-- The plinth is released: step 6, with the watchdog running. -/
  | plinth
  | done
  | maquette
deriving DecidableEq, Repr

/-- The identity and boot block, the flash and what the armature table gave (R468-R473, R479). -/
structure BootRegs where
  phase : Boot := .rom
  /-- When the plinth watchdog was started last (R469, R487). -/
  wdog : Word := 0
  slotB : Bool := false
  reasons : BitVec 24 := 0
  meas0 : BitVec 384 := 0
  meas1 : BitVec 384 := 0
  armature : Armature := { width := 4, ranks := [], curves := [] }
  /-- The flash's bytes; an unlisted byte reads 0xFF. -/
  flash : List Host.Cell := [(0x10400, 0#8), (0x10401, 0#8), (0x10402, 0#8), (0x10403, 0#8)]
deriving DecidableEq, Repr

/-! ### The whole chip -/

/-- One thing that happens next: a cycle of a core, an event, or an event that happens only if its occasion is present. -/
inductive Move where
  | cycle (core : Nat)
  | event (i : Instr)
  | offer (i : Instr)
deriving DecidableEq, Repr

/-- The state of a chip. -/
structure State where
  /-- The MODEL's own: what happens next, the rounds of cycles since the last tick of time, the thread whose instruction is
  being executed, and the counter of free values. -/
  agenda : List Move := []
  turn : Nat := 0
  cur : Option (Nat × Nat) := none
  freeCtr : Nat := 0
  /-- The time register in nanoseconds (R25, R490). -/
  time : Word := 0
  /-- Memory (R226): SRAM slice s, offset o at s·2^21 + o; local DRAM address a at 2^40 + a. Unlisted reads 0. -/
  mem : List Host.Cell := []
  /-- The SRAM words whose full/empty bit is empty, by their address, rising (R231). -/
  empties : List Nat := []
  /-- The key index of each 128 KiB frame of local DRAM: its context; unlisted is 0, the device (R475). -/
  keyIndex : Tab Nat := []
  /-- Fenced 4 KiB blocks, by block number (R412). -/
  fencedBlocks : List Nat := []
  cores : Tab Core := []
  clusters : Tab Cluster := []
  /-- Landing slots, by 16·core + slot. -/
  lz : Tab LzSlot := []
  ctxs : Tab Ctx := []
  /-- Root tables: TROOT w at w, DROOT at 256; unlisted has no mapping (R238). -/
  roots : Tab Word := []
  /-- Translation caches (R242): agent and entry address with its two words. -/
  tcache : List (Nat × Nat × Word × Word) := []
  /-- The system cache (R241): the lines of set i of bank b at 4096·b + i, most recently used first. -/
  sysCache : Tab (List CacheLine) := []
  /-- Pages with a fault record posted at an agent, a 32 MiB page with bit 0 set (R244). -/
  posted : List (Nat × Word) := []
  /-- Requests of the die (R243), by number. -/
  reqs : Tab Req := []
  nextReq : Nat := 0
  /-- Requests counted as outstanding (R377), by number. -/
  inflight : Tab Inflight := []
  /-- Invocations of the chip's own threads that are not answered: the sender's core and slot (R441). -/
  localInv : List (Nat × Nat × InvPacket) := []
  /-- Messages on their way to a mailbox queue: core and message (R188). -/
  messages : List (Nat × Msg) := []
  /-- Ranges of the route cache that are mediated, most recent first (R271). -/
  routes : List Word := []
  qs : Qs := {}
  burst : Island := ⟨.off, none⟩
  watch : Island := ⟨.active, none⟩
  /-- DRAM in self-refresh, or leaving it (R394). -/
  selfRefresh : Bool := false
  dramExit : Bool := false
  /-- The times at which the burst island, the watch island and the DRAM were last in use (R394). -/
  burstUsed : Word := 0
  watchUsed : Word := 0
  dramUsed : Word := 0
  /-- Clock of each quad in MHz; unlisted is the nominal clock of its island (R1, R402). -/
  clocks : Tab Nat := []
  /-- The frequency each burst core requests, in MHz; unlisted is 500 (R402). -/
  requests : Tab Nat := []
  triggers : Tab Trigger := []
  migrations : List Migration := []
  heel : Heel := {}
  /-- Routing table of the fabric (R434): 0-3, 4 the chip itself, 7 absent; unlisted is 7. -/
  routing : Tab Nat := []
  ports : Tab LeashPort := []
  host : HostIf := {}
  mgmt : Mgmt := {}
  boot : BootRegs := {}
  /-- What has been sent out of the chip, newest first. -/
  out : List Out := []
deriving DecidableEq, Repr

/-- Why the model stops without a next state. -/
inductive Fault where
  /-- Raised by every thread instruction when no thread is executing: `cur` names no resident thread. No run of `step`
  reaches it (step names the thread first). Safe: the model stops where the hardware has no such situation. -/
  | noThread
deriving DecidableEq, Repr

/-- Why the model gives an instruction or an event no next state. -/
inductive Refusal where
  /-- An instruction whose meaning is not written. Raised by `exec` alone. Safe. -/
  | notModelled (mnemonic : String)
  /-- An event whose occasion is not present in this state, for example a completion with nothing running, named by its
  row. Raised by the events' meanings. Safe: the hardware does not take such a step. -/
  | cannotOccur (event : String)
deriving DecidableEq, Repr

/-- The chip right after reset (R469 before step 1): no context but context 0, the device, memory listing nothing, every
register at the value the spec states for reset, and at the value the log names where it states none. -/
def State.reset : State := { ctxs := [(0, {})] }

end Sys2Proof.Machine
end

