-- ==== Sys2Proof/Machine/Mem.lean ====
section
/-! DEFINITION. Sparse tables, bytes of memory in canonical form, and full/empty bits (R28, R231). -/

namespace Sys2Proof.Machine

/-! ### Sparse tables -/

namespace Tab
variable {α : Type}

/-- The entry of a number. -/
def get? : Tab α → Nat → Option α
  | [], _ => none
  | (k, v) :: t, n => if k = n then some v else get? t n

/-- The entry of a number, or a default. -/
def getD (t : Tab α) (n : Nat) (d : α) : α := (get? t n).getD d

/-- Enter a value, keeping the numbers rising. -/
def set : Tab α → Nat → α → Tab α
  | [], n, x => [(n, x)]
  | (k, v) :: t, n, x => if n < k then (n, x) :: (k, v) :: t else if n = k then (n, x) :: t else (k, v) :: set t n x

/-- Remove an entry. -/
def erase : Tab α → Nat → Tab α
  | [], _ => []
  | (k, v) :: t, n => if k = n then t else (k, v) :: erase t n

/-- Change an entry that is there. -/
def update (t : Tab α) (n : Nat) (f : α → α) : Tab α :=
  match get? t n with
  | some v => set t n (f v)
  | none => t

/-- The lowest number at or above `n`, within `fuel`, that has no entry. -/
def free (t : Tab α) (n : Nat) : Nat → Option Nat
  | 0 => none
  | fuel + 1 => if (get? t n).isNone then some n else free t (n + 1) fuel

/-- Change every entry. -/
def mapV : Tab α → (Nat → α → α) → Tab α
  | [], _ => []
  | (k, v) :: t, f => (k, f k v) :: mapV t f

/-- Keep the entries that pass. -/
def filterV : Tab α → (Nat → α → Bool) → Tab α
  | [], _ => []
  | (k, v) :: t, f => if f k v then (k, v) :: filterV t f else filterV t f

end Tab

/-! ### Memory -/

namespace Mem

/-- The byte at an address; an unlisted address reads 0 (log entry 4). -/
def byte : List Host.Cell → Nat → Byte
  | [], _ => 0#8
  | (k, v) :: t, a => if k = a then v else byte t a

/-- Write a byte, keeping the canonical form: addresses rising, and no zero byte listed. -/
def setByte : List Host.Cell → Nat → Byte → List Host.Cell
  | [], a, b => if b = 0#8 then [] else [(a, b)]
  | (k, v) :: t, a, b =>
    if a < k then (if b = 0#8 then (k, v) :: t else (a, b) :: (k, v) :: t)
    else if a = k then (if b = 0#8 then t else (a, b) :: t)
    else (k, v) :: setByte t a b

/-- The form of a memory above an address: addresses rising, no zero byte listed. -/
def okFrom : Nat → List Host.Cell → Bool
  | _, [] => true
  | n, (k, v) :: t => decide (n ≤ k) && v != 0#8 && okFrom (k + 1) t

/-- The canonical form of a memory. -/
def wf (m : List Host.Cell) : Bool := okFrom 0 m

/-- Little-endian value of `n` bytes from an address (R28). -/
def read (m : List Host.Cell) (a : Nat) : Nat → Nat
  | 0 => 0
  | n + 1 => (byte m a).toNat + 256 * read m (a + 1) n

/-- Write the low `n` bytes of a value, little-endian (R28). -/
def write (m : List Host.Cell) (a : Nat) : Nat → Nat → List Host.Cell
  | 0, _ => m
  | n + 1, v => write (setByte m a (BitVec.ofNat 8 v)) (a + 1) n (v / 256)

/-- Write the bytes of a 512-bit value whose enable bit is set (R121, R124). -/
def writeEn (m : List Host.Cell) (a : Nat) (v : Vec) (en : BitVec 64) : Nat → List Host.Cell
  | 0 => m
  | n + 1 =>
    let m' := writeEn m a v en n
    if en.getLsbD n then setByte m' (a + n) (v.extractLsb' (8 * n) 8) else m'

/-- Bytes of a list, written from an address. -/
def writeBytes (m : List Host.Cell) (a : Nat) : List Byte → List Host.Cell
  | [] => m
  | b :: t => writeBytes (setByte m a b) (a + 1) t

/-- `n` bytes from an address. -/
def bytes (m : List Host.Cell) (a n : Nat) : List Byte := (List.range n).map fun i => byte m (a + i)

end Mem

/-! ### Sets of numbers, rising -/

namespace NatSet

def insert : List Nat → Nat → List Nat
  | [], n => [n]
  | k :: t, n => if n < k then n :: k :: t else if n = k then k :: t else k :: insert t n

def erase : List Nat → Nat → List Nat
  | [], _ => []
  | k :: t, n => if k = n then t else k :: erase t n

/-- The numbers rise strictly from a bound. -/
def okFrom : Nat → List Nat → Bool
  | _, [] => true
  | n, k :: t => decide (n ≤ k) && okFrom (k + 1) t

end NatSet

/-! ### Physical addresses: SRAM slice s, offset o at s·2^21 + o; local DRAM address a at 2^40 + a -/

/-- The bytes of the SRAM slices, 146 of 2 MiB (R3, R228). -/
def sramEnd : Nat := 146 * 2 ^ 21

/-- Where the local DRAM begins in the model's numbering. -/
def dramBase : Nat := 2 ^ 40

/-- The physical address of a byte of a slice. -/
def sramAt (slice off : Nat) : Nat := slice * 2 ^ 21 + off

/-- The full/empty bit of the 64-bit SRAM word that holds a byte (R231); a word outside SRAM has none and counts full. -/
def State.full (s : State) (a : Nat) : Bool := !(s.empties.contains (a / 8 * 8))

/-- Set a word full. -/
def State.setFull (s : State) (a : Nat) : State := { s with empties := NatSet.erase s.empties (a / 8 * 8) }

/-- Set a word empty. -/
def State.setEmpty (s : State) (a : Nat) : State := { s with empties := NatSet.insert s.empties (a / 8 * 8) }

/-- A byte of memory at a physical address. -/
def State.byte (s : State) (a : Nat) : Byte := Mem.byte s.mem a

/-- A value of `n` bytes at a physical address. -/
def State.read (s : State) (a n : Nat) : Nat := Mem.read s.mem a n

/-- The 64-bit word at a physical address. -/
def State.word (s : State) (a : Nat) : Word := BitVec.ofNat 64 (s.read a 8)

/-- Write the low `n` bytes of a value; full/empty bits stay (R231). -/
def State.write (s : State) (a n v : Nat) : State := { s with mem := Mem.write s.mem a n v }

/-- Write the enabled bytes of a store (R121). -/
def State.writeEn (s : State) (a : Nat) (v : Vec) (en : BitVec 64) : State :=
  { s with mem := Mem.writeEn s.mem a v en 64 }

/-- Set full every SRAM word from the one of `a` on, `n` of them. -/
def State.fillWords (s : State) (a : Nat) : Nat → State
  | 0 => s
  | n + 1 => if a < sramEnd then (s.setFull a).fillWords (a + 8) n else s

/-- An engine's write of bytes: SRAM words it touches become full (R231). -/
def State.engineWrite (s : State) (a : Nat) (l : List Byte) : State :=
  if l.isEmpty then s else
  ({ s with mem := Mem.writeBytes s.mem a l }).fillWords (a / 8 * 8) ((a + l.length - 1) / 8 - a / 8 + 1)

/-- The byte lies in a fenced 4 KiB block (R412). -/
def State.fencedAt (s : State) (a : Nat) : Bool := s.fencedBlocks.contains (a / 4096)

/-- A free word, and the state with the counter advanced. -/
def State.freeWord (s : State) : Word × State :=
  (Config.freeWord s.freeCtr, { s with freeCtr := s.freeCtr + 1 })

end Sys2Proof.Machine
end

