-- ==== Sys2Proof/Machine/Translate.lean ====
section
/-! DEFINITION. Units and their numbers (R3-R7), the address map, rights, and translation (R226-R246). -/

namespace Sys2Proof.Machine

/-! ### Numbers of units -/

def quadOf (core : Nat) : Nat := core / 4
def clusterOf (core : Nat) : Nat := core / 8
/-- 0 burst, 1 watch (R3). -/
def islandOf (core : Nat) : Nat := if core < 512 then 0 else 1
/-- Row and position of the neighbour links (R5). -/
def rowOf (core : Nat) : Nat := if core < 512 then core / 32 else 16 + (core - 512) / 8
def posOf (core : Nat) : Nat := if core < 512 then core % 32 else (core - 512) % 8
/-- The neighbour to the east or west, none at a row end (R5). -/
def neighbour (core : Nat) (east : Bool) : Option Nat :=
  if east then (if core + 1 < 528 ∧ rowOf (core + 1) = rowOf core then some (core + 1) else none)
  else (if 0 < core ∧ rowOf (core - 1) = rowOf core then some (core - 1) else none)
/-- The steal region (R179): a region of 128 cores, or the watch island. -/
def regionOf (core : Nat) : Nat := if core < 512 then core / 128 else 4

/-- The bytes of a number, little-endian. -/
def leBytes : Nat → Nat → List Byte
  | 0, _ => []
  | n + 1, v => BitVec.ofNat 8 v :: leBytes n (v / 256)

/-! ### Looking things up -/

def State.core (s : State) (c : Nat) : Core := s.cores.getD c {}
def State.setCore (s : State) (c : Nat) (k : Core) : State := { s with cores := Tab.set s.cores c k }
def State.updCore (s : State) (c : Nat) (f : Core → Core) : State := s.setCore c (f (s.core c))
def State.cluster (s : State) (c : Nat) : Cluster := s.clusters.getD c {}
def State.setCluster (s : State) (c : Nat) (k : Cluster) : State := { s with clusters := Tab.set s.clusters c k }
def State.updMe (s : State) (c : Nat) (f : Me → Me) : State :=
  s.setCluster c { s.cluster c with me := f (s.cluster c).me }
def State.updCe (s : State) (c : Nat) (f : Ce → Ce) : State :=
  s.setCluster c { s.cluster c with ce := f (s.cluster c).ce }
def State.updKse (s : State) (c : Nat) (f : Kse → Kse) : State :=
  s.setCluster c { s.cluster c with kse := f (s.cluster c).kse }
def State.thread (s : State) (c k : Nat) : Option Thread := (s.core c).slots.get? k
def State.setThread (s : State) (c k : Nat) (t : Thread) : State :=
  s.updCore c fun x => { x with slots := Tab.set x.slots k t }
def State.dropThread (s : State) (c k : Nat) : State := s.updCore c fun x => { x with slots := Tab.erase x.slots k }
def State.updThread (s : State) (c k : Nat) (f : Thread → Thread) : State :=
  match s.thread c k with
  | some t => s.setThread c k (f t)
  | none => s
def State.ctx (s : State) (n : Nat) : Option Ctx := s.ctxs.get? n
def State.setCtx (s : State) (n : Nat) (x : Ctx) : State := { s with ctxs := Tab.set s.ctxs n x }
def State.updCtx (s : State) (n : Nat) (f : Ctx → Ctx) : State := { s with ctxs := Tab.update s.ctxs n f }
/-- The context a core belongs to, 0 for a core in none. -/
def State.ctxOf (s : State) (c : Nat) : Nat := (s.core c).ctx.getD 0

/-- A core of the plinth column (R7, R470). -/
def State.isPlinth (s : State) (c : Nat) : Bool := decide (528 - s.boot.armature.width ≤ c) && decide (c < 528)
/-- A thread of the core is privileged (R25). -/
def State.privileged (s : State) (c : Nat) : Bool := s.isPlinth c
/-- The virtual core number of a core in its context (R25, R228). -/
def State.vcore (s : State) (c : Nat) : Nat :=
  match s.ctx (s.ctxOf c) with
  | some x => x.cores.idxOf c
  | none => 0
/-- The chip's own number: the routing entry with code 4 (R431, R434); 0 without one. -/
def State.ownChip (s : State) : Nat := ((List.range 16).find? fun n => s.routing.getD n 7 == 4).getD 0
/-- The port a packet to a chip leaves by, none when the chip is unreachable (R434, R436). -/
def State.portTo (s : State) (chip : Nat) : Option Nat :=
  let p := s.routing.getD chip 7
  if p < 4 ∧ (s.ports.getD p {}).up then some p else none
/-- A chip can be reached, the own chip included (R436). -/
def State.reachable (s : State) (chip : Nat) : Bool := s.routing.getD chip 7 == 4 || (s.portTo chip).isSome
/-- Count an error or an event of R485. -/
def State.count (s : State) (n : Nat) : State :=
  { s with mgmt := { s.mgmt with counters := Tab.set s.mgmt.counters n (min (s.mgmt.counters.getD n 0 + 1) (2 ^ 64 - 1)) } }
/-- The flits of a packet: a head, and 26 payload bytes in each body flit (R432). -/
def Packet.flits : Packet → Nat
  | .access _ _ (.write _ _) => 4
  | .invoke _ => 4
  | .segment g => 1 + (g.data.length + 25) / 26
  | .answer _ (.val _) => 4
  | _ => 2
/-- A context is sealed (R476). -/
def State.sealed (s : State) (n : Nat) : Bool := ((s.ctx n).getD {}).sealed
/-- Flits enter the replay buffer of 512, or wait for room in it (R433). -/
def LeashPort.push (p : LeashPort) (vc : Nat) (now : Word) : Nat → LeashPort
  | 0 => p
  | n + 1 =>
    let p := { p with heard := if p.replay.isEmpty then now else p.heard }
    let p := if p.replay.length < 512 then { p with replay := p.replay ++ [(p.txSeq, vc, 0)], txSeq := (p.txSeq + 1) % 1024 }
      else { p with waiting := p.waiting ++ [vc] }
    p.push vc now n
/-- Send something out of the chip: a packet to another chip as flits of its port, one to a chip that cannot be reached being
refused here (R434). -/
def State.emit (s : State) (o : Out) : State :=
  match o with
  | .fabric chip vc p tag => match s.portTo chip with
    | some k =>
      { s with out := o :: s.out, ports := Tab.set s.ports k ((s.ports.getD k {}).push vc s.time (p.flits + tag.toNat)) }
    | none => { s with out := .refusedTransit chip vc :: s.out }
  | _ => { s with out := o :: s.out }

/-- The DRAM is in use (R394). -/
def State.touchDram (s : State) : State := { s with dramUsed := s.time }

/-! ### The address map (R226-R229) -/

/-- Where an address lies: a context slice and offset, a canonical translated address, or management space. -/
inductive Region where
  | sram (c o : Nat)
  | paged (a : Word)
  | mgmt (off : Nat)
  | none
deriving DecidableEq, Repr

def windowBase : Nat := 0x0080000000000000
def privateBase : Nat := 0x0100000000000000
def sramBase : Nat := 0xFE00000000000000
def mgmtBase : Nat := 0xFF00000000000000

/-- The row of R226 an address falls in, an alias taken to the tenant's window (R227). -/
def region (tenant : Nat) (a : Word) : Region :=
  let n := a.toNat
  if n < 2 ^ 47 then .paged (Word.ofNat (windowBase + tenant * 2 ^ 47 + n))
  else if windowBase ≤ n ∧ n < privateBase then .paged a
  else if privateBase ≤ n ∧ n < privateBase + 2 ^ 47 then .paged a
  else if sramBase ≤ n ∧ n < sramBase + 2 ^ 29 then .sram ((n - sramBase) / 2 ^ 21) (n % 2 ^ 21)
  else if mgmtBase ≤ n then .mgmt (n - mgmtBase)
  else .none

/-- The row of R226 a span of an engine may lie in, as a number; none for management space and the unmapped rows. -/
def spanRow (a : Word) : Option Nat :=
  let n := a.toNat
  if n < 2 ^ 47 then some 0
  else if windowBase ≤ n ∧ n < privateBase then some 1
  else if privateBase ≤ n ∧ n < 0x0200000000000000 then some 2
  else if sramBase ≤ n ∧ n < sramBase + 2 ^ 29 then some 3
  else none

/-- A context slice and offset as a physical address, none beyond the slice count (R228). -/
def Ctx.phys (x : Ctx) (c o : Nat) : Option Nat := (x.slices[c]?).map fun p => sramAt p o

/-- The spill regions at the top of a quad slice (R229). -/
def inSpill (phys : Nat) : Bool := decide (phys < 132 * 2 ^ 21) && decide (0x1C0000 ≤ phys % 2 ^ 21)

/-! ### Device tables (R238-R240) -/

/-- What a walk finds: a leaf with its page base, size, and words; a leaf whose frame address or LOC makes it malformed, which
a rights fill does not read (R236); a page that is not present, with the words of the entry that says so; or no mapping,
malformed or not. -/
inductive Walk where
  | leaf (base size : Nat) (w0 w1 : Word)
  | badFrame (base size level : Nat) (w0 w1 : Word)
  | absent (base : Nat) (w1 : Word)
  | invalid (malformed : Bool) (level : Nat) (w0 : Word)
deriving DecidableEq, Repr

/-- An entry with V = 1 that the device treats as invalid for its shape, its reserved fields or its table's address (R240). -/
def malformed (level : Nat) (w0 w1 : Word) : Bool :=
  let t := w0.getLsbD 4
  (t && level == 2) || (!t && level == 0) || w0.extractLsb' 5 7 != 0 || w1.extractLsb' 20 44 != 0
  || (t && level == 0 && w0.extractLsb' 12 3 != 0)

/-- A leaf that the device treats as invalid for the address or the chip of its frame (R240). -/
def State.badFrame (s : State) (level : Nat) (w0 w1 : Word) : Bool :=
  !w0.getLsbD 4 && ((level == 1 && w0.extractLsb' 12 13 != 0) || (level == 2 && w0.extractLsb' 12 5 != 0)
  || (w0.extractLsb' 2 2 == 2#2 && s.routing.getD (w1.extractLsb' 16 4).toNat 7 ≥ 5))

/-- The walk from a table at one level (R238). `off` is the offset in the window, `canon` the canonical address. -/
def State.walkFrom (s : State) (canon off : Nat) : Nat → Nat → Nat → Walk
  | 0, level, _ => .invalid true level 0
  | fuel + 1, level, table =>
    let shift := if level = 0 then 36 else if level = 1 then 25 else 17
    let idx := off / 2 ^ shift % (if level = 2 then 256 else 2048)
    let a := dramBase + table + 16 * idx
    let w0 := s.word a
    let w1 := s.word (a + 8)
    if !w0.getLsbD 0 then .invalid false level w0
    else if malformed level w0 w1 then .invalid true level w0
    else if s.badFrame level w0 w1 then .badFrame (canon / 2 ^ shift * 2 ^ shift) (2 ^ shift) level w0 w1
    else if w0.getLsbD 4 then
      if w0.getLsbD 1 then s.walkFrom canon off fuel (level + 1) (w0.toNat / 4096 * 4096)
      else .absent (canon / 2 ^ 17 * 2 ^ 17) w1
    else .leaf (canon / 2 ^ shift * 2 ^ shift) (2 ^ shift) w0 w1

/-- Walk the device tables for a canonical address (R238). -/
def State.walk (s : State) (a : Word) : Walk :=
  let n := a.toNat
  let (root, off) := if privateBase ≤ n then (256, n - privateBase) else ((n - windowBase) / 2 ^ 47, n % 2 ^ 47)
  match s.roots.get? root with
  | none => .invalid false 0 0
  | some t => s.walkFrom n off 3 0 t.toNat

/-- The home agent of an address (R242). -/
def homeAgent (a : Word) : Nat :=
  ((a.extractLsb' 6 4) ^^^ (a.extractLsb' 10 4) ^^^ (a.extractLsb' 14 4) ^^^ (a.extractLsb' 18 4)).toNat

/-- What a home agent makes of an address (R243). -/
inductive Trans where
  | dram (phys : Nat)
  | host (addr : Nat)
  | chip (chip addr : Nat)
  | absent
  | refused (malformed : Bool) (level : Nat) (w0 : Word)
deriving DecidableEq, Repr

/-- A leaf applied to an address (R239, R243). -/
def leafTrans (a : Word) (size : Nat) (w0 w1 : Word) : Trans :=
  let off := a.toNat % size
  let addr := w0.toNat / 4096 * 4096 + off
  match (w0.extractLsb' 2 2).toNat with
  | 3 => .refused false 3 w0
  | loc =>
    if !w0.getLsbD 1 then .absent
    else if loc = 0 then .dram (dramBase + addr)
    else if loc = 1 then .host addr
    else .chip (w1.extractLsb' 16 4).toNat addr

/-- The page base a translation-cache entry is kept under: bit 0 tells a 32 MiB page. -/
def pageKey (base size : Nat) : Nat := if size = 2 ^ 25 then base + 1 else base

/-- A cached leaf of an agent for an address (R242). -/
def State.cached (s : State) (agent : Nat) (a : Word) : Option (Nat × Word × Word) :=
  let small := a.toNat / 2 ^ 17 * 2 ^ 17
  let big := a.toNat / 2 ^ 25 * 2 ^ 25 + 1
  match s.tcache.find? fun e => e.1 == agent && (e.2.1 == small || e.2.1 == big) with
  | some (_, k, w0, w1) => some (if k % 2 = 1 then 2 ^ 25 else 2 ^ 17, w0, w1)
  | none => none

/-- An agent's translation cache takes an entry, and keeps 2,048 (R242): a full one drops that which came longest ago
(DESIGN CHOICE, log entry 66). -/
def cacheEntry (l : List (Nat × Nat × Word × Word)) (e : Nat × Nat × Word × Word) : List (Nat × Nat × Word × Word) :=
  e :: ((l.filter fun x => x.1 == e.1).take 2047 ++ l.filter fun x => x.1 != e.1)

/-- A frame on the chip's own number lies in local DRAM (R239, R434). -/
def State.here (s : State) : Trans → Trans
  | .chip c a => if s.routing.getD c 7 = 4 then .dram (dramBase + a) else .chip c a
  | t => t

/-- The entry of an address at its home agent, through its translation cache (R242, R243). -/
def State.translateEntry (s : State) (a : Word) : Trans × State :=
  let agent := homeAgent a
  match s.cached agent a with
  | some (size, w0, w1) => (s.here (leafTrans a size w0 w1), s)
  | none =>
    match s.walk a, s.touchDram with
    | .leaf base size w0 w1, s =>
      -- An entry that is not present is not kept, so that the reissue after a wake reads the table again (R244).
      let t := s.here (leafTrans a size w0 w1)
      if t = .absent then (t, s)
      else (t, { s with tcache := cacheEntry s.tcache (agent, pageKey base size, w0, w1) })
    | .absent _ _, s => (.absent, s)
    | .badFrame _ _ l w0 _, s => (.refused true l w0, s)
    | .invalid m l w0, s => (.refused m l w0, s)

/-- The entry of a page says that its frame lies in host memory or has a chip's number, this chip's among them (R239, R283, R350). -/
def State.outsidePage (s : State) (p : Word) : Bool :=
  let off := fun (w0 : Word) => w0.extractLsb' 2 2 == 1#2 || w0.extractLsb' 2 2 == 2#2
  match s.cached (homeAgent p) p with
  | some (_, w0, _) => off w0
  | none => match s.walk p with
    | .leaf _ _ w0 _ => off w0
    | _ => false

/-! ### The system cache (R241, R243) -/

/-- The bank and set of an address: the bank of its home agent, 4,096 sets of 16 lines (R241; log entry 6). -/
def cacheSet (a : Word) : Nat := 4096 * homeAgent a + a.toNat / 2 ^ 10 % 4096

/-- The line of a bank that holds an address (R241). -/
def State.bankLine (s : State) (a : Word) : Option CacheLine :=
  (s.sysCache.getD (cacheSet a) []).find? fun l => l.line == a.toNat / 64

/-- Where an access that is no atomic goes: a hit needs no translation (R241, R243). -/
def State.translate (s : State) (a : Word) : Trans × State :=
  match s.bankLine a with
  | some l => (.dram (64 * l.frame + a.toNat % 64), s)
  | none => s.translateEntry a

/-- A home agent must read the device tables for an address: neither its translation cache nor, for an access that is no atomic,
its bank decides (R242, R243). -/
def State.walks (s : State) (p : Word) (amo : Bool) : Bool :=
  (amo || (s.bankLine p).isNone) && (s.cached (homeAgent p) p).isNone

/-- An access to a line must wait for the DRAM to leave self-refresh (R394). -/
def State.sleeps (s : State) (a : Word) : Bool := s.selfRefresh && (s.bankLine a).isNone

/-- The page's frame is in local DRAM by LOC 0b00, the only lines a bank holds (R241). -/
def State.cacheable (s : State) (a : Word) : Bool :=
  match s.cached (homeAgent a) a with
  | some (_, w0, _) => w0.extractLsb' 2 2 == 0#2
  | none => false

/-- Fill or update the bank with the line of an access to DRAM, written or read; a set keeps 16 lines, the most recently
used, and a dirty line it drops has been written back (R241, R243). -/
def State.fillLine (s : State) (a : Word) (phys : Nat) (wr : Bool) : State :=
  let set := s.sysCache.getD (cacheSet a) []
  let put := fun (l : CacheLine) => ({ s with sysCache := Tab.set s.sysCache (cacheSet a) ((l :: set.filter (·.line != l.line)).take 16) } : State)
  match set.find? fun l => l.line == a.toNat / 64 with
  | some l => put { l with dirty := l.dirty || wr }
  | none => (if s.cacheable a then put ⟨a.toNat / 64, phys / 64, wr⟩ else s).touchDram

/-- Write back the dirty lines whose numbers pass a test; they stay valid (R281). -/
def State.writeBack (s : State) (ok : Nat → Bool) : State :=
  { s with sysCache := Tab.mapV s.sysCache fun _ l => l.map fun (x : CacheLine) => if ok x.line then { x with dirty := false } else x }

/-- Some line whose number passes a test is dirty. -/
def State.dirtyLine (s : State) (ok : Nat → Bool) : Bool := s.sysCache.any fun p => p.2.any fun x => ok x.line && x.dirty

/-- Write back and drop the lines whose numbers pass a test (R246). -/
def State.dropLines (s : State) (ok : Nat → Bool) : State :=
  { s with sysCache := Tab.filterV (Tab.mapV s.sysCache fun _ l => l.filter fun x => !ok x.line) fun _ l => !l.isEmpty }

/-- A translated address that the device reads or writes by itself (tables of a context, records): its physical
address when it lies in local DRAM or the SRAM. -/
def State.diePhys (s : State) (x : Ctx) (a : Word) : Option Nat :=
  match region x.tenant a with
  | .sram c o => x.phys c o
  | .paged p => match (s.translate p).1 with
    | .dram d => some d
    | _ => none
  | _ => none

/-! ### Host memory and the memory of other chips (R256, R435, R436, R476) -/

/-- The frame and the offset in its page of a host address `h`, whose canonical address is `p`. -/
def State.hostFrame (s : State) (p : Word) (h : Nat) : Nat × Nat :=
  let size := match s.cached (homeAgent p) p with
    | some (n, _, _) => n
    | none => 2 ^ 17
  (h - p.toNat % size + size, p.toNat % size)

/-- Where the tags and nonces of the 64-byte lines of a span of a sealed context's host memory lie: frame + page size +
32·(offset/64) (R476). -/
def State.sealAt (s : State) (p : Word) (h k : Nat) : List Nat :=
  let (f, o) := s.hostFrame p h
  (List.range ((o + k - 1) / 64 + 1 - o / 64)).map fun i => f + 32 * (o / 64 + i)

/-- A read of host memory at `h`, the canonical address `p`, for a context: with a sealed one's tags and nonces (R476). -/
def State.hostRead (s : State) (n : Nat) (p : Word) (h k : Nat) : State :=
  let s := s.emit (.hostRead h k)
  if s.sealed n then (s.sealAt p h k).foldl (fun s a => s.emit (.hostRead a 28)) s else s

/-- A posted write of host memory for a context: with a sealed one's tags and nonces, whose bytes are free values (R256, R476). -/
def State.hostWrite (s : State) (n : Nat) (p : Word) (h : Nat) (bytes : List Byte) (relaxed : Bool) : State :=
  let s := s.emit (.hostWrite h bytes relaxed)
  if !s.sealed n then s else
  (s.sealAt p h bytes.length).foldl (fun (s : State) a =>
    let tag := ((List.range 4).flatMap fun i => leBytes 8 (Config.freeWord (s.freeCtr + i)).toNat).take 28
    ({ s with freeCtr := s.freeCtr + 4 } : State).emit (.hostWrite a tag relaxed)) s

/-- A place outside the die can be reached (R436). -/
def State.reaches (s : State) : Trans → Bool
  | .chip c _ => (s.portTo c).isSome
  | _ => true

/-- A read of a place outside the die goes out: to the host, or to another chip on VC 1 (R256, R435). -/
def State.readOutside (s : State) (n : Nat) (p : Word) (k : Nat) : Trans → State
  | .host h => s.hostRead n p h k
  | .chip c a => ({ s with nextReq := s.nextReq + 1 } : State).emit (.fabric c 1 (.access s.nextReq (Word.ofNat a) (.read k)) (s.sealed n))
  | _ => s

/-! ### Rights (R233-R237) -/

/-- Rights bits (R234). -/
def rR : Byte := 0x01#8
def rW : Byte := 0x02#8
def rX : Byte := 0x04#8
def rA : Byte := 0x08#8
def rS : Byte := 0x10#8

/-- The context's rights to a domain: its byte of the rights table, whose bits 7 to 5 read 0 (R234). -/
def State.rightsTo (s : State) (x : Ctx) (d : BitVec 16) : Byte :=
  match x.tables with
  | some (r, _) => BitVec.ofNat 8 (s.read (dramBase + r + d.toNat) 1) &&& 0x1F#8
  | none => x.rights.getD d.toNat 0#8

/-- The domain of a slice granule: its 16-bit entry of the slice protection table (R233). -/
def State.granule (s : State) (x : Ctx) (g : Nat) : BitVec 16 :=
  match x.tables with
  | some (_, p) => BitVec.ofNat 16 (s.read (dramBase + p + 2 * g) 2)
  | none => x.granules.getD g 0#16

/-- The PLB entry a rights fill reads for an address: a canonical one (R236), or one of the SRAM window (R233). -/
def State.fill (s : State) (x : Ctx) (a : Word) : Option PlbEntry :=
  match region x.tenant a with
  | .sram c o =>
    let d := s.granule x (c * 16 + o / 2 ^ 17)
    some { base := a.toNat / 2 ^ 17 * 2 ^ 17, size := 2 ^ 17, domain := d, rights := s.rightsTo x d }
  | .paged p => match s.walk p with
    | .leaf base size _ w1 | .badFrame base size _ _ w1 =>
      let d := w1.extractLsb' 0 16
      some { base := base, size := size, domain := d, rights := s.rightsTo x d &&& 0x0F#8 }
    | .absent base w1 =>
      let d := w1.extractLsb' 0 16
      some { base := base, size := 2 ^ 17, domain := d, rights := s.rightsTo x d &&& 0x0F#8 }
    | .invalid _ _ _ => none
  | _ => none

/-- The address a PLB entry is looked up by: the window address of SRAM, the canonical address of other memory. -/
def plbKey (tenant : Nat) (a : Word) : Nat :=
  match region tenant a with
  | .paged p => p.toNat
  | _ => a.toNat

def PlbEntry.covers (e : PlbEntry) (n : Nat) : Bool := decide (e.base ≤ n) && decide (n < e.base + e.size)

/-- The entry of the PLB that covers an address. -/
def plbFind (l : List PlbEntry) (n : Nat) : Option PlbEntry := l.find? (·.covers n)

/-- Make an entry the most recently used of the 64 (R236). -/
def plbTouch (l : List PlbEntry) (e : PlbEntry) : List PlbEntry := (e :: l.filter (· != e)).take 64

/-- Where an access goes once it has passed the checks of R122. -/
inductive Place where
  | sram (phys : Nat)
  | paged (a : Word)
  | mgmt (off : Nat)
deriving DecidableEq, Repr

/-- The address map's part of R122: the place, or the code 0x11 or 0x10, before the rights of a page are read. -/
def State.mapCheck (s : State) (core : Nat) (x : Ctx) (a : Word) : Except Byte Place :=
  match region x.tenant a with
  | .none => .error 0x11#8
  | .mgmt off => if s.privileged core then .ok (.mgmt off) else .error 0x10#8
  | .paged p => .ok (.paged p)
  | .sram c o => match x.phys c o with
    | none => .error 0x11#8
    | some p => if inSpill p && !s.privileged core then .error 0x10#8 else .ok (.sram p)

/-! ### Power of the islands (R393) -/

def State.island (s : State) (n : Nat) : Island := if n = 0 then s.burst else s.watch
def State.setIsland (s : State) (n : Nat) (i : Island) : State := if n = 0 then { s with burst := i } else { s with watch := i }
/-- States from the shallowest. -/
def PState.depth : PState → Nat
  | .active => 0
  | .idle => 1
  | .retain => 2
  | .off => 3
/-- The clock of a quad in MHz (R402). -/
def State.mhz (s : State) (q : Nat) : Nat := s.clocks.getD q (if q < 128 then 1000 else 400)

end Sys2Proof.Machine
end

