-- ==== Sys2Proof/Machine/Registers.lean ====
section
/-! DEFINITION. The management registers as words (R478-R486): what a read returns, and what a write of a register
without a behaviour of its own stores. Offsets are those of BAR0 and of management space (R478). -/

namespace Sys2Proof.Machine

/-- Assemble a word from fields, each a value and its lowest bit. -/
def fields : List (Nat × Nat) → Word
  | [] => 0#64
  | (v, lo) :: t => (BitVec.ofNat 64 (v * 2 ^ lo)) ||| fields t

/-- Bits [hi:lo] of a word as a number. -/
def bits (w : Word) (hi lo : Nat) : Nat := w.toNat / 2 ^ lo % 2 ^ (hi + 1 - lo)

/-- BOOTCNT, the word the flash holds at 0x1_0400 (R468); an erased word counts as is. -/
def State.flashByte (s : State) (a : Nat) : Byte :=
  match s.boot.flash.find? (·.1 == a) with
  | some c => c.2
  | none => 0xFF#8
def State.flashWord (s : State) (a : Nat) : Nat :=
  (List.range 4).foldr (fun i n => (s.flashByte (a + i)).toNat + 256 * n) 0
/-- Write a flash byte; 0xFF is the unlisted value. -/
def flashSet : List Host.Cell → Nat → Byte → List Host.Cell
  | [], a, b => if b = 0xFF#8 then [] else [(a, b)]
  | (k, v) :: t, a, b =>
    if a < k then (if b = 0xFF#8 then (k, v) :: t else (a, b) :: (k, v) :: t)
    else if a = k then (if b = 0xFF#8 then t else (a, b) :: t)
    else (k, v) :: flashSet t a b
def State.setFlash (s : State) (a : Nat) (l : List Byte) : State :=
  { s with boot := { s.boot with flash := (l.zip (List.range l.length)).foldl (fun f p => flashSet f (a + p.2) p.1) s.boot.flash } }
def State.bootcnt (s : State) : Nat := s.flashWord 0x10400
def State.setBootcnt (s : State) (n : Nat) : State := s.setFlash 0x10400 (leBytes 4 n)

def TrigSt.code : TrigSt → Nat
  | .off => 0
  | .armed => 1
  | .firing => 2
  | .cooling => 3

/-- A trigger entry's words as they read (R397). -/
def Trigger.word (t : Trigger) : Nat → Word
  | 0 => fields [(t.en.toNat, 63), (t.st.code, 60), (bits t.w0 59 58, 58), (bits t.w0 57 56, 56), (bits t.w0 55 48, 48),
      (bits t.w0 47 40, 40), (bits t.w0 39 38, 38), (bits t.w0 37 36, 36), (t.last, 32), (bits t.w0 31 0, 0)]
  | 1 => t.src
  | 2 => t.value
  | 3 => t.mask
  | 4 => t.timeout
  | 5 => t.report
  | _ => 0

/-- Word `i` of the MSI-X table: address, then data and control; a vector's mask bit is 1 after reset (log entry 12). -/
def HostIf.msixWord (h : HostIf) (i : Nat) : Word := h.msixTable.getD i (if i % 2 = 1 then 1#64 <<< 32 else 0#64)

/-- A word of a byte table. -/
def cellWord (l : List Host.Cell) (a : Nat) : Word := BitVec.ofNat 64 (Mem.read l a 8)

/-! ### The memory window (R482) -/

/-- The memory window's offsets (R478). -/
def inMemWindow (off : Nat) : Bool := decide (0x100000 ≤ off) && decide (off < 0x2000000)

/-- Where an access through the window goes: a place of the die, the host, another chip, or nowhere. -/
inductive WinPlace where
  | die (p : Nat)
  | out (t : Trans)
  | nowhere
deriving DecidableEq, Repr

def State.winPlace (s : State) (off : Nat) : WinPlace × State :=
  match s.ctx s.host.winctx with
  | none => (.nowhere, s)
  | some x => match region x.tenant (s.host.winbase + Word.ofNat (off - 0x100000)) with
    | .sram c o => match if x.out then none else x.phys c o with
      | some p => (.die p, s)
      | none => (.nowhere, s)
    | .paged p => match s.translate p with
      | (.dram d, s) => (.die d, s)
      | (.host h, s) => (.out (.host h), s)
      | (.chip c a, s) => (.out (.chip c a), s)
      | (_, s) => (.nowhere, s)
    | _ => (.nowhere, s)

/-- An access of the window that leaves the die: its canonical address (R478). -/
def State.winFar (s : State) (off : Nat) : Option Word :=
  if s.boot.phase = .maquette ∨ !inMemWindow off ∨ ((s.ctx s.host.winctx).getD {}).sealed then none else
  match (s.winPlace off).1, s.ctx s.host.winctx with
  | .out _, some x => (match region x.tenant (s.host.winbase + Word.ofNat (off - 0x100000)) with
    | .paged p => some p
    | _ => none)
  | _, _ => none

/-- An access of the window that is not performed: it is counted (R482, R485). -/
def State.winFails (s : State) (off : Nat) : Bool :=
  s.boot.phase != .maquette && inMemWindow off && !((s.ctx s.host.winctx).getD {}).sealed && match (s.winPlace off).1 with
    | .die p => s.fencedAt p
    | .nowhere => true
    | .out _ => false

/-- A word of the memory window that lies on the die, as the plinth reads it: in a fenced block or without a place it is all ones,
and that of a sealed context zero (R476). -/
def State.winWord (s : State) (off : Nat) : Word :=
  if ((s.ctx s.host.winctx).getD {}).sealed then 0 else
  match (s.winPlace off).1 with
  | .die p => if s.fencedAt p then BitVec.allOnes 64 else s.word p
  | _ => BitVec.allOnes 64

/-- The 64-bit register at an offset, a multiple of 8, as the plinth or the host reads it (R478-R486). -/
def State.reg (s : State) (plinth : Bool) (off : Nat) : Word :=
  let h := s.host
  let m := s.mgmt
  if s.boot.phase = .maquette ∧ ¬ (off < 0x80 ∨ (0x40000 ≤ off ∧ off < 0x40200)) then 0 else
  if 0x100 ≤ off ∧ off < 0x1000 then 0
  else if off < 0x80 then
    if off = 0 then fields [(0x9600, 48), (Config.revision.toNat, 32)]
    else if off = 8 then fields [(s.bootcnt % 4, 3), (s.boot.slotB.toNat, 2), ((s.boot.phase == .maquette).toNat, 1),
      ((s.boot.phase == .done).toNat, 0)]
    else if off = 0x10 then s.boot.reasons.zeroExtend 64
    else if off = 0x18 then 0
    else if off < 0x50 then s.boot.meas0.extractLsb' (8 * (off - 0x20)) 64
    else s.boot.meas1.extractLsb' (8 * (off - 0x50)) 64
  else if off = 0x1000 then h.fqbase else if off = 0x1008 then Word.ofNat h.fqlog
  else if off = 0x1010 then h.mqbase else if off = 0x1018 then fields [(h.meden.toNat, 8), (h.mqlog, 0)]
  else if off = 0x1020 then h.fqwr.zeroExtend 64 else if off = 0x1028 then h.mqwr.zeroExtend 64
  else if off = 0x1030 then fields [(h.fqmod.toNat, 16), (h.mqmod.toNat, 0)]
  else if off = 0x1038 then h.winbase else if off = 0x1040 then Word.ofNat h.winctx
  else if 0x2000 ≤ off ∧ off < 0x2000 + 16 * 258 then h.msixWord ((off - 0x2000) / 8)
  else if 0x3000 ≤ off ∧ off < 0x3000 + 40 then
    fields ((List.range 64).map fun i => ((h.msixPending.contains (8 * (off - 0x3000) + i)).toNat, i))
  else if off = 0x4008 then m.param else if off = 0x4010 then Word.ofBool m.busy.isSome
  else if off = 0x4018 then m.entry0 else if off = 0x4020 then m.entry1
  else if 0x5000 ≤ off ∧ off < 0x5028 then
    if !plinth then 0 else
    Word.ofNat (if off = 0x5000 then m.pevict else if off = 0x5008 then m.fpark else if off = 0x5010 then m.quiet
      else if off = 0x5018 then m.meidle else m.bidle)
  else if 0x8000 ≤ off ∧ off < 0x8800 then
    match s.ctx ((off - 0x8000) / 8) with
    | some x => x.energy
    | none => 0
  else if off = 0x10000 then fields [(m.attach.toNat, 8), (m.dbgCtx, 0)]
  else if off = 0x10018 then fields [(m.dbgOk.toNat, 1), ((!m.dbgKill.isEmpty).toNat, 0)]
  else if off = 0x20000 then Word.ofNat m.pkgw else if off = 0x20008 then Word.ofNat m.tjthr
  else if off = 0x20010 then s.heel.count else if off = 0x20018 then s.heel.dumpbase
  else if off = 0x20020 then Word.ofNat s.heel.ackwin
  else if 0x20100 ≤ off ∧ off < 0x20500 then (s.triggers.getD ((off - 0x20100) / 64) {}).word ((off - 0x20100) % 64 / 8)
  else if off = 0x30000 then Word.ofNat m.actx
  else if 0x30008 ≤ off ∧ off < 0x30038 then m.anonce.extractLsb' (8 * (off - 0x30008)) 64
  else if off = 0x30048 then fields [(m.aerr.toNat, 1), (m.abusy.toNat, 0)]
  else if 0x30100 ≤ off ∧ off < 0x30238 then cellWord m.arep (off - 0x30100)
  else if off = 0x40000 then Word.ofNat m.faddr
  else if off = 0x40010 then fields [(m.denied.toNat, 1), (m.fbusy.toNat, 0)]
  else if 0x40100 ≤ off ∧ off < 0x40200 then cellWord m.fbuf (off - 0x40100)
  else if 0x41000 ≤ off ∧ off < 0x41058 then Word.ofNat (m.counters.getD ((off - 0x41000) / 8) 0)
  else if off = 0x42000 then (Config.telemetry off s.time).extractLsb' 0 16 |>.zeroExtend 64
  else if off = 0x42008 ∨ off = 0x42010 ∨ off = 0x42018 then (Config.telemetry off s.time).extractLsb' 0 32 |>.zeroExtend 64
  else if 0x42100 ≤ off ∧ off < 0x42310 then
    let q := (off - 0x42100) / 4
    let f := fun q => if (s.island (if q < 128 then 0 else 1)).st = .active then s.mhz q else 0
    fields [(f (q + 1), 32), (f q, 0)]
  else if plinth && inMemWindow off then s.winWord off
  else 0

/-- A read of 1, 2, 4 or 8 aligned bytes of the registers. -/
def State.regRead (s : State) (plinth : Bool) (off size : Nat) : Word :=
  -- The high half of an energy account reads the latch (R480).
  let latch := if s.boot.phase ≠ .maquette ∧ 0x8000 ≤ off ∧ off < 0x8800 ∧ off % 8 = 4 ∧ size = 4 then (s.ctx ((off - 0x8000) / 8)).bind (·.energyLatch) else none
  match latch with
  | some h => h.zeroExtend 64
  | none =>
  (s.reg plinth (off / 8 * 8) >>> (8 * (off % 8))) &&& (BitVec.ofNat 64 (2 ^ (8 * size) - 1))

/-- A 32-bit read of the low half of an energy account latches its high half (R480). -/
def State.latchEnergy (s : State) (off size : Nat) : State :=
  if s.boot.phase ≠ .maquette ∧ 0x8000 ≤ off ∧ off < 0x8800 ∧ off % 8 = 0 ∧ size = 4 then
    s.updCtx ((off - 0x8000) / 8) fun x => { x with energyLatch := some (x.energy.extractLsb' 32 32) }
  else s

/-- A read of up to 64 aligned bytes: whole words beyond 8 bytes. -/
def State.regBytes (s : State) (plinth : Bool) (off size : Nat) : Vec :=
  if size ≤ 8 then (s.regRead plinth off size).zeroExtend 512
  else BitVec.ofNat 512 ((List.range (size / 8)).foldr (fun i n => (s.reg plinth (off + 8 * i)).toNat + 2 ^ 64 * n) 0)

/-- Keep a value within bounds (R483, R484). -/
def clampNat (lo hi v : Nat) : Nat := max lo (min hi v)

/-- The registers whose write acts beyond storing a field: commands, FQLOG, MQLOG, debug, triggers, BOOTCTL, GO, FOP. -/
def regActs (off : Nat) : Bool :=
  off = 0x18 || off = 0x1008 || off = 0x1018 || off = 0x4000 || off = 0x10000 || off = 0x10008 || off = 0x10010
  || off = 0x30040 || off = 0x40008 || (0x20100 ≤ off && off < 0x20500) || 0x100000 ≤ off

/-- A write of BAR0 outside the blocks that respond in maquette mode is ignored there (R473). -/
def State.inMaquette (s t : State) : State := if s.boot.phase = .maquette then s else t

/-- Store the fields of a register without a behaviour of its own: the word at an offset, a multiple of 8. -/
def State.setReg (s : State) (plinth : Bool) (off : Nat) (v : Word) : State :=
  let h := s.host
  let m := s.mgmt
  if s.boot.phase = .maquette ∧ ¬ (off < 0x1000 ∨ (0x40000 ≤ off ∧ off < 0x40200)) then s else
  if off = 0x1000 then if h.fqlog = 0 then { s with host := { h with fqbase := v &&& ~~~0xFFF#64 } } else s
  else if off = 0x1010 then if h.mqlog = 0 then { s with host := { h with mqbase := v &&& ~~~0xFFF#64 } } else s
  else if off = 0x1030 then { s with host := { h with fqmod := v.extractLsb' 16 16, mqmod := v.extractLsb' 0 16 } }
  else if off = 0x1038 then { s with host := { h with winbase := v &&& ~~~0x1FFFFFF#64 } }
  else if off = 0x1040 then { s with host := { h with winctx := bits v 7 0 } }
  else if 0x2000 ≤ off ∧ off < 0x2000 + 16 * 258 then
    let h := { h with msixTable := Tab.set h.msixTable ((off - 0x2000) / 8) v }
    let vec := (off - 0x2000) / 16
    -- A vector unmasked while its pending bit is set is raised (PCI Express MSI-X).
    if h.msixPending.contains vec && !(h.msixWord (2 * vec + 1)).getLsbD 32 then
      { s with host := { h with msixPending := NatSet.erase h.msixPending vec }, out := .msix vec :: s.out }
    else { s with host := h }
  else if off = 0x4008 then { s with mgmt := { m with param := v } }
  else if off = 0x4018 then { s with mgmt := { m with entry0 := v } }
  else if off = 0x4020 then { s with mgmt := { m with entry1 := v } }
  else if 0x5000 ≤ off ∧ off < 0x5028 then
    if !plinth then s else
    let x := bits v 31 0
    if off = 0x5000 then { s with mgmt := { m with pevict := clampNat 500 100000 x } }
    else if off = 0x5008 then { s with mgmt := { m with fpark := clampNat 10 10000 x } }
    else if off = 0x5010 then { s with mgmt := { m with quiet := clampNat 10 10000 x } }
    else if off = 0x5018 then { s with mgmt := { m with meidle := clampNat 0 (2 ^ 20) (bits v 20 0) } }
    else { s with mgmt := { m with bidle := clampNat 1 1000000 x } }
  else if off = 0x20000 then { s with mgmt := { m with pkgw := clampNat 60 180 (bits v 7 0) } }
  else if off = 0x20008 then { s with mgmt := { m with tjthr := clampNat 85 100 (bits v 6 0) } }
  else if off = 0x30000 then { s with mgmt := { m with actx := bits v 7 0 } }
  else if 0x30008 ≤ off ∧ off < 0x30038 then
    let k := 8 * (off - 0x30008)
    { s with mgmt := { m with anonce := (m.anonce &&& ~~~(BitVec.ofNat 384 (2 ^ 64 - 1) <<< k)) ||| (v.zeroExtend 384 <<< k) } }
  else if off = 0x40000 then { s with mgmt := { m with faddr := bits v 24 0 } }
  else if 0x40100 ≤ off ∧ off < 0x40200 then { s with mgmt := { m with fbuf := Mem.write m.fbuf (off - 0x40100) 8 v.toNat } }
  else s

/-- The word a register holds once 1, 2, 4 or 8 aligned bytes of it have been written. -/
def State.mergeReg (s : State) (plinth : Bool) (off size : Nat) (v : Word) : Word :=
  let k := 8 * (off % 8)
  let mask := (BitVec.ofNat 64 (2 ^ (8 * size) - 1)) <<< k
  (s.reg plinth (off / 8 * 8) &&& ~~~mask) ||| ((v <<< k) &&& mask)

end Sys2Proof.Machine
end

