-- ==== Sys2Proof/Machine/Units.lean ====
section
/-! DEFINITION. Operations the units of the device share: semaphore additions, messages, inbox writes, the driver's fault
queue, the end of a thread. -/

namespace Sys2Proof.Machine

/-! ### Waking an island (R393, R394) -/

/-- Start waking an island to a state, or go on to a shallower one. -/
def State.wakeIsland (s : State) (n : Nat) (target : PState) : State :=
  let i := s.island n
  -- In maquette mode the burst island stays OFF (R473).
  if s.boot.phase = .maquette ∧ n = 0 then s else
  if i.st.depth ≤ target.depth then s else
  let t := match i.waking with
    | some w => if w.depth ≤ target.depth then w else target
    | none => target
  s.setIsland n { i with waking := some t }

/-- An island is in use (R394). -/
def State.useIsland (s : State) (n : Nat) : State := if n = 0 then { s with burstUsed := s.time } else { s with watchUsed := s.time }

/-- An event for a core, a semaphore addition, a message, an inbox write, wakes its island: the watch island from DOZE, the burst
island for what it dispatches (R394). -/
def State.stir (s : State) (core : Nat) : State := (s.useIsland (islandOf core)).wakeIsland (islandOf core) .active

/-! ### Semaphores (R217-R219) -/

def Core.sem (c : Core) (n : Nat) : Sem := c.sems.getD n {}

/-- The cores of the twins of a core's paired threads (R408). -/
def Core.partners (c : Core) : List Nat := (c.slots.filterMap fun p => p.2.twin.map (·.1)).eraseDups

/-- An addition that arrives at a core in this cycle (R219, step 2), and at the core of a twin in the same step (R409). -/
def State.addSem (s : State) (core n k : Nat) : State :=
  (core :: (s.core core).partners).foldl (fun s c => (s.updCore c fun c => { c with adds := c.adds ++ [(n, k)] }).stir c) s

/-- Poison that a unit applies in this cycle (R218, R219), and at the core of a twin in the same step (R409). -/
def State.poisonSem (s : State) (core n : Nat) (code : Byte) : State :=
  (core :: (s.core core).partners).foldl (fun s c => (s.updCore c fun c => { c with poisons := c.poisons ++ [(n, code)] }).stir c) s

/-- Add to a semaphore, saturating at 2^32 - 1 (R218). -/
def Sem.add (x : Sem) (k : Nat) : Sem := { x with v := min (x.v + k) (2 ^ 32 - 1) }

/-- The signal of a TD tail (R48). -/
def State.signal (s : State) (core : Nat) (td : Td) : State :=
  if td.si = 0#4 then s else s.addSem core td.ss.toNat td.si.toNat

/-- The same for a thread of a redundant pair, whose twin signals for the other core (R409). -/
def State.signalOwn (s : State) (core : Nat) (td : Td) : State :=
  if td.si = 0#4 then s else s.updCore core fun c => { c with adds := c.adds ++ [(td.ss.toNat, td.si.toNat)] }

/-- The fault of an engine's command at its signal semaphore (R48, R305, R338, R349). -/
def State.signalFault (s : State) (core : Nat) (td : Td) (code : Byte) : State :=
  if td.si = 0#4 then s else s.poisonSem core td.ss.toNat code

/-! ### Energy accounts (R403) -/

/-- The PMC adds to a context's account an amount the manual does not give, saturating. -/
def State.charge (s : State) (n : Nat) : State :=
  let (w, s) := s.freeWord
  s.updCtx n fun x => { x with energy := Word.ofNat (min (x.energy.toNat + w.toNat) (2 ^ 64 - 1)) }

/-! ### The driver's fault queue and interrupts (R424, R427, R428, R482) -/

/-- Raise an MSI-X vector: a masked vector sets its pending bit. -/
def State.raise (s : State) (v : Nat) : State :=
  if (s.host.msixWord (2 * v + 1)).getLsbD 32 then
    { s with host := { s.host with msixPending := NatSet.insert s.host.msixPending v } }
  else s.emit (.msix v)

/-- Raise vector 256 or 257 under its moderation (R482). -/
def State.raiseModerated (s : State) (v : Nat) : State :=
  let mod := if v = 256 then s.host.fqmod.toNat else s.host.mqmod.toNat
  let due := match s.host.raised.get? v with
    | none => true
    | some t => mod = 0 || decide (mod * 1000 ≤ (s.time - t).toNat)
  if due then ({ s with host := { s.host with raised := Tab.set s.host.raised v s.time } }).raise v
  else { s with host := { s.host with moderated := NatSet.insert s.host.moderated v } }

/-- A ring of 2^log entries with the given indices is full (R427, R429). -/
def ringFull (log : Nat) (wr rd : BitVec 32) : Bool := decide (2 ^ log ≤ (wr - rd).toNat)

def wordBytes (w : Word) : List Byte := leBytes 8 w.toNat

/-- Post waiting fault records while the ring has room; with FQLOG 0 they wait (R427, R482). -/
def State.postFaults (s : State) : Nat → State
  | 0 => s
  | n + 1 =>
    match s.host.faults with
    | [] => s
    | r :: rest =>
      let h := s.host
      if h.fqlog = 0 ∨ ringFull h.fqlog h.fqwr h.fqrd then s else
      let i := h.fqwr.toNat
      let a := h.fqbase.toNat + 32 * (i % 2 ^ h.fqlog)
      let w0 := fields [(i / 2 ^ h.fqlog % 2, 63), (r.ctx, 32), (r.arg.toNat, 16), (r.sub.toNat, 8), (r.kind.toNat, 0)]
      let s := s.emit (.hostWrite (a + 8) (wordBytes r.addr ++ wordBytes r.info ++ wordBytes s.time) false)
      let s := s.emit (.hostWrite a (wordBytes w0) false)
      let s : State := { s with host := { s.host with faults := rest, fqwr := h.fqwr + 1 } }
      (if h.fqwr = h.fqrd then s.raiseModerated 256 else s).postFaults n

/-- Post a fault record (R427); no record is dropped. -/
def State.postFault (s : State) (r : FaultRec) : State :=
  let s : State := { s with host := { s.host with faults := s.host.faults ++ [r] } }
  s.postFaults s.host.faults.length

/-! ### The fault record of a page that is not present (R244) -/

/-- A record of the page of an address stands at its home agent: what waits for the page waits there until the driver's wake
drops it, and a further request for the page joins that wait (R244, R426). -/
def State.pageWaits (s : State) (a : Word) : Bool :=
  s.posted.any fun p => p.1 == homeAgent a &&
    (p.2.toNat == a.toNat / 2 ^ 17 * 2 ^ 17 || p.2.toNat == pageKey (a.toNat / 2 ^ 25 * 2 ^ 25) (2 ^ 25))

/-- Post one record for a page at an agent; a page already posted there is not posted again. -/
def State.postPage (s : State) (a : Word) (ctx core : Nat) (isWrite prefetch : Bool) : State :=
  let agent := homeAgent a
  let page := Word.ofNat (match s.walk a with
    | .leaf base size _ _ => pageKey base size
    | _ => a.toNat / 2 ^ 17 * 2 ^ 17)
  if s.pageWaits a then s else
  ({ s with posted := s.posted ++ [(agent, page)] }).postFault
    { kind := 1, sub := BitVec.ofNat 8 (isWrite.toNat + 2 * prefetch.toNat), arg := BitVec.ofNat 16 agent, ctx := ctx,
      addr := a, info := Word.ofNat core }

/-- The bytes of an answer from outside as a value. -/
def ofBytes (l : List Byte) : Vec := BitVec.ofNat 512 (l.foldr (fun b n => b.toNat + 256 * n) 0)

/-- The range of an address in the route cache (R271). -/
def routeRange (a : Word) : Word := Word.ofNat (a.toNat / 2 ^ 17 * 2 ^ 17)

/-- Post the record of a malformed entry (R240, R428). -/
def State.postMalformed (s : State) (a : Word) (ctx level : Nat) (w0 : Word) : State :=
  s.postFault { kind := 2, sub := BitVec.ofNat 8 level, arg := BitVec.ofNat 16 (homeAgent a), ctx := ctx, addr := a, info := w0 }

/-! ### Inboxes (R185, R371, R195) -/

/-- How many of the 8 entries are in use: a roaming thread holds four. -/
def Core.inboxUsed (c : Core) : Nat :=
  c.inbox.foldl (fun n i => n + match i with | .roamer _ => 4 | _ => 1) 0
def Core.inboxRoom (c : Core) (n : Nat) : Bool := decide (c.inboxUsed + n ≤ 8)
def Core.emptySlots (c : Core) : Nat := 15 - c.slots.length
def Core.putInbox (c : Core) (i : InboxItem) : Core := { c with inbox := c.inbox ++ [i] }

/-- The efficiency rank of a cluster, 0 the highest (R470); its number where the armature table gives none. -/
def State.rank (s : State) (cluster : Nat) : Nat := s.boot.armature.ranks[cluster]?.getD cluster

/-- The spread rule of R195: the core with the most EMPTY user slots plus free inbox entries, then the cluster of higher
rank, then the lower number, among the cores whose inbox has room. -/
def State.spread (s : State) (cands : List Nat) : Option Nat :=
  let score := fun c => (s.core c).emptySlots + (8 - (s.core c).inboxUsed)
  cands.foldl (fun best c =>
    if !(s.core c).inboxRoom 1 then best else
    match best with
    | none => some c
    | some b =>
      let rb := s.rank (clusterOf b)
      let rc := s.rank (clusterOf c)
      if score b < score c ∨ (score b = score c ∧ (rc < rb ∨ (rc = rb ∧ c < b))) then some c else best) none

/-- Launch a handler task (R371): on the given core if it has an EMPTY user slot and a free inbox entry, else over HSET. -/
def State.launchHandler (s : State) (ctx : Nat) (core : Option Nat) (r : TaskRec) : State :=
  match s.ctx ctx with
  | none => s
  | some x =>
    let own := match core with
      | some c => if 0 < (s.core c).emptySlots ∧ (s.core c).inboxRoom 1 then some c else none
      | none => none
    let cands := (List.range x.cores.length).filter (fun v => x.hset.isEmpty || x.hset.contains v)
    match own <|> s.spread (cands.filterMap fun v => x.cores[v]?) with
    | some c => (s.updCore c (·.putInbox (.task r))).stir c
    | none => s.setCtx ctx { x with handlersDue := x.handlersDue ++ [r] }

/-! ### Messages (R188, R189, R212) -/

/-- A tag no thread has: what belonged to a thread that has ended (R188, R189). -/
def noTag : Nat := 15

/-- A message arrives in a core's mailbox queue. A message of KIND 0 arrives with the caller's slot in TAG, and goes by
the reply binding (R212); one for an ended thread is discarded and counted (R189). -/
def Core.deliver (c : Core) (m : Msg) : Core :=
  let (c, tag) := if m.kind = 0 then
      match c.bindings.get? m.tag with
      | some b => ({ c with bindings := if b.count ≤ 1 then Tab.erase c.bindings m.tag
                                        else Tab.set c.bindings m.tag { b with count := b.count - 1 } }, b.tag)
      | none => (c, noTag)
    else (c, m.tag)
  if tag = noTag then { c with discarded := c.discarded + 1 }
  else
    let c := { c with mail := c.mail ++ [{ m with tag := tag }] }
    -- A saved thread parked on mwait or mrecv becomes eligible (R170).
    if 16 ≤ tag then
      match c.saved.get? (tag - 16) with
      | some v => match v.th.run with
        | .parked .mail _ _ => if v.eligible.isSome then c else
            { c with saved := Tab.set c.saved (tag - 16) { v with eligible := some c.eligSeq }, eligSeq := c.eligSeq + 1 }
        | _ => c
      | none => c
    else c

/-- Give what belongs to one tag another tag: eviction, restore, and the end of a thread with `noTag` (R189, R212). -/
def State.retag (s : State) (core old new : Nat) : State :=
  let f := fun (t : Nat) => if t = old then new else t
  let s := s.updCore core fun c =>
    { c with mail := c.mail.map fun m => { m with tag := f m.tag },
             completions := c.completions.map fun m => { m with tag := f m.tag },
             copyRegs := c.copyRegs.map fun k => { k with tag := f k.tag },
             bindings := Tab.mapV c.bindings (fun _ b => { b with tag := f b.tag }) }
  let s : State := { s with
    messages := s.messages.map fun (p : Nat × Msg) =>
      if p.1 = core ∧ p.2.kind ≠ 0 then (core, { p.2 with tag := f p.2.tag }) else p
    lz := Tab.mapV s.lz (fun n z => if n / 16 = core then { z with tag := f z.tag } else z)
    inflight := Tab.mapV s.inflight (fun _ r => if r.core = core then { r with slot := f r.slot } else r)
    reqs := Tab.mapV s.reqs (fun _ r => match r.src with
      | .store c k q => if c = core then { r with src := .store c (f k) q } else r
      | _ => r)
    ctxs := Tab.mapV s.ctxs fun _ (x : Ctx) =>
      { x with recs := Tab.mapV x.recs (fun _ (r : TrapRec) => if r.core = core ∧ r.thread then { r with slot := f r.slot } else r),
               waiting := x.waiting.map fun (p : Nat × Nat) => if p.1 = core then (core, f p.2) else p } }
  let s := s.updCe (clusterOf core) fun e =>
    { e with copies := e.copies.map fun (k : Copy) => if k.core = core then { k with tag := f k.tag } else k }
  s.updKse (clusterOf core) fun e =>
    { e with queue := e.queue.map fun (k : KseCmd) => if k.core = core then { k with tag := f k.tag } else k }

/-- A thread by its tag: a resident slot, or 16 + its save record (R188). -/
def State.tagged (s : State) (core tag : Nat) : Option Thread :=
  if tag < 16 then s.thread core tag else ((s.core core).saved.get? (tag - 16)).map (·.th)

/-- Replace a thread by its tag. -/
def State.setTagged (s : State) (core tag : Nat) (t : Thread) : State :=
  if tag < 16 then s.setThread core tag t
  else s.updCore core fun c => { c with saved := Tab.update c.saved (tag - 16) fun v => { v with th := t } }

/-! ### Store buffers (R121, R237) -/

/-- How many stores and markers a thread has in its buffer, and stores in its compare queue (R121, R409). -/
def Thread.buffered (t : Thread) : Nat :=
  t.sb.length + (t.cmpq.filter fun c => match c with
    | .store _ _ _ _ => true
    | _ => false).length

/-- The head of a slot's buffer leaves it. -/
def State.popSb (s : State) (core slot : Nat) : State :=
  (s.updThread core slot fun t => { t with sb := t.sb.drop 1, sbParked := t.sbParked && t.twin.isSome, fenceLeft := t.fenceLeft - 1 }).updCore core fun c =>
    { c with drained := Tab.set c.drained slot (c.drained.getD slot 0 + 1) }

/-- The stores that stand in the buffers of the threads of the contexts that pass: core, slot, and the slot's count by which
they are out. -/
def State.buffered (s : State) (ok : Nat → Bool) : List (Nat × Nat × Nat) :=
  s.cores.flatMap fun c => if c.2.ctx.any ok then
    (c.2.slots.filter fun p => 0 < p.2.buffered).map fun p => (c.1, p.1, c.2.drained.getD p.1 0 + p.2.buffered) else []

/-- Some of these stores has not left its buffer (R237). -/
def State.undrained (s : State) (l : List (Nat × Nat × Nat)) : Bool :=
  l.any fun e => match s.thread e.1 e.2.1 with
    | some t => t.buffered != 0 && decide ((s.core e.1).drained.getD e.2.1 0 < e.2.2)
    | none => false

/-- Empty the line-buffer channels that the contexts which pass used last (R335). -/
def State.emptyBufs (s : State) (ok : Nat → Bool) : State :=
  let f := fun (k : Cluster) => { k with ce := { k.ce with bufs := Tab.filterV k.ce.bufs fun _ b => !ok b.ctx } }
  { s with clusters := Tab.mapV s.clusters fun _ k => f k }

/-! ### The end of a thread (R208) -/

/-- What a parked instruction holds outside its thread is given up: a reserved inbox entry (R207), a reserved table entry
(R221), a place among the waiters of the ME (R302), the entries of a compare queue. -/
def State.release (s : State) (core slot : Nat) : State :=
  let s : State := { s with cores := Tab.mapV s.cores (fun _ k => { k with inbox := k.inbox.filter fun i => i != InboxItem.reserved core slot }) }
  let s := s.updCore core fun c => { c with table := Tab.filterV c.table (fun _ e => e != TtEntry.reserved slot) }
  s.updMe (clusterOf core) fun m => { m with waiters := m.waiters.filter (· != (core, slot)) }

/-- The requests of a thread lose their sender: their answers are discarded (R372). -/
def State.orphan (s : State) (core slot : Nat) : State :=
  { s with reqs := Tab.mapV s.reqs (fun _ r => match r.src with
             | .thread c k | .fetch c k | .store c k _ => if c = core ∧ k = slot then { r with src := .nobody } else r
             | _ => r)
           localInv := s.localInv.map fun e => if e.1 = core ∧ e.2.1 = slot then (core, noTag, e.2.2) else e
           inflight := Tab.filterV s.inflight (fun _ r => !(r.core == core && r.slot == slot)) }

/-- Free the slot of a thread that ends (R208): its pin, bindings and streams go with it, its messages are discarded. -/
def State.endThread (s : State) (core slot : Nat) : State :=
  let s := ((s.release core slot).orphan core slot).retag core slot noTag
  let s := s.updCore core fun c => { c with mail := c.mail.filter fun m => m.tag != noTag }
  s.dropThread core slot

/-! ### Trigger entries (R397, R398) -/

def State.trigger (s : State) (n : Nat) : Trigger := s.triggers.getD n {}
def State.setTrigger (s : State) (n : Nat) (t : Trigger) : State := { s with triggers := Tab.set s.triggers n t }

/-- An action ends (R398): COOLING, ARMED at once when COOL is 0, or OFF when EN has been cleared meanwhile. -/
def State.endAction (s : State) (n last : Nat) : State :=
  let t := s.trigger n
  let st : TrigSt := if !t.en then .off else if bits t.w0 31 0 = 0 then .armed else .cooling
  s.setTrigger n { t with st := st, last := last, coolEnd := s.time + Word.ofNat (1000 * bits t.w0 31 0) }

end Sys2Proof.Machine
end

