-- ==== Sys2Proof/Machine/QueueView.lean ====
section
/-! DEFINITION. What the QS reads, the residency of its queues, and their head packets (06 R191-R199). -/

namespace Sys2Proof.Machine

/-! ### Descriptors (R191, R193) -/

def QState.code : QState → Nat
  | .off => 0
  | .idle => 1
  | .ready => 2
  | .wait => 3
  | .waitmem => 4
  | .migr => 5
  | .error => 6

/-- Where a queue's descriptor lies, when the table is die memory (R191). -/
def State.queueDesc (s : State) (q : Nat) : Option Nat := s.diePhys {} (s.qs.qtbase + Word.ofNat (64 * q))

/-- The QS writes the fields of a descriptor that are read-only to software (R191): a write of DRAM, which ends self-refresh (R394). -/
def State.mirrorQueue (s : State) (q : Nat) : State :=
  match s.queueDesc q, s.qs.queues.get? q with
  | some a, some x =>
    let s : State := if s.selfRefresh then { s with dramExit := true } else s
    let s := s.write (a + 0x10) 8 x.rd.toNat
    let s := s.write (a + 0x18) 8 x.wr.toNat
    let s := s.write (a + 0x20) 8 x.pass
    s.write (a + 0x28) 8 (fields [(x.epkt.toNat, 16), (x.err.toNat, 8), (x.st.code, 0)]).toNat
  | _, _ => s

/-! ### What the QS reads (R194) -/

/-- What a read of the QS brings: words, no mapping or a refusal, a page that is not present, a wait for the DRAM, or a
read outside the die whose answer must be given. -/
inductive QsGot where
  | got (w : List Word)
  | refused
  | absent (page : Word)
  | exit
  | ask
deriving DecidableEq, Repr

/-- The words of an answer from outside. -/
def wordsOf (n : Nat) (l : List Byte) : List Word := (List.range (n / 8)).map fun i => (ofBytes l).extractLsb' (64 * i) 64

/-- The QS reads `n` bytes at an address of a queue's context (R194). -/
def State.qsRead (s : State) (ctx : Nat) (a : Word) (n : Nat) (ext : Option ExtReply) : QsGot × State :=
  let x := (s.ctx ctx).getD {}
  let die := fun (s : State) (d : Nat) => if s.fencedAt d then QsGot.refused else .got ((List.range (n / 8)).map fun i => s.word (d + 8 * i))
  match region x.tenant a with
  | .sram c o => (match x.phys c o with
      | some d => die s d
      | none => .refused, s)
  | .paged p =>
    -- A walk reads DRAM too (R394).
    if s.selfRefresh && s.walks p false then (.exit, { s with dramExit := true }) else
    let (t, s) := s.translate p
    (match t with
      | .dram d => if s.sleeps p then (.exit, { s with dramExit := true }) else (die s d, s.fillLine p d false)
      | .absent => (.absent (routeRange p), s.postPage p ctx 0 false false)
      | .refused m level w0 => (.refused, if m then s.postMalformed p ctx level w0 else s)
      | _ =>
        if !s.reaches t then (.refused, s) else
        match ext with
        | some (.data l) => (.got (wordsOf n l), s.readOutside ctx p n t)
        | some (.err _) => (.refused, s.readOutside ctx p n t)
        | none => (.ask, s))
  | _ => (.refused, s)

/-! ### Queues -/

def State.queue (s : State) (q : Nat) : Queue := s.qs.queues.getD q {}
def State.setQueue (s : State) (q : Nat) (x : Queue) : State := { s with qs := { s.qs with queues := Tab.set s.qs.queues q x } }

/-- A queue becomes READY: its PASS is raised to GV (R198), also from OFF, which the rule does not list (DESIGN CHOICE, log
entry 50); one that was READY stays as it is. -/
def State.toReady (s : State) (x : Queue) : Queue :=
  if x.st = .ready then x else { x with st := .ready, pass := max x.pass s.qs.gv }

/-- Entry to IDLE or READY by its indices; an IDLE queue releases its slot (R191, R193). -/
def State.idleOrReady (s : State) (x : Queue) : Queue :=
  if x.rd = x.wr then { x with st := .idle, resident := false } else s.toReady x

/-- A WAITMEM queue whose page has arrived keeps no page (page 0) until it is resident again (R194). -/
def Queue.arrived (x : Queue) : Option QState :=
  match x.st, x.parked with
  | .waitmem, some (0#64, _, st) => some st
  | _, _ => none

/-- It waits for a resident slot (R191). -/
def Queue.wantsSlot (x : Queue) : Bool := x.en && !x.resident && (x.st == .ready || x.arrived.isSome)

/-- A queue takes a resident slot; one back from WAITMEM returns to its former state (R193, R194). -/
def State.seat (s : State) (q : Nat) : State :=
  let x := s.queue q
  let x := match x.arrived with
    | some .ready => { s.toReady x with parked := none, resident := true }
    | some st => { x with st := st, parked := none, resident := true }
    | none => { x with resident := true }
  s.setQueue q x

/-- Give the 64 resident slots to the waiting queues, the least PASS first, ties to the lower number. Each has had its PASS raised
as it began to wait: as it became READY, or as its page arrived (R191, R198). -/
def State.admitQueues (s : State) : Nat → State
  | 0 => s
  | n + 1 =>
    if 64 ≤ (s.qs.queues.filter fun p => p.2.resident).length then s else
    let best := (s.qs.queues.filter fun p => p.2.wantsSlot).foldl (fun (b : Option (Nat × Nat)) p =>
      match b with
      | none => some (p.1, p.2.pass)
      | some y => if p.2.pass < y.2 then some (p.1, p.2.pass) else b) none
    match best with
    | some (q, _) => ((s.seat q).mirrorQueue q).admitQueues n
    | none => s

def Queue.word (x : Queue) (i : Nat) : Word := (x.head[i]?).getD 0

/-- The context of a queue has cores: it is not saved (R491). -/
def State.placed (s : State) (ctx : Nat) : Bool :=
  match s.ctx ctx with
  | some x => !x.cores.isEmpty
  | none => false

/-- An access of a queue waits at its home for a page (R194, R196). -/
def State.parkQueue (s : State) (q : Nat) (page : Word) : State :=
  let x := s.queue q
  s.setQueue q { x with parked := some (page, s.time, x.st) }

/-- The comparison of sigwait and of a WAIT packet (R196, R456). -/
def cmpHolds (c : Cmp) (a b : Word) : Bool :=
  match c with
  | .ge => decide (b.toNat ≤ a.toNat)
  | .eq => a == b
  | .ne => a != b
  | .lt => decide (a.toNat < b.toNat)

def cmpOf : Nat → Cmp
  | 0 => .ge
  | 1 => .eq
  | 2 => .ne
  | _ => .lt

/-- A head WAIT that is unresolved (R193, R199). -/
def State.blockWait (s : State) (q : Nat) : State :=
  let x := s.queue q
  let h := x.word 0
  s.setQueue q { x with st := .wait, producer := if h.getLsbD 24 then some (bits h 23 16) else none }

/-- The reserved bits and the fields of a WAIT (R194, R196): the error they give. -/
def Queue.waitError (x : Queue) : Option Byte :=
  let h := x.word 0
  if bits h 63 25 ≠ 0 ∨ bits h 15 10 ≠ 0 ∨ !((x.head.drop 4).all fun w => w == 0#64) then some 0x02#8
  else if (x.word 1).toNat % 8 ≠ 0 then some 0x03#8 else none

/-- Where the head packet of a queue lies (R191). -/
def Queue.packet (x : Queue) : Word := x.base + Word.ofNat (64 * (x.rd.toNat % 2 ^ x.logn))

/-- The ring of a queue can be read: its context is placed, or the ring lies outside the SRAM window (R194, R491). -/
def State.ringAtHand (s : State) (x : Queue) : Bool := s.placed x.ctx || spanRow x.base != some 3

/-- A READY queue in its slot whose head packet has not been read (R194, R196). -/
def Queue.unseen (x : Queue) : Bool := x.st == .ready && x.resident && x.head.isEmpty && x.parked.isNone

/-- A packet that has become the head of a READY queue has been read: a WAIT is evaluated at once, and unresolved, its word unread
among such, it blocks its queue before any pick (R193, R196, R199). -/
def State.seeHead (s : State) (q : Nat) (w : List Word) : State :=
  let x := { s.queue q with head := w }
  let s := s.setQueue q x
  if bits (x.word 0) 7 0 ≠ 2 ∨ x.waitError.isSome then s else
  match s.qsRead x.ctx (x.word 1) 8 none with
  | (.got v, t) =>
    if cmpHolds (cmpOf (bits (x.word 0) 9 8)) (v.headD 0 &&& x.word 3) (x.word 2) then t else (t.blockWait q).mirrorQueue q
  | (.absent p, t) => ((t.blockWait q).parkQueue q p).mirrorQueue q
  | (.refused, t) => t
  | (_, t) => (t.blockWait q).mirrorQueue q

/-- Read the head packet of a queue. One outside the die comes with QS_WAIT_EVALUATE, and one in DRAM that sleeps once it has left
self-refresh; a refused one is left to the pick. -/
def State.viewHead (s : State) (q : Nat) : State :=
  let x := s.queue q
  if !x.unseen || !s.ringAtHand x then s else
  match s.qsRead x.ctx x.packet 64 none with
  | (.got w, t) => t.seeHead q w
  | (.absent p, t) => t.parkQueue q p
  | (.exit, t) => t
  | _ => s

/-- Look at the heads of the queues whose head has not been read. -/
def State.viewHeads (s : State) : State :=
  (s.qs.queues.filter fun p => p.2.unseen).foldl (fun s p => s.viewHead p.1) s

end Sys2Proof.Machine
end

