-- ==== Sys2Proof/Machine/ContextEnd.lean ====
section
/-! DEFINITION. Queues in ERROR, and the end and the kill of a context (06 R193; 13 R372, R396, R397; 15 R449; 17 R491). -/

namespace Sys2Proof.Machine

/-! ### Queues (R193, R491) -/

/-- The access a queue has sent loses its sender. -/
def State.orphanQueue (s : State) (q : Nat) : State :=
  { s with reqs := Tab.mapV s.reqs fun _ r => if r.src = .queue q then { r with src := .nobody } else r }

/-- A queue enters ERROR and is posted (R193, R491). R191 gives up a resident slot at IDLE and
WAITMEM; a queue in ERROR or OFF gives up its slot as well, to a queue that waits for one (DESIGN CHOICE, log entry 50). -/
def State.queueError (s : State) (q : Nat) (err : Byte) : State :=
  let s := s.orphanQueue q
  let x := s.queue q
  let x := { x with st := .error, err := err, epkt := x.rd.extractLsb' 0 16, resident := false, head := [], launch := none,
                    producer := none, sent := false, parked := none }
  let s := (((s.setQueue q x).mirrorQueue q).admitQueues 256).viewHeads
  s.postFault { kind := 3, sub := err, arg := BitVec.ofNat 16 q, ctx := x.ctx, addr := 0, info := x.epkt.zeroExtend 64 }

/-- Every enabled queue of a context enters ERROR with 0x07 (R491). -/
def State.contextQueuesEnd (s : State) (ctx : Nat) : State :=
  (Tab.filterV s.qs.queues (fun _ q => q.en && q.ctx == ctx && q.st != .error)).foldl (fun s q => s.queueError q.1 0x07#8) s

/-- The words a core has pushed toward its neighbours are discarded when it changes context (R178). -/
def State.cutLinks (s : State) (core : Nat) : State :=
  let s := match neighbour core true with
    | some n => s.updCore n fun c => { c with west := [], westWay := [] }
    | none => s
  match neighbour core false with
  | some n => s.updCore n fun c => { c with east := [], eastWay := [] }
  | none => s

/-- A core leaves its context: what R160, R166, R178, R236, R335, R356 and R449 clear. -/
def State.leaveCore (s : State) (core : Nat) : State :=
  let k := s.core core
  let s := s.setCore core { cycle := k.cycle, discarded := k.discarded, fenced := k.fenced, gated := k.gated, forwards := k.forwards }
  let s : State := { s with lz := Tab.filterV s.lz (fun n _ => n / 16 != core) }
  (s.updCe (clusterOf core) fun e => { e with bufs := [] }).cutLinks core

/-- A context ends: its queues enter ERROR, its trigger entries go OFF, its contracts and records end with it, its cores,
tiles and bank entries are free (R341, R396, R397, R491). Its slice map stays while engine operations run to their end. -/
def State.endContext (s : State) (n : Nat) : State :=
  match s.ctx n with
  | none => s
  | some x =>
    let s := s.contextQueuesEnd n
    -- The action of another context's entry that was moving it ends, refused.
    let s := (s.migrations.filter fun m => m.ctx == n).foldl (fun (s : State) m => match m.trigger with
      | some k => if (s.trigger k).st = .firing then s.endAction k 2 else s
      | none => s) s
    let s : State := { s with
      triggers := Tab.mapV s.triggers (fun _ t =>
        if bits t.w0 55 48 = n then { t with en := false, st := TrigSt.off } else t)
      migrations := s.migrations.filter (·.ctx != n)
      qs := { s.qs with inv := Tab.mapV s.qs.inv (fun _ l =>
        l.filter fun i => (s.qs.handlers.getD (bits i.pkt.header 15 4) {}).ctx != n) }
      mgmt := { s.mgmt with attach := s.mgmt.attach && s.mgmt.dbgCtx != n, dbgKill := s.mgmt.dbgKill.filter (·.1 != n) } }
    let s := x.cores.foldl (fun s c => s.leaveCore c) s
    let s : State := { s with clusters := Tab.mapV s.clusters (fun _ k =>
      { k with
        me := { k.me with owner := Tab.filterV k.me.owner (fun _ c => !x.cores.contains c) }
        kse := { k.kse with bank := Tab.filterV k.kse.bank (fun _ b => b.ctx != n), used := Tab.erase k.kse.used n } }) }
    s.setCtx n { x with cores := [], owners := [], recs := [], waiting := [], notices := [], handlersDue := [],
                        contracts := [], heelDue := none, migrating := false, package := {}, out := false, image := [], imageEmpties := [], saved := false,
                        saving := false, dead := true }

/-- A context is live (R191, R397, R486). -/
def State.live (s : State) (n : Nat) : Bool :=
  match s.ctx n with
  | some x => !x.dead
  | none => false

/-- The jobs of an engine that pass stay; an engine left without one counts its idle cycles from now (R309). -/
def Me.keepJobs (m : Me) (now : Word) (ok : Job → Bool) : Me :=
  let l := m.jobs.filter ok
  { m with jobs := l, idleSince := if l.isEmpty && !m.jobs.isEmpty then now else m.idleSince }

/-- A command of the KSE has begun: it was set aside, or it is the running one, the first of its core (R348). -/
def Kse.begun (q : Kse) (c : KseCmd) : Bool :=
  c.aside.isSome || (q.running == some c.core && q.queue.find? (fun d => d.core == c.core) == some c)

/-- The engine operations of a killed context: queued ones go, started ones run to their end, a KSE command that was set aside among
them, their signals and messages discarded (R372). -/
def Cluster.discard (k : Cluster) (ctx : Nat) (now : Word) : Cluster :=
  let mute : Td := ⟨0, 0, 0, 0⟩
  let me := k.me.keepJobs now fun j => j.ctx != ctx || (match k.me.running with
    | some (c, i, _) => j.core == c && j.id == i
    | none => false)
  { k with
    me := { me with jobs := me.jobs.map fun j => if j.ctx = ctx then { j with td := mute } else j },
    ce := { k.ce with copies := (k.ce.copies.filter fun c => c.ctx != ctx || c.started).map fun c =>
      if c.ctx = ctx then { c with td := mute, quiet := true, tag := noTag, ac := false } else c },
    kse := { k.kse with
      queue := (k.kse.queue.filter fun c => c.ctx != ctx || k.kse.begun c).map fun c =>
        if c.ctx = ctx then { c with td := mute, tag := noTag } else c } }

/-- The threads of a context, resident and saved, lose what they hold outside themselves: answers to their requests are discarded
(R372). -/
def State.orphanAll (s : State) (cores : List Nat) : State :=
  cores.foldl (fun s c =>
    let s := (s.core c).slots.foldl (fun s p => (s.release c p.1).orphan c p.1) s
    (s.core c).saved.foldl (fun s p => s.orphan c (16 + p.1)) s) s

/-- Kill a context with a code (R372): every thread ends without decrement or reply, every record and resource is freed,
and a context event names the code. -/
def State.killContext (s : State) (n : Nat) (code : Byte) : State :=
  match s.ctx n with
  | none => s
  | some x =>
    let s := s.orphanAll x.cores
    let s : State := { s with
      messages := s.messages.filter fun p => !x.cores.contains p.1
      clusters := Tab.mapV s.clusters (fun _ k => k.discard n s.time) }
    let s := s.endContext n
    s.postFault { kind := 4, sub := 2, arg := 0, ctx := n, addr := 0, info := code.zeroExtend 64 }

end Sys2Proof.Machine
end

