-- ==== Sys2Proof/Machine/Ops.lean ====
section
/-! DEFINITION. How one instruction of a thread runs (R32): its environment, its stops, taking a trap and returning from
one, line entry, and the shared accesses to registers and memory. -/

namespace Sys2Proof.Machine

/-! ### Records of stops (R368-R372) -/

/-- The slot a record names: that of a saved thread is the one it stood in (R368). -/
def State.slotOf (s : State) (core tag : Nat) : Nat :=
  if tag < 16 then tag else (((s.core core).saved.get? (tag - 16)).map (·.slot)).getD 15

/-- The words of a record, at their offsets in words, as the device writes them for a thread, or for none (R368). A notice shows
no thread state. -/
def State.recordWords (s : State) (core slot ctx : Nat) (st : Stop) (t : Option Thread) : List (Nat × Word) :=
  let exact := match t with
    | some t => t.outst == 0
    | none => true
  let tid := match t with
    | some t => t.tid.toNat
    | none => 0
  let head := [(0, fields [(st.seq.toNat, 48), (st.code.toNat, 40), (st.type, 36), (st.imp.toNat, 35), (exact.toNat, 34), (ctx, 16)]),
    (1, fields [(s.ownChip, 60), (islandOf core, 59), (clusterOf core, 52), (quadOf core, 44), (core, 34), (s.slotOf core slot, 30)]),
    (2, st.pc), (3, st.addr),
    (4, fields [(tid, 32), (st.jobid.toNat, 16), (st.junit, 14), (st.jstate, 12), (st.tile, 8), (st.ecode.toNat, 0)]),
    (5, s.time)]
  let body := match if st.type < 2 then t else none with
    | some t => (List.range 24).map (fun i => (8 + i, t.g[i]?.getD 0)) ++
        [(32, t.pred.zeroExtend 64), (33, t.fpctl), (34, Word.ofNat t.wlim), (35, st.rpc)]
    | none => []
  head ++ body

/-- Write a record of 512 bytes at a physical address: the given words, and zero elsewhere. -/
def State.writeRecord (s : State) (a : Nat) (ws : List (Nat × Word)) : State :=
  (List.range 64).foldl (fun s i => s.write (a + 8 * i) 8 ((ws.lookup i).getD 0).toNat) s

/-- Where record `i` of a context's trap area lies, when the area is die memory. -/
def State.recordAddr (s : State) (x : Ctx) (i : Nat) : Option Nat := s.diePhys x (x.trbase + Word.ofNat (512 * i))

/-- A write of the device into record `i` of a trap area waits: its page is not present, the DRAM is in self-refresh, or a save
has written the context's slices out (R244, R383, R394). -/
def State.areaWaits (s : State) (x : Ctx) (i : Nat) : Bool :=
  match region x.tenant (x.trbase + Word.ofNat (512 * i)) with
  | .paged p => x.areaParked.contains (routeRange p) || (match (s.translate p).1 with
    | .absent => true
    | .dram _ => s.sleeps p
    | _ => false)
  | .sram _ _ => x.out
  | _ => false

/-- Ask for the page of a trap area, or for the end of self-refresh. -/
def State.areaAsk (s : State) (n : Nat) (x : Ctx) (core i : Nat) : State :=
  match region x.tenant (x.trbase + Word.ofNat (512 * i)) with
  | .paged p =>
    if x.areaParked.contains (routeRange p) then s
    else if s.selfRefresh && s.walks p false then { s with dramExit := true } else
    (match (s.translate p).1 with
    | .absent => (s.postPage p n core true false).updCtx n fun y => { y with areaParked := routeRange p :: y.areaParked }
    | _ => if s.sleeps p then { s with dramExit := true } else s)
  | _ => s

/-- The device writes the record of a stopped thread into the lowest free slot of the trap area and launches its handler
(R369, R371, R372); with no free slot, or while the area's page is not at hand, the thread waits without a record. -/
def State.giveRecord (s : State) (core slot : Nat) : State :=
  match s.tagged core slot, s.ctx (s.ctxOf core) with
  | some t, some x =>
    let n := s.ctxOf core
    let go (st : Stop) (upd : Option Nat → Run) : State :=
      let wait := if x.waiting.contains (core, slot) then s else s.setCtx n { x with waiting := x.waiting ++ [(core, slot)] }
      match x.recs.free 0 (2 ^ x.trlog) with
      | none => wait
      | some i =>
        if s.areaWaits x i then wait.areaAsk n x core i else
        let r : TrapRec :=
          { core := core, slot := slot, thread := true, type := st.type, depth := t.depth, since := s.time, seq := x.recSeq }
        let x := { x with recs := Tab.set x.recs i r, recSeq := x.recSeq + 1, waiting := x.waiting.filter (· != (core, slot)) }
        let s := (s.setCtx n x).setTagged core slot { t with run := upd (some i) }
        let s := match s.recordAddr x i with
          | some a => s.writeRecord a (s.recordWords core slot n st (some t))
          | none => s
        if st.type = 1 then s
        else if 4 ≤ t.depth then s.killContext n 0x7F#8
        else s.launchHandler n (some core)
          { pc := x.hpc, args := [x.trbase + Word.ofNat (512 * i), st.code.zeroExtend 64], prio := x.hprio, ctx := n,
            trapinfo := x.trbase + Word.ofNat (512 * i), recSeq := r.seq, depth := t.depth + 1 }
    match t.run with
    | .trapped st none => go st (fun i => .trapped st i)
    | .stopped st none => go st (fun i => .stopped st i)
    | _ => s
  | _, _ => s

/-- A record that no decision resumes: a notice of TYPE 2, 3 or 4, or the record of a thread that a lasting error ends; its handler
starts on a core of HSET, at depth 1 (R371, R372, R374, R412; log entry 53). Without a free slot, or while the area's page is not at
hand, it waits (R369). -/
def State.noticeOf (s : State) (core slot ctx : Nat) (st : Stop) (t : Option Thread) : State :=
  match s.ctx ctx with
  | none => s
  | some x =>
    match x.recs.free 0 (2 ^ x.trlog) with
    | none => s.setCtx ctx { x with notices := x.notices ++ [(core, slot, st, t)] }
    | some i =>
      if s.areaWaits x i then (s.setCtx ctx { x with notices := x.notices ++ [(core, slot, st, t)] }).areaAsk ctx x core i else
      let r : TrapRec :=
        { core := core, slot := slot, thread := false, type := st.type, depth := 0, since := s.time, seq := x.recSeq }
      let s := s.setCtx ctx { x with recs := Tab.set x.recs i r, recSeq := x.recSeq + 1 }
      let s := match s.recordAddr x i with
        | some a => s.writeRecord a (s.recordWords core slot ctx st t)
        | none => s
      s.launchHandler ctx none
        { pc := x.hpc, args := [x.trbase + Word.ofNat (512 * i), st.code.zeroExtend 64], prio := x.hprio, ctx := ctx,
          trapinfo := x.trbase + Word.ofNat (512 * i), recSeq := r.seq, depth := 1 }

/-- The same of the thread that a tag names now, its slot and its state as they stand. -/
def State.notice (s : State) (core tag ctx : Nat) (st : Stop) : State :=
  s.noticeOf core (s.slotOf core tag) ctx st (s.tagged core tag)

/-- What a thread gives up when the instruction it was executing has no effect: reservations, answers, a line that was
fetched, a result not yet written (R20, R38). The count of a wait that has issued stays (R168, R267). -/
def Thread.giveUp (t : Thread) : Thread :=
  { t with pending := none, heldPops := [], heldRoom := [], replies := [], filled := [], entered := none, fetched := none,
           heldEntry := none, heldDeque := false, lineParked := false, waitsFor := [] }

/-- TAKING A TRAP (R369): the thread becomes TRAPPED with its state as it stood, gives up what its instruction held, and
gets its record and its handler. -/
def State.takeTrap (s : State) (core slot : Nat) (st : Stop) : State :=
  let s := s.release core slot
  let s := s.updThread core slot fun t => { t.giveUp with run := .trapped st none, waited := none }
  s.giveRecord core slot

/-- A debugger stop (R380): a record of TYPE 1 and no handler. -/
def State.takeStop (s : State) (core slot : Nat) (st : Stop) : State :=
  let s := s.release core slot
  let s := s.updThread core slot fun t => { t.giveUp with run := .stopped { st with type := 1 } none, waited := none }
  s.giveRecord core slot

/-- THE RETURN FROM A TRAP (R375, eresume): the stopped thread takes the record's registers and goes on at its RPC with no
entered line (R32). `a` is the record's physical address. -/
def Thread.resume (t : Thread) (s : State) (a : Nat) : Thread :=
  let w := fun i => s.word (a + 8 * i)
  { t.giveUp with
    g := Vector.ofFn fun (i : Fin 24) => w (8 + i.val)
    pred := ((w 32).extractLsb' 0 8) ||| 1#8
    fpctl := w 33 &&& 0x3F3#64
    wlim := clampNat (2 ^ 8) (2 ^ 28) (bits (w 34) 28 0)
    pc := w 35
    line := none
    waited := none
    cancelling := t.cancelling.filter (·.1 == w 35)
    run := .ready }

/-! ### One instruction (R32) -/

/-- How an instruction ends when it does not complete. -/
inductive Halt where
  | trap (st : Stop)
  /-- It parks; a counted wait is a synchronising wait, whose 0x12 trap names the address. -/
  | park (w : Wait) (counted : Bool) (addr : Word)
  /-- The divider or the SFU holds its result (R96, R152). -/
  | hold (r : Result)
  | fault (f : Fault)

/-- An instruction in execution: the state it has made so far, the state a park leaves, and its thread. -/
structure Env where
  core : Nat
  slot : Nat
  s : State
  keep : State
  th : Thread
  lat : Nat := 1
  /-- Answers used so far, in order. -/
  log : List Reply := []
  /-- PLB entries its checks have used: a check is made once, at issue (R237, R263). -/
  used : List (Nat × Option PlbEntry) := []
  /-- The unit that will write the result, the SFU or the divider, and its latency. -/
  unit : Option (Bool × Nat) := none
  pops : List Chan := []
  pushes : List (Chan × Word) := []
  /-- A destination is a row end (R21). -/
  rowEnd : Bool := false
  /-- The instruction ends its thread here, so no next line is entered (R208). -/
  ends : Bool := false
  /-- The command handed to an engine, for a debugger's record (R381): unit, tile, ID. -/
  job : Nat × Nat × BitVec 16 := (0, 0, 0)

abbrev Exec := EStateM Halt Env

namespace Exec

/-- Change the state the instruction makes. -/
def modS (f : State → State) : Exec Unit := modify fun e => { e with s := f e.s }
/-- Change the state a park leaves. -/
def modKeep (f : State → State) : Exec Unit := modify fun e => { e with keep := f e.keep }
/-- An effect outside the thread that stands even when the instruction parks afterwards. -/
def both (f : State → State) : Exec Unit := modify fun e => { e with s := f e.s, keep := f e.keep }
/-- Change the thread. -/
def modTh (f : Thread → Thread) : Exec Unit := modify fun e => { e with th := f e.th }
/-- Change the thread a park leaves. -/
def modKeepTh (f : Thread → Thread) : Exec Unit := modify fun e => { e with keep := e.keep.updThread e.core e.slot f }
def updCore (f : Core → Core) : Exec Unit := modify fun e => { e with s := e.s.updCore e.core f }

/-- A stop of the running instruction. -/
def mkStop (e : Env) (code : Byte) (addr : Word) : Stop := { code := code, pc := e.th.pc, rpc := e.th.pc, addr := addr }

/-- End with a fault code. -/
def trap {α : Type} (code : Byte) (addr : Word := 0) : Exec α := do
  let e ← get
  throw (.trap (mkStop e code addr))

/-- Park; the instruction runs again from its start, with the answers and the rights it has used. -/
def park {α : Type} (w : Wait) (counted : Bool := false) (addr : Word := 0) : Exec α := do
  modify fun e => { e with keep := e.keep.updThread e.core e.slot fun t => { t with replies := e.log, filled := e.used ++ t.filled } }
  throw (.park w counted addr)

/-- An answer of an earlier attempt, or the value computed now; either is used from here on. -/
def observe (x : Exec Reply) : Exec Reply := do
  let e ← get
  let r ← match e.th.replies[e.log.length]? with
    | some r => pure r
    | none => x
  modify fun e => { e with log := e.log ++ [r] }
  return r

/-- The context of the core. -/
def ctx : Exec (Nat × Ctx) := do
  let e ← get
  let n := e.s.ctxOf e.core
  return (n, (e.s.ctx n).getD {})

/-! ### Rights (R122, R235, R236) -/

/-- The rights byte for an address through the PLB, parking for the fill; no mapping traps 0x11. -/
def rights (a : Word) (addr : Word) : Exec Byte := do
  let e ← get
  let (_, x) ← ctx
  let n := plbKey x.tenant a
  match e.th.filled.find? (fun f => f.1 == n / 2 ^ 17) with
  | some (_, none) => trap 0x11#8 addr
  | some (_, some p) => return p.rights
  | none =>
    match plbFind (e.s.core e.core).plb n with
    | some p =>
      updCore fun c => { c with plb := plbTouch c.plb p }
      modify fun e => { e with used := (n / 2 ^ 17, some p) :: e.used }
      return p.rights
    | none => park (.plb a)

/-- The address map and the rights of an access (R122, R226, R235): where it goes. -/
def access (a : Word) (need : Byte) : Exec Place := do
  let e ← get
  let (_, x) ← ctx
  match e.s.mapCheck e.core x a with
  | .error c => trap c a
  | .ok (.mgmt off) => return .mgmt off
  | .ok p =>
    let r ← rights a a
    if r &&& need = need then return p else trap 0x10#8 a

/-- Alignment (R29). -/
def align (a : Word) (n : Nat) : Exec Unit := if a.toNat % n = 0 then pure () else trap 0x13#8 a

/-! ### Line entry (R32, R36, R37, R44) -/

def parcel (b : Vec) (p : Nat) : BitVec 16 := b.extractLsb' (16 * p) 16
/-- Tail length in parcels (R42). -/
def tailLen (h : BitVec 16) : Nat :=
  match (h.extractLsb' 0 2).toNat with
  | 3 => 4
  | n => n
def headCount (b : Vec) : Nat := ((parcel b 0).extractLsb' 11 5).toNat
/-- The sum of the tail lengths of heads 1 to n. -/
def tailSum (b : Vec) : Nat → Nat
  | 0 => 0
  | n + 1 => tailSum b n + tailLen (parcel b (n + 1))

/-- The layout of a line (R44): header, room, filler. -/
def lineOk (b : Vec) : Bool :=
  let n := headCount b
  let s := tailSum b n
  (parcel b 0).extractLsb' 0 11 == 0 && n != 0 && n != 31 && decide (1 + n + s ≤ 32)
    && (List.range (31 - s - n)).all fun j => parcel b (n + 1 + j) == 0

/-- Head and tail of a head index (R43, R44). -/
def headTail (b : Vec) (i : Nat) : BitVec 16 × Word :=
  let h := parcel b i
  let start := 32 - tailSum b i
  (h, match tailLen h with
    | 0 => 0
    | 1 => (b.extractLsb' (16 * start) 16).zeroExtend 64
    | 2 => (b.extractLsb' (16 * start) 32).zeroExtend 64
    | _ => b.extractLsb' (16 * start) 64)

def headIdx (pc : Word) : Nat := (pc.extractLsb' 1 5).toNat
def lineNum (pc : Word) : Nat := pc.toNat / 64

/-- The bytes of a line in die memory, none where it lies elsewhere; a fenced block traps 0x72. -/
def lineBytes (s : State) (p : Place) : Option (Except Byte Vec) :=
  let at_ := fun a => if s.fencedAt a then some (.error 0x72#8) else some (.ok (BitVec.ofNat 512 (s.read a 64)))
  match p with
  | .sram a => at_ a
  | .mgmt off => some (.ok (s.regBytes true off 64))
  | .paged a => match (s.translate a).1 with
    | .dram d => at_ d
    | _ => none

/-- The right X to the page of a line (R36); management space has none (R226). -/
def lineRights (p : Place) (a pc : Word) : Exec Unit :=
  match p with
  | .mgmt _ => pure ()
  | _ => do
    let r ← rights a pc
    if r &&& rX = rX then pure () else trap 0x14#8 pc

/-- The bytes of a line, from the line buffers or by a line fetch, whose refusal traps at the target pc (R37, R187); `e` is the
instruction before the checks of the entry. -/
def lineFor (e : Env) (p : Place) (pc : Word) : Exec Line :=
  let wait : Exec Line := park (.line (lineNum pc))
  match e.th.fetched with
  | some (.line l) => if l.num = lineNum pc then pure l else wait
  | some (.refused n c) => if n = lineNum pc then trap c pc else wait
  | none =>
    if (e.s.core e.core).ilb.contains (lineNum pc) then
      match lineBytes e.s p with
      | some (.ok b) => pure ⟨lineNum pc, b⟩
      | some (.error c) => trap c pc
      | none => wait
    else wait

/-- Fetch the line of a pc (R37): checks in order, then the line. -/
def fetchLine (pc : Word) : Exec Line := do
  let e ← get
  let (_, x) ← ctx
  let a := Word.ofNat (lineNum pc * 64)
  if e.th.fenceLeft ≠ 0 then park .sbEmpty else pure ()
  let p ← match e.s.mapCheck e.core x a with
    | .error c => trap c pc
    | .ok p => pure p
  lineRights p a pc
  let line ← lineFor e p pc
  if lineOk line.bytes then return line else trap 0x03#8 pc

/-- Enter the line of a pc (R32): 0x04 for bit 0 or head index 0 (R34), the faults of the line, then 0x04 for a head index
beyond its N. -/
def enter (pc : Word) : Exec Line := do
  let e ← get
  let line ← match e.th.entered with
    | some (p, l) => if p = pc then pure l else fetchLine pc
    | none =>
      if pc.getLsbD 0 ∨ headIdx pc = 0 then trap 0x04#8 pc else
      match e.th.line with
      | some l => if l.num = lineNum pc then pure l else fetchLine pc
      | none => fetchLine pc
  if headIdx pc ≤ headCount line.bytes then return line else trap 0x04#8 pc

/-- The next pc in program order (R32). -/
def nextPc : Exec Word := do
  let e ← get
  let i := headIdx e.th.pc
  let n := match e.th.line with
    | some l => headCount l.bytes
    | none => i + 1
  if i < n then return Word.ofNat (lineNum e.th.pc * 64 + 2 * (i + 1))
  else return Word.ofNat ((lineNum e.th.pc + 1) * 64 + 2)

/-- Before an effect outside the thread: the faults of a row end (R21) and of entering the next line come first (R33),
and the line so entered is kept. -/
def ensureNext : Exec Unit := do
  let e ← get
  if e.rowEnd then trap 0x15#8 else pure ()
  if e.ends then pure () else
  match e.th.entered with
  | some _ => pure ()
  | none =>
    let pc ← nextPc
    let l ← enter pc
    modTh fun t => { t with entered := some (pc, l) }
    modKeepTh fun t => { t with entered := some (pc, l) }

/-! ### General registers, ports and links (R18-R21) -/

/-- What a paired thread may not use (R409). -/
def unpaired : Exec Unit := do if (← get).th.twin.isSome then trap 0x01#8 else pure ()

/-- The channel a register field names for reading or writing; a port that is not bound so traps 0x01 (R19), and so does
any port or link of a paired thread (R409). -/
def chan (wr : Bool) : Reg → Exec (Option Chan)
  | .x n => do
    unpaired
    match (← get).th.ports[n.val] with
    | some b => if b.wr = wr then return some (.queue b.queue) else trap 0x01#8
    | none => trap 0x01#8
  | .lw => do
    unpaired
    return some .west
  | .le => do
    unpaired
    return some .east
  | _ => return none

/-- A link that behaves as a row end (R21, R178). -/
def linkEnd (s : State) (core : Nat) (east : Bool) : Option Nat :=
  match neighbour core east with
  | none => none
  | some n => if (s.core n).ctx = (s.core core).ctx ∧ (s.core core).ctx.isSome ∧ !s.isPlinth n ∧ !(s.core n).fenced then some n else none

/-- Words of a channel that another thread of the core has reserved, one saved on a blocking job included (R20, R312). -/
def heldBy (c : Core) (slot : Nat) (rd : Bool) (ch : Chan) : Nat :=
  let held := fun (t : Thread) => ((if rd then t.heldPops else t.heldRoom).filter (· == ch)).length
  c.slots.foldl (fun n p => if p.1 = slot then n else n + held p.2) 0 + c.saved.foldl (fun n p => n + held p.2.th) 0

/-- The words present in a channel for reading: none while another thread has reserved its head (R20). -/
def present (s : State) (core slot : Nat) (ch : Chan) : List Word :=
  let c := s.core core
  if 0 < heldBy c slot true ch then [] else
  match ch with
  | .queue q => c.queues.getD q []
  | .west => if (linkEnd s core false).isSome then c.west else []
  | .east => if (linkEnd s core true).isSome then c.east else []

/-- The room left in a channel for writing: queues of 4, links of 8, less what others have reserved (R20, R175, R177). -/
def room (s : State) (core slot : Nat) (ch : Chan) : Nat :=
  let c := s.core core
  let held := heldBy c slot false ch
  match ch with
  | .queue q => 4 - (c.queues.getD q []).length - held
  | .west => match linkEnd s core false with
    | some n => 8 - ((s.core n).east.length + (s.core n).eastWay.length) - held
    | none => 0
  | .east => match linkEnd s core true with
    | some n => 8 - ((s.core n).west.length + (s.core n).westWay.length) - held
    | none => 0

/-- Take the head word of a channel. -/
def popChan (s : State) (core : Nat) (ch : Chan) : State :=
  s.updCore core fun c => match ch with
    | .queue q => { c with queues := Tab.set c.queues q ((c.queues.getD q []).drop 1) }
    | .west => { c with west := c.west.drop 1 }
    | .east => { c with east := c.east.drop 1 }

/-- Put a word into a channel; on a link it can be popped from the reader's second cycle on, and none of the further cycles that
R177 allows between two clocks is taken (DESIGN CHOICE, log entry 58). -/
def pushChan (s : State) (core : Nat) (ch : Chan) (w : Word) : State :=
  match ch with
  | .queue q => s.updCore core fun c => { c with queues := Tab.set c.queues q (c.queues.getD q [] ++ [w]) }
  | .west => match neighbour core false with
    | some n => s.updCore n fun c => { c with eastWay := c.eastWay ++ [(w, c.cycle + 2)] }
    | none => s
  | .east => match neighbour core true with
    | some n => s.updCore n fun c => { c with westWay := c.westWay ++ [(w, c.cycle + 2)] }
    | none => s

/-- The value of a field that needs no word (R18). -/
def regVal (t : Thread) : Reg → Word
  | .g n => t.g[n]
  | _ => 0

/-- Read the source fields in order, popping the words of ports and links, and reserve the room of the destination fields:
all together, or the thread parks (R18-R20). A write toward a row end does not wait (R21; log entry 14). -/
def operands (srcs dsts : List Reg) : Exec (List Word) := do
  let rd ← srcs.mapM (chan false)
  let wr ← dsts.mapM (chan true)
  let e ← get
  let pops := rd.filterMap id
  let rooms := wr.filterMap id
  let ends := rooms.filter fun c => c == .west && (linkEnd e.s e.core false).isNone || c == .east && (linkEnd e.s e.core true).isNone
  let rooms := rooms.filter fun c => !ends.contains c
  let need := fun (l : List Chan) (c : Chan) => (l.filter (· == c)).length
  let ok := pops.all (fun c => need pops c ≤ (present e.s e.core e.slot c).length)
    && rooms.all (fun c => need rooms c ≤ room e.s e.core e.slot c)
  if !ok then (if ends.isEmpty then park .port true else trap 0x15#8) else pure ()
  let take := fun (acc : List Word × State) (p : Reg × Option Chan) =>
    match p.2 with
    | some c => (acc.1 ++ [(present acc.2 e.core e.slot c).headD 0], popChan acc.2 e.core c)
    | none => (acc.1 ++ [regVal e.th p.1], acc.2)
  let (vals, s) := (srcs.zip rd).foldl take ([], e.s)
  modify fun e => { e with s := s, pops := e.pops ++ pops, rowEnd := e.rowEnd || !ends.isEmpty }
  if pops.isEmpty && rooms.isEmpty then pure ()
  else modKeepTh fun t => { t with heldPops := pops, heldRoom := rooms }
  return vals

/-- Read one source field. -/
def src1 (a : Reg) (dsts : List Reg) : Exec Word := do return (← operands [a] dsts).headD 0
/-- Read two source fields. -/
def src2 (a b : Reg) (dsts : List Reg) : Exec (Word × Word) := do
  let l ← operands [a, b] dsts
  return (l.headD 0, (l.drop 1).headD 0)
/-- Read three source fields. -/
def src3 (a b c : Reg) (dsts : List Reg) : Exec (Word × Word × Word) := do
  let l ← operands [a, b, c] dsts
  return (l.headD 0, (l.drop 1).headD 0, (l.drop 2).headD 0)

/-- Write a destination field (R18): z discards, a port or link pushes. -/
def write (d : Reg) (w : Word) : Exec Unit := do
  match d with
  | .g n => modTh fun t => { t with g := t.g.set n w }
  | .z => pure ()
  | d => match (← chan true d) with
    | some c => modify fun e => { e with s := if e.rowEnd then e.s else pushChan e.s e.core c w, pushes := e.pushes ++ [(c, w)] }
    | none => pure ()

/-- A predicate register; p0 reads 1 (R15). -/
def pget (t : Thread) (p : BitVec 3) : Bool := p == 0 || t.pred.getLsbD p.toNat

/-- Write a predicate register; a write to p0 is discarded (R15). -/
def setPred (w : BitVec 8) (p : BitVec 3) (b : Bool) : BitVec 8 :=
  if p = 0 then w else if b then w ||| (1#8 <<< p.toNat) else w &&& ~~~(1#8 <<< p.toNat)
def writePred (p : BitVec 3) (b : Bool) : Exec Unit := modTh fun t => { t with pred := setPred t.pred p b }

/-- The latency of the instruction (R101). -/
def latency (n : Nat) : Exec Unit := modify fun e => { e with lat := n }

/-! ### Loads and stores (R120-R124) -/

/-- Does a buffered store write the byte at a number; and all or any of the needed bytes from `a` (R121). -/
def SbEntry.hits (a : Nat) (en : BitVec 64) : SbEntry → Bool × Bool
  | .marker _ => (false, false)
  | .store sa _ se _ =>
    let has := fun i => decide (sa.toNat ≤ a + i) && decide (a + i < sa.toNat + 64) && se.getLsbD (a + i - sa.toNat)
    let need := (List.range 64).filter fun i => en.getLsbD i
    (need.any has, need.all has)

/-- The bytes of a buffered store, moved to the address read. -/
def SbEntry.from (a : Nat) : SbEntry → Vec
  | .marker _ => 0
  | .store sa d _ _ => if sa.toNat ≤ a then d >>> (8 * (a - sa.toNat)) else d <<< (8 * (sa.toNat - a))

/-- Enter a request in the die's network, where it stands, and park for its answer. -/
def enterReq (addr : Word) (acc : Access) (st : ReqState) (w : Wait) : Exec Reply := do
  let e ← get
  let (n, _) ← ctx
  modKeep fun s => { s with reqs := Tab.set s.reqs s.nextReq { src := .thread e.core e.slot, ctx := n, addr := addr, acc := acc, st := st },
                            nextReq := s.nextReq + 1 }
  park w

/-- Put an entry into the thread's compare queue, which has room for 16, and park until it has been performed (R409). -/
def toPair (c : CmpEntry) (w : Wait := .pair) : Exec Reply := do
  if 16 ≤ (← get).th.cmpq.length then park .sbRoom else
  modKeepTh fun t => { t with cmpq := t.cmpq ++ [c] }
  park w

/-- Send a request and park for its answer (R122). An access that changes memory enters the next line first (R32). -/
def send (addr : Word) (acc : Access) (w : Wait := .request) (formed : Word := addr) : Exec Reply := do
  match acc with
  | .read _ => pure ()
  | _ => ensureNext
  match (← get).th.twin with
  | some _ =>
    -- A synchronising access keeps counting its rotations (R264).
    match acc with
    | .sync _ _ => toPair (.access addr acc formed) w
    | _ => toPair (.access addr acc formed)
  | none => enterReq addr acc .queued w

/-- Send a request and wait for its answer. -/
def ask (addr : Word) (acc : Access) (w : Wait := .request) (formed : Word := addr) : Exec Reply := observe (send addr acc w formed)

/-- The data of an answer; a refusal traps at the instruction's PC (R245). -/
def answer (r : Reply) (addr : Word) : Exec Vec :=
  match r with
  | .val v => pure v
  | .err c => trap c addr

/-- The place is the thread's own quad slice, for no element of its own (`far`): such a load does not park (R101). -/
def nearby (e : Env) (p : Place) (far : Bool) : Bool :=
  match p with
  | .sram q => !far && q / 2 ^ 21 == quadOf e.core
  | _ => false

/-- The answer of a load of the bytes of `en` among the `n` from an address that has passed its checks: from the youngest
buffered store that overlaps them when it holds them all, else from memory (R121, R122). The thread's own quad slice
answers at once; for any other place, and for an element of its own (`far`), the thread parks for the answer, be it the buffer's or
that of a register it has read (R101). -/
def loadReply (a : Word) (n : Nat) (en : BitVec 64) (p : Place) (far : Bool) : Exec Reply := do
  let e ← get
  let (_, x) ← ctx
  let key := plbKey x.tenant a
  match e.th.sb.reverse.find? (fun s => (SbEntry.hits key en s).1) with
  -- A paired thread's load leaves its core whatever the buffer holds, so that both twins send it (R409).
  | some s =>
    if !(SbEntry.hits key en s).2 || e.th.twin.isSome then park .sbEmpty
    else if nearby e p far then return .val (SbEntry.from key s)
    else enterReq (Word.ofNat key) (.read n) (.answered (.val (SbEntry.from key s))) .request
  | none =>
    match p with
    | .sram q =>
      if e.th.twin.isSome ∨ !nearby e p far then send (Word.ofNat key) (.read n) .request a
      else if e.s.fencedAt q then return .err 0x72#8 else return .val (BitVec.ofNat 512 (e.s.read q n))
    | .mgmt off =>
      if e.th.twin.isSome then send (Word.ofNat key) (.read n) .request a else
      match e.s.winFar off with
      -- Through the memory window to the host or another chip: a read that fails is all ones, and counted (R482).
      | some q => send q (.read n)
      | none =>
        modKeep fun s => if s.winFails off then (s.latchEnergy off n).count 10 else s.latchEnergy off n
        enterReq (Word.ofNat key) (.read n) (.answered (.val (e.s.regBytes true off n))) .request
    | .paged q => send (if e.th.twin.isSome then Word.ofNat key else q) (.read n) .request a

/-- Load from an address that has passed its checks. A value once taken stands while the instruction waits for another. -/
def loadAt (a : Word) (n : Nat) (en : BitVec 64) (p : Place) (far : Bool := false) : Exec Vec := do
  let r ← observe (loadReply a n en p far)
  match p, r with
  | .mgmt off, .err _ =>
    modS fun s => if inMemWindow off then s.count 10 else s
    return BitVec.allOnes 512
  | _, _ => answer r a

/-- The enable bits of the first `n` bytes. -/
def firstBytes (n : Nat) : BitVec 64 := BitVec.ofNat 64 (2 ^ n - 1)

/-- A load of `n` bytes as one unit: alignment, map, rights, then the value (R122). -/
def load (a : Word) (n : Nat) : Exec Vec := do
  align a n
  let p ← access a rR
  match p with
  | .sram q => if q / 2 ^ 21 = quadOf (← get).core then latency 8 else pure ()
  | _ => pure ()
  loadAt a n (firstBytes n) p

/-- Put a store into the slot's buffer, under its canonical address (R121, R227). -/
def store (a : Word) (data : Vec) (en : BitVec 64) : Exec Unit := do
  let e ← get
  let (_, x) ← ctx
  if 8 ≤ e.th.sb.length then park .sbRoom else
  modTh fun t => { t with sb := t.sb ++ [.store (Word.ofNat (plbKey x.tenant a)) data en a] }

/-- Have the device do something in one step, once for both threads of a pair: its answer (R409). -/
def command (c : DevCmd) (f : State → Word × State) : Exec Word := do
  ensureNext
  let e ← get
  match e.th.twin with
  | none =>
    both fun s => (f s).2
    return (f e.s).1
  | some _ =>
    match ← observe (toPair (.command c)) with
    | .val v => return v.setWidth 64
    | .err _ => return 0

/-- Park until the slot's store buffer is empty (R251), and so is what a paired thread has in its compare queue (R409). -/
def drained : Exec Unit := do
  let e ← get
  if e.th.sb.isEmpty && e.th.cmpq.isEmpty then pure () else park .sbEmpty

/-- Park until the store buffer is empty and the outstanding count is zero (R208). -/
def settled : Exec Unit := do
  drained
  if (← get).th.outst = 0 then pure () else park .outst

/-- Room in the outstanding count for one request more (R377). -/
def outRoom : Exec Unit := do if (← get).th.outst < 65535 then pure () else park .outst

/-! ### TD waits and signals within the thread (R48) -/

/-- Wait as a synchronising wait; a poisoned semaphore traps with its code. -/
def tdWait (td : Td) : Exec Unit := do
  let e ← get
  if td.wt = 0#8 then pure () else
  let k := (e.s.core e.core).sem td.ws.toNat
  if k.p then trap k.code else
  if td.wt.toNat ≤ k.v then pure () else park .sem true

/-- Signal when the instruction completes. -/
def tdSignal (td : Td) : Exec Unit := do
  let e ← get
  modS fun s => if e.th.twin.isSome then s.signalOwn e.core td else s.signal e.core td

/-! ### Completion (R32, R101) -/

/-- Where an instruction that completes leaves its thread. -/
inductive Next where
  | advance
  | goto (pc : Word)
  /-- The thread is no longer in its slot, or the state has been made whole by the instruction itself. -/
  | gone

/-- The thread that has completed its instruction. -/
def Thread.done (t : Thread) (pc : Word) (l : Line) (at_ : Nat) : Thread :=
  { t with pc := pc, line := some l, run := .ready, readyAt := at_, heldPops := [], heldRoom := [], replies := [],
           filled := [], entered := none, fetched := none, waited := none, heldEntry := none, heldDeque := false, cancelling := none,
           lineParked := false, waitsFor := [] }

/-- The stop of a thread in step mode after its instruction, which goes on at `next` (R380, R381). -/
def stopAfter (e : Env) (next : Word) : Option Stop :=
  if !e.th.step then none else
  let (u, tile, id) := e.job
  some { code := 0, pc := e.th.pc, rpc := next, junit := u, tile := tile, jobid := id, jstate := if u = 0 then 0 else 1 }

/-- A thread in step mode stops after its instruction (R380). -/
def stepStop (e : Env) (next : Word) (s : State) : State :=
  match stopAfter e next with
  | some st => s.takeStop e.core e.slot st
  | none => s

/-- The end of an instruction: row end, entry of the next line, then the new state of the thread (R32, R33). A division or
an SFU request leaves its result with the unit, and so does an instruction with L above 16, which parks (R101, R139). -/
def finish (n : Next) : Exec Unit := do
  match n with
  | .gone => pure ()
  | _ =>
    if (← get).rowEnd then trap 0x15#8 else pure ()
    let pc ← match n with
      | .goto pc => pure pc
      | _ => nextPc
    let l ← enter pc
    let e ← get
    let at_ := (e.s.core e.core).cycle + e.lat
    match e.unit <|> (if 16 < e.lat then some (false, e.lat) else none) with
    | some (sfu, lat) =>
      throw (.hold { done := (e.s.core e.core).cycle + lat, g := e.th.g, pred := e.th.pred, v := e.th.v, m := e.th.m,
                     fpctl := e.th.fpctl, streams := e.th.streams, sb := e.th.sb.drop (((e.keep.thread e.core e.slot).getD e.th).sb.length),
                     pops := e.pops, pushes := e.pushes, pc := pc, line := some l, sfu := sfu, started := !sfu })
    | none =>
      set { e with s := stepStop e pc (e.s.setThread e.core e.slot (Thread.done e.th pc l at_)) }

/-- A wait that only brings what another wait of the instruction needs: a rights fill, a line, an answer, the own cycle to go on in. -/
def interlude : Wait → Bool
  | .plb _ | .line _ | .request | .pair | .elem _ | .due _ => true
  | _ => false

/-- The wait a thread is in, or has left for an interlude: the wait, its limit, its rotations, when it began. -/
def waitOf (t : Thread) : Option (Wait × Nat × Nat × Word) :=
  match t.run with
  | .parked w l n => if interlude w then t.waited else some (w, l, n, t.parkedAt)
  | _ => t.waited

/-- What a park leaves: a wait of the kind the thread was already in goes on counting, and ends at its limit with 0x12
(R24, R176). A rights fill, a line fetch or an answer between keeps the count (R171, R267). -/
def parked (e : Env) (w : Wait) (counted : Bool) (addr : Word) : State :=
  let before := waitOf e.th
  let (lim, wc, at_) := match before with
    | some (w', l, n, since) => if w'.ctorIdx = w.ctorIdx then (l, n + 1, since) else (e.th.wlim, 0, e.s.time)
    | none => (e.th.wlim, 0, e.s.time)
  if counted ∧ lim ≤ wc then e.keep.takeTrap e.core e.slot (mkStop e 0x12#8 addr)
  else e.keep.updThread e.core e.slot fun t =>
    { t with run := .parked w lim wc, parkedAt := at_, waited := if interlude w then before else none }

/-- The outcome of an instruction. -/
def settle : EStateM.Result Halt Env Unit → Host.Outcome State Fault Refusal
  | .ok _ e => .next e.s
  | .error (.trap st) e => .next (e.keep.takeTrap e.core e.slot st)
  | .error (.park w c a) e => .next (parked e w c a)
  | .error (.hold r) e =>
    let s := e.keep.updThread e.core e.slot fun t => { t with pending := some r, run := .parked .unit 0 0 }
    .next (if r.sfu then s.updCore e.core fun c => { c with sfuFifo := c.sfuFifo ++ [e.slot] } else s)
  | .error (.fault f) _ => .fault f

end Exec

open Exec

/-- Run an instruction of the current thread (R32): a false guard only advances. -/
def runThread (g : Guard) (body : Exec Next) (s : State) : Host.Outcome State Fault Refusal :=
  match s.cur with
  | none => .fault .noThread
  | some (core, slot) =>
    match s.thread core slot with
    | none => .fault .noThread
    | some t =>
      let e : Env := { core := core, slot := slot, s := s, keep := s, th := t }
      if pget t g then settle ((body >>= finish) e) else settle (finish .advance e)

end Sys2Proof.Machine
end

