-- ==== Sys2Proof/Machine/Flags.lean ====
section
/-! DEFINITION. fpctl (R22): the rounding mode an instruction selects, and the flags it sets when it completes. -/

namespace Sys2Proof.Machine

/-- The bits of fpctl that flags set (R22). -/
def Flags.word (f : Flags) : Word :=
  fields [(f.sat.toNat, 9), (f.nx.toNat, 8), (f.uf.toNat, 7), (f.ovf.toNat, 6), (f.dz.toNat, 5), (f.nv.toNat, 4)]

/-- The flags of several operations together (R134). -/
def Flags.all (l : List Flags) : Flags := l.foldl Flags.or .none

/-- The mode an encoding selects; `dyn` takes fpctl.RM (R22, R50). -/
def RMode.select (rm : Rm) (fpctl : Word) : RMode :=
  match rm with
  | .rne => .rne
  | .rtz => .rtz
  | .rup => .rup
  | .rdn => .rdn
  | .dyn => .ofBits (fpctl.extractLsb' 0 2)

/-- What a write of fpctl stores: its reserved bits stay zero (R22, R114). -/
def fpctlOf (w : Word) : Word := w &&& 0x3F3#64

namespace Exec

/-- Flags are sticky: they are added to fpctl when the instruction completes (R22). -/
def setFlags (f : Flags) : Exec Unit := modTh fun t => { t with fpctl := t.fpctl ||| f.word }

/-- The rounding mode of the instruction. -/
def mode (rm : Rm) : Exec RMode := do return .select rm (← get).th.fpctl

end Exec
end Sys2Proof.Machine
end

