-- ==== Sys2Proof/Machine/Operands.lean ====
section
/-! DEFINITION. Operand forms: narrow values in general registers (R75), immediates (R56), effective addresses
(R120, R123), vector elements and masks (R16, R134), and vector registers bound as streams (R17, R135, R136, R155). -/

namespace Sys2Proof

/-- The low bits of a register, as an operand of a type reads them (R75). -/
def Ty.low (t : Ty) (w : Word) : Nat := w.toNat % 2 ^ t.width

/-- A result of a type's width in a general register: sign-extended for the i types, zero-extended otherwise (R75). -/
def Ty.place (t : Ty) (n : Nat) : Word := if t.signed then Word.ofInt (t.toInt n) else Word.ofNat n

/-- The number of elements of a vector of a type (R134). -/
def Ty.count (t : Ty) : Nat := 512 / t.width

/-- The bytes of an element. -/
def Ty.bytes (t : Ty) : Nat := t.width / 8

end Sys2Proof

namespace Sys2Proof.Machine

/-! ### Immediates and addresses -/

def sext21 (i : BitVec 21) : Word := i.signExtend 64
def zext21 (i : BitVec 21) : Word := i.zeroExtend 64

/-- The effective address of a scalar access: base, index times 2^s, displacement (R120). -/
def effAddr (a b : Word) (s : Nat) (disp : BitVec 11) : Word := a + (b <<< s) + disp.signExtend 64

/-- A memory value of `n` bytes in a register (R119). -/
def extend (signed : Bool) (n : Nat) (v : Nat) : Word :=
  if signed ∧ 2 ^ (8 * n - 1) ≤ v then Word.ofNat (v + (2 ^ 64 - 2 ^ (8 * n))) else Word.ofNat v

/-! ### Vectors (R16, R134) -/

/-- Element i of a vector. -/
def elem (t : Ty) (v : Vec) (i : Nat) : Nat := v.toNat / 2 ^ (t.width * i) % 2 ^ t.width

/-- The elements of a vector, element 0 first. -/
def elems (t : Ty) (v : Vec) : List Nat := (List.range t.count).map (elem t v)

/-- A vector from its elements, element 0 first. -/
def ofElems (t : Ty) (l : List Nat) : Vec :=
  BitVec.ofNat 512 (l.foldr (fun e n => e % 2 ^ t.width + 2 ^ t.width * n) 0)

/-- The mask word of an instruction: all ones without a mask (R134). -/
def maskOf (t : Thread) : Option MReg → Word
  | none => BitVec.allOnes 64
  | some m => (t.m[m.toNat]?).getD 0

/-- The byte enables of the active elements. -/
def enables (t : Ty) (mask : Word) : BitVec 64 :=
  BitVec.ofNat 64 ((List.range t.count).foldr (fun i n =>
    (if mask.getLsbD i then 2 ^ t.bytes - 1 else 0) + 2 ^ t.bytes * n) 0)

/-- The bits of the enabled bytes. -/
def byteMask (en : BitVec 64) : Vec :=
  BitVec.ofNat 512 ((List.range 64).foldr (fun i n => (if en.getLsbD i then 255 else 0) + 256 * n) 0)

def vget (t : Thread) (r : VReg) : Vec := (t.v[r.toNat]?).getD 0

/-! ### Streams (R154, R155) -/

/-- The vectors of a stream. -/
def Stream.total (s : Stream) : Nat := s.c0.toNat * s.c1.toNat

/-- The address of vector j (R154). -/
def Stream.addr (s : Stream) (j : Nat) : Word :=
  s.base + s.s1.signExtend 64 * Word.ofNat (j / s.c0.toNat) + s.s0.signExtend 64 * Word.ofNat (j % s.c0.toNat)

/-- The binding of a vector register; v0-v3 have none (R17). -/
def streamOf (t : Thread) (r : VReg) : Option Stream :=
  if 4 ≤ r.toNat then (t.streams[r.toNat - 4]?).getD none else none

def Thread.setStream (t : Thread) (r : VReg) (s : Option Stream) : Thread :=
  { t with streams := t.streams.setIfInBounds (r.toNat - 4) s }

/-- A vector source: a value, or a vector of a read stream with what was read ahead of it. -/
inductive VIn where
  | val (v : Vec)
  | mem (a : Word) (ahead : Option Vec)

namespace Exec

/-- Take a vector source: a register, or the next vector of a read stream (R135, R155). -/
def takeSrc (r : VReg) : Exec VIn := do
  let t := (← get).th
  match streamOf t r with
  | none => return .val (vget t r)
  | some st =>
    if st.wr then trap 0x01#8
    else if st.pos < st.total then
      modTh (·.setStream r (some { st with pos := st.pos + 1, ahead := st.ahead.drop 1 }))
      return .mem (st.addr st.pos) st.ahead.head?
    else
      modTh (·.setStream r (some { st with ovr := true }))
      return .val 0

/-- The store a vector destination makes: none for a register, for an exhausted stream, or where no byte is written; a
read stream traps (R135, R136). -/
def dstStore (r : VReg) (en : BitVec 64) : Exec (Option Word) := do
  match streamOf (← get).th r with
  | none => return none
  | some st => if !st.wr then trap 0x01#8 else return if en ≠ 0 ∧ st.pos < st.total then some (st.addr st.pos) else none

/-- One access to be checked: address, alignment, rights. -/
abbrev Check := Word × Nat × Byte

/-- The checks of several accesses of one instruction: alignment of all, then the map, then rights (R33, R124). -/
def accessAll (l : List Check) : Exec (List Place) := do
  for (a, n, _) in l do align a n
  let (_, x) ← ctx
  let core := (← get).core
  let found ← l.mapM fun (a, _, need) => do
    match (← get).s.mapCheck core x a with
    | .error c => if c = 0x11#8 then trap c a else return (a, none)
    | .ok (.mgmt off) => return (a, some (Place.mgmt off))
    | .ok p =>
      let r ← rights a a
      return (a, if r &&& need = need then some p else none)
  found.mapM fun (a, p) => match p with
    | some p => pure p
    | none => trap 0x10#8 a

/-- The access of a source that a read stream gives. -/
def VIn.check : VIn → Option Check
  | .mem a _ => some (a, 64, rR)
  | .val _ => none

/-- Check the accesses of the instruction itself, of its sources and of its destination's store, then read the sources: their values,
and the places of the instruction's own accesses (R124, R155). -/
def readSrcs (ins : List VIn) (st : Option Word) (own : List Check) : Exec (List Vec × List Place) := do
  let reads := ins.filterMap VIn.check
  let places ← accessAll (own ++ reads ++ (st.toList.map fun a => (a, 64, rW)))
  let rec fill : List VIn → List Place → Exec (List Vec)
    | [], _ => pure []
    | .val v :: t, ps => return v :: (← fill t ps)
    | .mem a ahead :: t, p :: ps => do
      -- What was read ahead is taken once; a later read-ahead changes no value already taken.
      let v ← answer (← observe (match ahead with
        | some v => return .val v
        | none => loadReply a 64 (firstBytes 64) p false)) a
      return v :: (← fill t ps)
    | .mem _ _ :: t, [] => return 0 :: (← fill t [])
  return (← fill ins (places.drop own.length), places.take own.length)

/-- Read the vector sources and check the destination's store, with the accesses of the instruction itself: the source
values, and the places of its own accesses (R124, R135, R136, R155). -/
def vsources (srcs : List VReg) (dst : Option (VReg × BitVec 64)) (own : List Check := []) : Exec (List Vec × List Place) := do
  let ins ← srcs.mapM takeSrc
  let st ← match dst with
    | some (r, en) => dstStore r en
    | none => pure none
  readSrcs ins st own

/-- Write the enabled bytes of a vector destination: the others keep their old value, and a write stream stores the
enabled ones and advances (R134, R136, R155). -/
def vwrite (r : VReg) (v : Vec) (en : BitVec 64) : Exec Unit := do
  let t := (← get).th
  match streamOf t r with
  | none =>
    let m := byteMask en
    modTh fun t => { t with v := t.v.setIfInBounds r.toNat ((vget t r &&& ~~~m) ||| (v &&& m)) }
  | some st =>
    if st.pos < st.total then
      if en ≠ 0 then store (st.addr st.pos) v en else pure ()
      modTh (·.setStream r (some { st with pos := st.pos + 1 }))
    else modTh (·.setStream r (some { st with ovr := true }))

end Exec
end Sys2Proof.Machine
end

