-- ==== Sys2Proof/Machine/Scalar.lean ====
section
/-! DEFINITION. Integer arithmetic and logic, immediates, multiplication and division (04 R101-R108, R111; 03 R95, R96). -/

namespace Sys2Proof.Machine

open Exec

/-! ### The ALU (R103): the functions of two words -/

namespace Alu

/-- An integer clamped to a range, with SAT when it was outside (R74). -/
def clampI (lo hi v : Int) : Word × Flags :=
  if v < lo then (Word.ofInt lo, { sat := true }) else if hi < v then (Word.ofInt hi, { sat := true }) else (Word.ofInt v, .none)

/-- The shift count: the low six bits (R103). -/
def cnt (b : Word) : Nat := b.toNat % 64

def andn (a b : Word) : Word := a &&& ~~~b
def shl (a b : Word) : Word := a <<< cnt b
def shr (a b : Word) : Word := a >>> cnt b
def sar (a b : Word) : Word := a.sshiftRight (cnt b)
def rol (a b : Word) : Word := a.rotateLeft (cnt b)
def min (a b : Word) : Word := if a.slt b then a else b
def max (a b : Word) : Word := if b.slt a then a else b
def minu (a b : Word) : Word := if a.ult b then a else b
def maxu (a b : Word) : Word := if b.ult a then a else b
def addSat (a b : Word) : Word × Flags := clampI (-2 ^ 63) (2 ^ 63 - 1) (a.toInt + b.toInt)
def subSat (a b : Word) : Word × Flags := clampI (-2 ^ 63) (2 ^ 63 - 1) (a.toInt - b.toInt)
def addSatu (a b : Word) : Word × Flags := clampI 0 (2 ^ 64 - 1) ((a.toNat : Int) + b.toNat)
def subSatu (a b : Word) : Word × Flags := clampI 0 (2 ^ 64 - 1) ((a.toNat : Int) - b.toNat)

/-- The high half of the signed and the unsigned product (R105). -/
def mulh (a b : Word) : Word := Word.ofInt (a.toInt * b.toInt / 2 ^ 64)
def mulhu (a b : Word) : Word := Word.ofNat (a.toNat * b.toNat / 2 ^ 64)

/-- Quotient and remainder (R95). -/
def divu (a b : Word) : Word := if b = 0 then BitVec.allOnes 64 else Word.ofNat (a.toNat / b.toNat)
def remu (a b : Word) : Word := if b = 0 then a else Word.ofNat (a.toNat % b.toNat)
def div (a b : Word) : Word := if b = 0 then BitVec.allOnes 64 else Word.ofInt (a.toInt.tdiv b.toInt)
def rem (a b : Word) : Word := if b = 0 then a else Word.ofInt (a.toInt.tmod b.toInt)

/-- The significant bits of a natural number. -/
def sigBits (n : Nat) : Nat := if n = 0 then 0 else Nat.log2 n + 1

/-- The latency of a division with a quotient of the given magnitude; dividing by zero takes 4 (R96). -/
def divLat (b : Word) (q : Nat) : Nat := if b = 0 then 4 else 4 + (sigBits q + 3) / 4
def latU (a b : Word) : Nat := divLat b (a.toNat / b.toNat)
def latS (a b : Word) : Nat := divLat b (a.toInt.natAbs / b.toInt.natAbs)

end Alu

/-! ### The forms -/

namespace Exec

/-- A function of two registers (R102, R103). For a form that names a port or link the table of R101 has two rows, its own (4 for a
mul, 6 for a floating-point operation) and L = 1; which of them counts is left open, and the model takes the form's own
(DESIGN CHOICE, log entry 65). -/
def alu2 (d a b : Reg) (f : Word → Word → Word) (lat : Nat := 1) : Exec Next := do
  let (x, y) ← src2 a b [d]
  latency lat
  write d (f x y)
  return .advance

/-- A function of two registers that can set flags. -/
def alu2f (d a b : Reg) (f : Word → Word → Word × Flags) : Exec Next := do
  let (x, y) ← src2 a b [d]
  setFlags (f x y).2
  write d (f x y).1
  return .advance

/-- A function of a register. -/
def alu1 (d a : Reg) (f : Word → Word) : Exec Next := do
  let x ← src1 a [d]
  write d (f x)
  return .advance

/-- A function of a register that can set flags. -/
def alu1f (d a : Reg) (f : Word → Word × Flags) : Exec Next := do
  let x ← src1 a [d]
  setFlags (f x).2
  write d (f x).1
  return .advance

/-- A division: the slot's divider holds the result (R96). -/
def divide (d a b : Reg) (f : Word → Word → Word) (lat : Word → Word → Nat) : Exec Next := do
  let (x, y) ← src2 a b [d]
  modify fun e => { e with unit := some (false, lat x y) }
  write d (f x y)
  return .advance

end Exec

/-! ### Register-register (R102, R103) -/

def execAdd (g : Guard) (d a b : Reg) : State → Host.Outcome State Fault Refusal := runThread g (alu2 d a b (· + ·))
def execSub (g : Guard) (d a b : Reg) : State → Host.Outcome State Fault Refusal := runThread g (alu2 d a b (· - ·))
def execLand (g : Guard) (d a b : Reg) : State → Host.Outcome State Fault Refusal := runThread g (alu2 d a b (· &&& ·))
def execLor (g : Guard) (d a b : Reg) : State → Host.Outcome State Fault Refusal := runThread g (alu2 d a b (· ||| ·))
def execLxor (g : Guard) (d a b : Reg) : State → Host.Outcome State Fault Refusal := runThread g (alu2 d a b (· ^^^ ·))
def execAndn (g : Guard) (d a b : Reg) : State → Host.Outcome State Fault Refusal := runThread g (alu2 d a b Alu.andn)
def execShl (g : Guard) (d a b : Reg) : State → Host.Outcome State Fault Refusal := runThread g (alu2 d a b Alu.shl)
def execShr (g : Guard) (d a b : Reg) : State → Host.Outcome State Fault Refusal := runThread g (alu2 d a b Alu.shr)
def execSar (g : Guard) (d a b : Reg) : State → Host.Outcome State Fault Refusal := runThread g (alu2 d a b Alu.sar)
def execRol (g : Guard) (d a b : Reg) : State → Host.Outcome State Fault Refusal := runThread g (alu2 d a b Alu.rol)
def execMin (g : Guard) (d a b : Reg) : State → Host.Outcome State Fault Refusal := runThread g (alu2 d a b Alu.min)
def execMax (g : Guard) (d a b : Reg) : State → Host.Outcome State Fault Refusal := runThread g (alu2 d a b Alu.max)
def execMinu (g : Guard) (d a b : Reg) : State → Host.Outcome State Fault Refusal := runThread g (alu2 d a b Alu.minu)
def execMaxu (g : Guard) (d a b : Reg) : State → Host.Outcome State Fault Refusal := runThread g (alu2 d a b Alu.maxu)
def execAddSat (g : Guard) (d a b : Reg) : State → Host.Outcome State Fault Refusal := runThread g (alu2f d a b Alu.addSat)
def execSubSat (g : Guard) (d a b : Reg) : State → Host.Outcome State Fault Refusal := runThread g (alu2f d a b Alu.subSat)
def execAddSatu (g : Guard) (d a b : Reg) : State → Host.Outcome State Fault Refusal := runThread g (alu2f d a b Alu.addSatu)
def execSubSatu (g : Guard) (d a b : Reg) : State → Host.Outcome State Fault Refusal := runThread g (alu2f d a b Alu.subSatu)
/-- sel: A where the predicate is 1, else B (R103, R104). -/
def execSel (g : Guard) (d a b : Reg) (c : PReg) : State → Host.Outcome State Fault Refusal := runThread g do
  let (x, y) ← src2 a b [d]
  write d (if pget (← get).th c then x else y)
  return .advance

/-! ### Register-immediate (R103, R104) -/

def execAddImm (g : Guard) (d a : Reg) (imm : BitVec 21) : State → Host.Outcome State Fault Refusal := runThread g (alu1 d a (· + sext21 imm))
def execLandImm (g : Guard) (d a : Reg) (imm : BitVec 21) : State → Host.Outcome State Fault Refusal := runThread g (alu1 d a (· &&& sext21 imm))
def execLorImm (g : Guard) (d a : Reg) (imm : BitVec 21) : State → Host.Outcome State Fault Refusal := runThread g (alu1 d a (· ||| sext21 imm))
def execLxorImm (g : Guard) (d a : Reg) (imm : BitVec 21) : State → Host.Outcome State Fault Refusal := runThread g (alu1 d a (· ^^^ sext21 imm))
def execAndnImm (g : Guard) (d a : Reg) (imm : BitVec 21) : State → Host.Outcome State Fault Refusal := runThread g (alu1 d a (Alu.andn · (sext21 imm)))
def execMinImm (g : Guard) (d a : Reg) (imm : BitVec 21) : State → Host.Outcome State Fault Refusal := runThread g (alu1 d a (Alu.min · (sext21 imm)))
def execMaxImm (g : Guard) (d a : Reg) (imm : BitVec 21) : State → Host.Outcome State Fault Refusal := runThread g (alu1 d a (Alu.max · (sext21 imm)))
def execMinuImm (g : Guard) (d a : Reg) (imm : BitVec 21) : State → Host.Outcome State Fault Refusal := runThread g (alu1 d a (Alu.minu · (zext21 imm)))
def execMaxuImm (g : Guard) (d a : Reg) (imm : BitVec 21) : State → Host.Outcome State Fault Refusal := runThread g (alu1 d a (Alu.maxu · (zext21 imm)))
def execAddSatImm (g : Guard) (d a : Reg) (imm : BitVec 21) : State → Host.Outcome State Fault Refusal := runThread g (alu1f d a (Alu.addSat · (sext21 imm)))
def execAddSatuImm (g : Guard) (d a : Reg) (imm : BitVec 21) : State → Host.Outcome State Fault Refusal := runThread g (alu1f d a (Alu.addSatu · (zext21 imm)))
def execShlImm (g : Guard) (d a : Reg) (n : BitVec 6) : State → Host.Outcome State Fault Refusal := runThread g (alu1 d a (Alu.shl · (n.zeroExtend 64)))
def execShrImm (g : Guard) (d a : Reg) (n : BitVec 6) : State → Host.Outcome State Fault Refusal := runThread g (alu1 d a (Alu.shr · (n.zeroExtend 64)))
def execSarImm (g : Guard) (d a : Reg) (n : BitVec 6) : State → Host.Outcome State Fault Refusal := runThread g (alu1 d a (Alu.sar · (n.zeroExtend 64)))
def execRolImm (g : Guard) (d a : Reg) (n : BitVec 6) : State → Host.Outcome State Fault Refusal := runThread g (alu1 d a (Alu.rol · (n.zeroExtend 64)))

/-! ### Immediates (R111) -/

namespace Exec
def put (d : Reg) (v : Word) : Exec Next := do
  let _ ← operands [] [d]
  write d v
  return .advance
end Exec

def execLi (g : Guard) (d : Reg) (imm : BitVec 16) : State → Host.Outcome State Fault Refusal := runThread g (put d (imm.signExtend 64))
def execLiI32 (g : Guard) (d : Reg) (imm : BitVec 32) : State → Host.Outcome State Fault Refusal := runThread g (put d (imm.signExtend 64))
def execLiTe (g : Guard) (d : Reg) (imm : Word) : State → Host.Outcome State Fault Refusal := runThread g (put d imm)

/-! ### Multiply and divide (R105, R95, R96) -/

def execMul (g : Guard) (d a b : Reg) : State → Host.Outcome State Fault Refusal := runThread g (alu2 d a b (· * ·) 4)
def execMulh (g : Guard) (d a b : Reg) : State → Host.Outcome State Fault Refusal := runThread g (alu2 d a b Alu.mulh 4)
def execMulhu (g : Guard) (d a b : Reg) : State → Host.Outcome State Fault Refusal := runThread g (alu2 d a b Alu.mulhu 4)
def execDiv (g : Guard) (d a b : Reg) : State → Host.Outcome State Fault Refusal := runThread g (divide d a b Alu.div Alu.latS)
def execDivu (g : Guard) (d a b : Reg) : State → Host.Outcome State Fault Refusal := runThread g (divide d a b Alu.divu Alu.latU)
def execRem (g : Guard) (d a b : Reg) : State → Host.Outcome State Fault Refusal := runThread g (divide d a b Alu.rem Alu.latS)
def execRemu (g : Guard) (d a b : Reg) : State → Host.Outcome State Fault Refusal := runThread g (divide d a b Alu.remu Alu.latU)

/-! ### Address arithmetic (R108) -/

/-- lea: base, index times the scale, displacement; no access and no check. -/
def execLea (g : Guard) (d a b : Reg) (scale : BitVec 2) (disp : BitVec 11) : State → Host.Outcome State Fault Refusal :=
  runThread g (alu2 d a b fun x y => effAddr x y scale.toNat disp)

end Sys2Proof.Machine
end

