-- ==== Sys2Proof/Machine/Bits.lean ====
section
/-! DEFINITION. Bit fields and extension (R106, R107), integer compares (R109) and predicates (R110). -/

namespace Sys2Proof.Machine

open Exec

namespace Alu

/-- Leading zeros: 64 for 0 (R106). -/
def clz (a : Word) : Word := Word.ofNat (64 - sigBits a.toNat)
/-- Trailing zeros: 64 for 0 (R106). -/
def ctz (a : Word) : Word := Word.ofNat (((List.range 64).find? fun i => a.getLsbD i).getD 64)
def popc (a : Word) : Word := Word.ofNat ((List.range 64).filter fun i => a.getLsbD i).length
/-- Byte j of the result is byte 7 - j of a (R106). -/
def bswap (a : Word) : Word := fields ((List.range 8).map fun j => (bits a (8 * (7 - j) + 7) (8 * (7 - j)), 8 * j))
def sextN (n : Nat) (a : Word) : Word := (a.setWidth n).signExtend 64
def zextN (n : Nat) (a : Word) : Word := (a.setWidth n).zeroExtend 64

/-- Field extract: `len` is the field as encoded, one less than the length (R107). -/
def bext (pos len : BitVec 6) (a : Word) : Word := Word.ofNat (bits a (pos.toNat + len.toNat) pos.toNat)
/-- The bits of a field. -/
def fieldMask (pos len : BitVec 6) : Word := Word.ofNat (2 ^ (len.toNat + 1) - 1) <<< pos.toNat
/-- Field insert into `d` (R107). -/
def bins (pos len : BitVec 6) (a d : Word) : Word := (d &&& ~~~fieldMask pos len) ||| ((a <<< pos.toNat) &&& fieldMask pos len)

end Alu

def execClz (g : Guard) (d a : Reg) : State → Host.Outcome State Fault Refusal := runThread g (alu1 d a Alu.clz)
def execCtz (g : Guard) (d a : Reg) : State → Host.Outcome State Fault Refusal := runThread g (alu1 d a Alu.ctz)
def execPopc (g : Guard) (d a : Reg) : State → Host.Outcome State Fault Refusal := runThread g (alu1 d a Alu.popc)
def execBswap (g : Guard) (d a : Reg) : State → Host.Outcome State Fault Refusal := runThread g (alu1 d a Alu.bswap)
def execSextB (g : Guard) (d a : Reg) : State → Host.Outcome State Fault Refusal := runThread g (alu1 d a (Alu.sextN 8))
def execSextH (g : Guard) (d a : Reg) : State → Host.Outcome State Fault Refusal := runThread g (alu1 d a (Alu.sextN 16))
def execSextW (g : Guard) (d a : Reg) : State → Host.Outcome State Fault Refusal := runThread g (alu1 d a (Alu.sextN 32))
def execZextB (g : Guard) (d a : Reg) : State → Host.Outcome State Fault Refusal := runThread g (alu1 d a (Alu.zextN 8))
def execZextH (g : Guard) (d a : Reg) : State → Host.Outcome State Fault Refusal := runThread g (alu1 d a (Alu.zextN 16))
def execZextW (g : Guard) (d a : Reg) : State → Host.Outcome State Fault Refusal := runThread g (alu1 d a (Alu.zextN 32))
def execBext (g : Guard) (d a : Reg) (pos len : BitVec 6) : State → Host.Outcome State Fault Refusal := runThread g (alu1 d a (Alu.bext pos len))
/-- bins: D is read first, and written; a port or link in D gives one word and takes one back (R107). -/
def execBins (g : Guard) (d a : Reg) (pos len : BitVec 6) : State → Host.Outcome State Fault Refusal := runThread g do
  let (y, x) ← src2 d a [d]
  write d (Alu.bins pos len x y)
  return .advance

/-! ### Compares (R109) -/

namespace Alu
def tst (a b : Word) : Bool := a &&& b != 0
end Alu

namespace Exec
/-- A comparison of two registers writes a predicate. -/
def cmp2 (d : PReg) (a b : Reg) (f : Word → Word → Bool) : Exec Next := do
  let (x, y) ← src2 a b []
  writePred d (f x y)
  return .advance
/-- A comparison with an immediate. -/
def cmp1 (d : PReg) (a : Reg) (f : Word → Bool) : Exec Next := do
  let x ← src1 a []
  writePred d (f x)
  return .advance
end Exec

def execCmpEq (g : Guard) (d : PReg) (a b : Reg) : State → Host.Outcome State Fault Refusal := runThread g (cmp2 d a b fun x y => x == y)
def execCmpNe (g : Guard) (d : PReg) (a b : Reg) : State → Host.Outcome State Fault Refusal := runThread g (cmp2 d a b fun x y => x != y)
def execCmpLt (g : Guard) (d : PReg) (a b : Reg) : State → Host.Outcome State Fault Refusal := runThread g (cmp2 d a b fun x y => x.slt y)
def execCmpGe (g : Guard) (d : PReg) (a b : Reg) : State → Host.Outcome State Fault Refusal := runThread g (cmp2 d a b fun x y => !x.slt y)
def execCmpLtu (g : Guard) (d : PReg) (a b : Reg) : State → Host.Outcome State Fault Refusal := runThread g (cmp2 d a b fun x y => x.ult y)
def execCmpGeu (g : Guard) (d : PReg) (a b : Reg) : State → Host.Outcome State Fault Refusal := runThread g (cmp2 d a b fun x y => !x.ult y)
def execCmpGt (g : Guard) (d : PReg) (a b : Reg) : State → Host.Outcome State Fault Refusal := runThread g (cmp2 d a b fun x y => y.slt x)
def execCmpLe (g : Guard) (d : PReg) (a b : Reg) : State → Host.Outcome State Fault Refusal := runThread g (cmp2 d a b fun x y => !y.slt x)
def execCmpGtu (g : Guard) (d : PReg) (a b : Reg) : State → Host.Outcome State Fault Refusal := runThread g (cmp2 d a b fun x y => y.ult x)
def execCmpLeu (g : Guard) (d : PReg) (a b : Reg) : State → Host.Outcome State Fault Refusal := runThread g (cmp2 d a b fun x y => !y.ult x)
def execCmpTst (g : Guard) (d : PReg) (a b : Reg) : State → Host.Outcome State Fault Refusal := runThread g (cmp2 d a b fun x y => Alu.tst x y)
def execCmpNtst (g : Guard) (d : PReg) (a b : Reg) : State → Host.Outcome State Fault Refusal := runThread g (cmp2 d a b fun x y => !Alu.tst x y)
def execCmpEqImm (g : Guard) (d : PReg) (a : Reg) (imm : BitVec 21) : State → Host.Outcome State Fault Refusal := runThread g (cmp1 d a fun x => x == (sext21 imm))
def execCmpNeImm (g : Guard) (d : PReg) (a : Reg) (imm : BitVec 21) : State → Host.Outcome State Fault Refusal := runThread g (cmp1 d a fun x => x != (sext21 imm))
def execCmpLtImm (g : Guard) (d : PReg) (a : Reg) (imm : BitVec 21) : State → Host.Outcome State Fault Refusal := runThread g (cmp1 d a fun x => x.slt (sext21 imm))
def execCmpGeImm (g : Guard) (d : PReg) (a : Reg) (imm : BitVec 21) : State → Host.Outcome State Fault Refusal := runThread g (cmp1 d a fun x => !x.slt (sext21 imm))
def execCmpLtuImm (g : Guard) (d : PReg) (a : Reg) (imm : BitVec 21) : State → Host.Outcome State Fault Refusal := runThread g (cmp1 d a fun x => x.ult (zext21 imm))
def execCmpGeuImm (g : Guard) (d : PReg) (a : Reg) (imm : BitVec 21) : State → Host.Outcome State Fault Refusal := runThread g (cmp1 d a fun x => !x.ult (zext21 imm))
def execCmpGtImm (g : Guard) (d : PReg) (a : Reg) (imm : BitVec 21) : State → Host.Outcome State Fault Refusal := runThread g (cmp1 d a fun x => (sext21 imm).slt x)
def execCmpLeImm (g : Guard) (d : PReg) (a : Reg) (imm : BitVec 21) : State → Host.Outcome State Fault Refusal := runThread g (cmp1 d a fun x => !(sext21 imm).slt x)
def execCmpGtuImm (g : Guard) (d : PReg) (a : Reg) (imm : BitVec 21) : State → Host.Outcome State Fault Refusal := runThread g (cmp1 d a fun x => (zext21 imm).ult x)
def execCmpLeuImm (g : Guard) (d : PReg) (a : Reg) (imm : BitVec 21) : State → Host.Outcome State Fault Refusal := runThread g (cmp1 d a fun x => !(zext21 imm).ult x)
def execCmpTstImm (g : Guard) (d : PReg) (a : Reg) (imm : BitVec 21) : State → Host.Outcome State Fault Refusal := runThread g (cmp1 d a fun x => Alu.tst x (sext21 imm))
def execCmpNtstImm (g : Guard) (d : PReg) (a : Reg) (imm : BitVec 21) : State → Host.Outcome State Fault Refusal := runThread g (cmp1 d a fun x => !Alu.tst x (sext21 imm))

/-! ### Predicates (R110) -/

namespace Exec
def pred2 (d a b : PReg) (f : Bool → Bool → Bool) : Exec Next := do
  let t := (← get).th
  writePred d (f (pget t a) (pget t b))
  return .advance
end Exec

def execPand (g : Guard) (d a b : PReg) : State → Host.Outcome State Fault Refusal := runThread g (pred2 d a b (· && ·))
def execPor (g : Guard) (d a b : PReg) : State → Host.Outcome State Fault Refusal := runThread g (pred2 d a b (· || ·))
def execPxor (g : Guard) (d a b : PReg) : State → Host.Outcome State Fault Refusal := runThread g (pred2 d a b (· != ·))
def execPnot (g : Guard) (d a : PReg) : State → Host.Outcome State Fault Refusal := runThread g (pred2 d a a fun x _ => !x)

end Sys2Proof.Machine
end

