-- ==== Sys2Proof/Machine/ScalarFp.lean ====
section
/-! DEFINITION. Scalar floating point (04 R115-R118). -/

namespace Sys2Proof.Machine

open Exec

/-- The format of a floating-point type. -/
def fmt (t : Ty) : Fmt := (fmtOf t).getD .f64

namespace Exec

/-- An operation of two operands of a type (R116). -/
def fp2 (d a b : Reg) (t : Ty) (lat : Nat) (f : Nat → Nat → Nat × Flags) : Exec Next := do
  let (x, y) ← src2 a b [d]
  latency lat
  let (r, fl) := f (t.low x) (t.low y)
  setFlags fl
  write d (Word.ofNat r)
  return .advance

/-- fma forms: (±a·b) ± c, rounded once (R84, R116). -/
def fpMulAdd (d a b c : Reg) (t : Ty) (rm : Rm) (negProd negC : Bool) : Exec Next := do
  let (x, y, z) ← src3 a b c [d]
  latency 6
  let (r, fl) := ffma (fmt t) (← mode rm) negProd negC (t.low x) (t.low y) (t.low z)
  setFlags fl
  write d (Word.ofNat r)
  return .advance

/-- A comparison writes a predicate (R117). -/
def fpCmp (d : PReg) (a b : Reg) (t : Ty) (op : FCmp) : Exec Next := do
  let (x, y) ← src2 a b []
  latency 6
  let (r, fl) := fcompare (fmt t) op (t.low x) (t.low y)
  setFlags fl
  writePred d r
  return .advance

end Exec

/-- The latency of fdiv and fsqrt (R101). -/
def divideLat (t : Ty) : Nat := if t = .f64 then 28 else 14

def execFadd (g : Guard) (d a b : Reg) (t : Ty) (rm : Rm) : State → Host.Outcome State Fault Refusal :=
  runThread g do fp2 d a b t 6 (fadd (fmt t) (← mode rm))
def execFsub (g : Guard) (d a b : Reg) (t : Ty) (rm : Rm) : State → Host.Outcome State Fault Refusal :=
  runThread g do fp2 d a b t 6 (fsub (fmt t) (← mode rm))
def execFmul (g : Guard) (d a b : Reg) (t : Ty) (rm : Rm) : State → Host.Outcome State Fault Refusal :=
  runThread g do fp2 d a b t 6 (fmul (fmt t) (← mode rm))
def execFdiv (g : Guard) (d a b : Reg) (t : Ty) (rm : Rm) : State → Host.Outcome State Fault Refusal :=
  runThread g do fp2 d a b t (divideLat t) (fdiv (fmt t) (← mode rm))
def execFsqrt (g : Guard) (d a : Reg) (t : Ty) (rm : Rm) : State → Host.Outcome State Fault Refusal :=
  runThread g do
    let x ← src1 a [d]
    latency (divideLat t)
    let (r, fl) := fsqrt (fmt t) (← mode rm) (t.low x)
    setFlags fl
    write d (Word.ofNat r)
    return .advance
def execFmin (g : Guard) (d a b : Reg) (t : Ty) : State → Host.Outcome State Fault Refusal :=
  runThread g (fp2 d a b t 6 (fminmax (fmt t) false))
def execFmax (g : Guard) (d a b : Reg) (t : Ty) : State → Host.Outcome State Fault Refusal :=
  runThread g (fp2 d a b t 6 (fminmax (fmt t) true))

def execFcmpEq (g : Guard) (d : PReg) (a b : Reg) (t : Ty) : State → Host.Outcome State Fault Refusal := runThread g (fpCmp d a b t .eq)
def execFcmpNe (g : Guard) (d : PReg) (a b : Reg) (t : Ty) : State → Host.Outcome State Fault Refusal := runThread g (fpCmp d a b t .ne)
def execFcmpLt (g : Guard) (d : PReg) (a b : Reg) (t : Ty) : State → Host.Outcome State Fault Refusal := runThread g (fpCmp d a b t .lt)
def execFcmpLe (g : Guard) (d : PReg) (a b : Reg) (t : Ty) : State → Host.Outcome State Fault Refusal := runThread g (fpCmp d a b t .le)
def execFcmpUn (g : Guard) (d : PReg) (a b : Reg) (t : Ty) : State → Host.Outcome State Fault Refusal := runThread g (fpCmp d a b t .un)

/-- fcvt: from type T2 to type T (R118). -/
def execFcvt (g : Guard) (d a : Reg) (t t2 : Ty) (rm : Rm) : State → Host.Outcome State Fault Refusal :=
  runThread g do
    let x ← src1 a [d]
    latency 6
    let (r, fl) := convert t t2 (← mode rm) (t2.low x)
    setFlags fl
    write d (t.place r)
    return .advance

/-- fclass: one bit, and no flag (R117). -/
def execFclass (g : Guard) (d a : Reg) (t : Ty) : State → Host.Outcome State Fault Refusal :=
  runThread g do
    let x ← src1 a [d]
    latency 6
    write d (Word.ofNat (2 ^ fclassBit (fmt t) (t.low x)))
    return .advance

def execFma (g : Guard) (d a b c : Reg) (t : Ty) (rm : Rm) : State → Host.Outcome State Fault Refusal :=
  runThread g (fpMulAdd d a b c t rm false false)
def execFmaNa (g : Guard) (d a b c : Reg) (t : Ty) (rm : Rm) : State → Host.Outcome State Fault Refusal :=
  runThread g (fpMulAdd d a b c t rm true false)
def execFmaNc (g : Guard) (d a b c : Reg) (t : Ty) (rm : Rm) : State → Host.Outcome State Fault Refusal :=
  runThread g (fpMulAdd d a b c t rm false true)
def execFmaNaNc (g : Guard) (d a b c : Reg) (t : Ty) (rm : Rm) : State → Host.Outcome State Fault Refusal :=
  runThread g (fpMulAdd d a b c t rm true true)

end Sys2Proof.Machine
end

