-- ==== Sys2Proof/Machine/Move.lean ====
section
/-! DEFINITION. Moves (04 R112, R113) and the system registers (01 R25-R27; 04 R114; 17 R487). -/

namespace Sys2Proof.Machine

open Exec

def execMov (g : Guard) (d a : Reg) : State → Host.Outcome State Fault Refusal := runThread g (alu1 d a id)

/-- The link on the other side (R113). -/
def Reg.opposite : Reg → Reg
  | .lw => .le
  | _ => .lw

/-- mov.f: pop a word, keep a copy, forward it (R113). -/
def execMovF (g : Guard) (d a : Reg) : State → Host.Outcome State Fault Refusal := runThread g do
  let x ← src1 a [d, Reg.opposite a]
  write d x
  write (Reg.opposite a) x
  return .advance

/-- The predicate word a write of pred stores: bit 0 stays 1, bits above 7 are ignored (R114). -/
def predOf (w : Word) : BitVec 8 := w.extractLsb' 0 8 ||| 1#8

/-- The LIMIT a write of wlim stores (R24). -/
def wlimOf (w : Word) : Nat := clampNat (2 ^ 8) (2 ^ 28) (bits w 28 0)

/-- The system registers of every thread, indexes 0x00 to 0x13; none for a reserved index (R25). -/
def sysRead (s : State) (core slot : Nat) (t : Thread) (idx : Nat) : Option Word :=
  let n := Word.ofNat
  match idx with
  | 0x00 => some (t.tid.zeroExtend 64)
  | 0x01 => some (n slot)
  | 0x02 => some (n core)
  | 0x03 => some (n (quadOf core))
  | 0x04 => some (n (clusterOf core))
  | 0x05 => some (n (islandOf core))
  | 0x06 => some (n s.ownChip)
  | 0x07 => some (n (s.ctxOf core))
  | 0x08 => some (n (s.vcore core))
  | 0x09 => some s.time
  | 0x0A => some (((s.ctx (s.ctxOf core)).getD {}).energy)
  | 0x0B => some t.fpctl
  | 0x0C => some (n t.wlim)
  | 0x0D => some t.trapinfo
  | 0x0E => some t.pc
  | 0x0F => some (t.pred.zeroExtend 64)
  | 0x10 => some (fields [(t.seq.toNat, 16), (t.outst, 0)])
  | 0x11 => some (n t.prio)
  | 0x12 => some (n t.dom)
  | 0x13 => some (n ((s.core core).cycle / 16))
  | _ => none

/-- Privilege of an index from 0x80 (R25). -/
def Exec.checkIndex (idx : Nat) : Exec Unit := do
  let e ← get
  if 0x80 ≤ idx ∧ !e.s.privileged e.core then trap 0x08#8 else pure ()

/-- mfs (R114). Of the privileged registers bootcnt reads its count, and pwdog, which is write-only, reads zero (R9, R487). -/
def execMfs (g : Guard) (d : Reg) (idx : BitVec 8) : State → Host.Outcome State Fault Refusal := runThread g do
  checkIndex idx.toNat
  let e ← get
  let v ← if idx = 0x81#8 then pure (Word.ofNat e.s.bootcnt)
    else if idx = 0x80#8 then pure 0
    else match sysRead e.s e.core e.slot e.th idx.toNat with
      | some v => pure v
      | none => trap 0x01#8
  put d v

/-- mts (R114): pred, fpctl and wlim; every other index traps. -/
def execMts (g : Guard) (a : Reg) (idx : BitVec 8) : State → Host.Outcome State Fault Refusal := runThread g do
  checkIndex idx.toNat
  if idx = 0x0B#8 ∨ idx = 0x0C#8 ∨ idx = 0x0F#8 then
    let x ← src1 a []
    modTh fun t =>
      if idx = 0x0B#8 then { t with fpctl := fpctlOf x }
      else if idx = 0x0C#8 then { t with wlim := wlimOf x }
      else { t with pred := predOf x }
    return .advance
  else trap 0x01#8

/-- mts to pwdog: the plinth watchdog of R469 starts again (R487). -/
def execPwdogWrite (g : Guard) (a : Reg) : State → Host.Outcome State Fault Refusal := runThread g do
  checkIndex 0x80
  let _ ← src1 a []
  ensureNext
  modS fun s => { s with boot := { s.boot with wdog := s.time } }
  return .advance

/-- mts to bootcnt: the count in the flash (R487). -/
def execBootcntWrite (g : Guard) (a : Reg) : State → Host.Outcome State Fault Refusal := runThread g do
  checkIndex 0x81
  let x ← src1 a []
  ensureNext
  modS fun s => s.setBootcnt (bits x 31 0)
  return .advance

end Sys2Proof.Machine
end

