-- ==== Sys2Proof/Machine/Control.lean ====
section
/-! DEFINITION. Control transfer (04 R126-R128; 02 R49), nop, brk and trap (R130-R132). -/

namespace Sys2Proof.Machine

open Exec

/-- The target of a TC tail: a line offset and a head index (R49). -/
def tcTarget (pc : Word) (off : BitVec 22) (head : BitVec 5) : Word :=
  (((pc >>> 6) + off.signExtend 64) <<< 6) ||| ((head.zeroExtend 64) <<< 1)

def execBr (g : Guard) (off : BitVec 22) (head : BitVec 5) : State → Host.Outcome State Fault Refusal := runThread g do
  return .goto (tcTarget (← get).th.pc off head)

def execJmp (g : Guard) (d : Reg) : State → Host.Outcome State Fault Refusal := runThread g do
  return .goto (← src1 d [])

/-- call: the link is the PC of the next head, written once the target's line has been entered (R127). -/
def execCall (g : Guard) (d : Reg) (off : BitVec 22) (head : BitVec 5) : State → Host.Outcome State Fault Refusal := runThread g do
  write d (← nextPc)
  return .goto (tcTarget (← get).th.pc off head)

def execCallReg (g : Guard) (d a : Reg) : State → Host.Outcome State Fault Refusal := runThread g do
  let target ← src1 a []
  write d (← nextPc)
  return .goto target

def execRet (g : Guard) (d : Reg) : State → Host.Outcome State Fault Refusal := runThread g do
  return .goto (← src1 d [])

/-- loop: count down and branch until zero (R127). -/
def execLoop (g : Guard) (d : Reg) (off : BitVec 22) (head : BitVec 5) : State → Host.Outcome State Fault Refusal := runThread g do
  let c := (← src1 d []) - 1
  write d c
  if c = 0 then return .advance else return .goto (tcTarget (← get).th.pc off head)

def execNop (g : Guard) : State → Host.Outcome State Fault Refusal := runThread g (pure .advance)

/-- A requested stop: code 0x00, and an RPC at the next head (R131, R374). -/
def Exec.request (addr : Word) : Exec Next := do
  let next ← nextPc
  throw (.trap { mkStop (← get) 0 addr with rpc := next })

/-- brk: a debugger stop while a debugger is attached to the context, else a trap (R132). -/
def Exec.breakpoint (code : BitVec 16) : Exec Next := do
  let e ← get
  let (n, _) ← ctx
  if e.s.mgmt.attach ∧ e.s.mgmt.dbgCtx = n then
    let next ← nextPc
    set { e with s := e.keep.takeStop e.core e.slot { mkStop e 0 (code.zeroExtend 64) with rpc := next } }
    return .gone
  else request (code.zeroExtend 64 ||| (1#64 <<< 16))

def execTrap (g : Guard) (code : BitVec 16) : State → Host.Outcome State Fault Refusal := runThread g (request (code.zeroExtend 64))
def execBrk (g : Guard) : State → Host.Outcome State Fault Refusal := runThread g (breakpoint 0)
def execBrkCode (g : Guard) (code : BitVec 16) : State → Host.Outcome State Fault Refusal := runThread g (breakpoint code)

end Sys2Proof.Machine
end

