-- ==== Sys2Proof/Machine/Atomics.lean ====
section
/-! DEFINITION. Indivisible steps on a word (R264, R268, R269), releases (R255), join counters (R203, R204), and
the attempts of synchronising accesses. -/

namespace Sys2Proof.Machine

/-! ### Indivisible steps -/

/-- The value an atomic writes, none for a compare that fails (R269). `w` is the width in bits. -/
def amoNew (op : AmoOp) (signed : Bool) (w old b c : Nat) : Option Nat :=
  let less := if signed then decide (sintOf w b < sintOf w old) else decide (b < old)
  let more := if signed then decide (sintOf w old < sintOf w b) else decide (old < b)
  match op with
  | .add => some ((old + b) % 2 ^ w)
  | .and => some (old &&& b)
  | .or => some (old ||| b)
  | .xor => some (old ^^^ b)
  | .min => some (if less then b else old)
  | .max => some (if more then b else old)
  | .swap => some b
  | .cas => if old = c then some b else none

def amoWidth (wide : Bool) : Nat := if wide then 64 else 32

/-- An atomic at its place of execution: the old value, and the state after it (R269). -/
def State.amoStep (s : State) (a : Nat) (op : AmoOp) (wide signed : Bool) (b c : Word) : Nat × State :=
  let w := amoWidth wide
  let old := s.read a (w / 8)
  match amoNew op signed w old (b.toNat % 2 ^ w) (c.toNat % 2 ^ w) with
  | some n => (old, s.write a (w / 8) n)
  | none => (old, s)

/-- One attempt of a synchronising access: its value and the state after it, none where it fails and changes nothing
(R264). -/
def State.syncStep (s : State) (a : Nat) (op : SyncOp) (data : Word) : Option (Word × State) :=
  let fe := s.full a
  match op with
  | .ldsync => if fe then some (s.word a, s.setEmpty a) else none
  | .keep => if fe then some (s.word a, s) else none
  | .stsync => if fe then none else some (0, (s.write a 8 data.toNat).setFull a)
  | .stfill => some (0, (s.write a 8 data.toNat).setFull a)
  | .feset => some (0, s.setFull a)
  | .feclr => some (0, s.setEmpty a)
  | .feread => some (Word.ofBool fe, s)

/-- The form waits for a state of the word (R264). -/
def SyncOp.waits : SyncOp → Bool
  | .ldsync | .keep | .stsync => true
  | _ => false

namespace Exec

/-! ### Releases (R255) -/

/-- Complete a release at a scope: the buffer is empty; at .fab and .sys nothing is outstanding; at .sys the host paths
written since the last one have been read behind (RELEASE_COMPLETE). -/
def releaseAt (sc : Scope) : Exec Unit := do
  match sc with
  | .core | .die => drained
  | .fab => settled
  | .sys =>
    settled
    if (← get).th.hostWrites then park .release else pure ()

/-! ### Atomics (R269, R270) -/

/-- Perform an atomic at an address that has passed its checks, and give the old value. On the thread's own quad slice the
step is done here; elsewhere a request carries it. -/
def atomicAt (a : Word) (p : Place) (op : AmoOp) (wide signed sys : Bool) (b c : Word) : Exec Reply := do
  let e ← get
  let acc : Access := .amo op wide signed sys b c
  match p with
  | .mgmt _ => trap 0x10#8 a
  | .paged q => ask q acc .request a
  | .sram q =>
    if e.th.twin.isSome ∨ q / 2 ^ 21 ≠ quadOf e.core then ask a acc else
    observe do
      ensureNext
      let s := (← get).s
      if s.fencedAt q then return .err 0x72#8
      let (old, _) := s.amoStep q op wide signed b c
      both fun s => (s.amoStep q op wide signed b c).2
      return .val (BitVec.ofNat 512 old)

/-- The rights of an atomic (R235). -/
def rRWA : Byte := rR ||| rW ||| rA

/-! ### Join counters (R203, R204) -/

/-- Add to the word of a join counter, once its address has been checked. -/
def counterAdd (j : Word) (k : Word) (sys : Bool) : Exec Reply := do
  align j 8
  let p ← access j rRWA
  atomicAt j p .add true false sys k 0

/-- Increment the counter a prepared record names, before the record is placed (R203). -/
def increment (j : Word) : Exec Unit := do
  if j = 0 then pure () else
  drained
  let _ ← answer (← counterAdd j 1 false) j

/-- The entry of a page in this chip's tables has LOC 0b00, present or not (R204, R239). -/
def locDie (s : State) (q : Word) : Bool :=
  match s.walk q with
  | .leaf _ _ w0 _ | .badFrame _ _ _ w0 _ => w0.extractLsb' 2 2 == 0#2
  | _ => false

/-- The join counter lies in die memory: the SRAM window, or a page of LOC 0b00 (R204). -/
def inDie (j : Word) : Exec Bool := do
  let e ← get
  let (_, x) ← ctx
  match region x.tenant j with
  | .paged q => return locDie e.s q
  | _ => return true

/-- Subtract 1 from a counter, with release order at the scope of R204; the answer is left to the caller. -/
def decrement (j : Word) : Exec Reply := do
  if ← inDie j then releaseAt .die else releaseAt .sys
  counterAdd j (BitVec.allOnes 64) true

/-! ### Synchronising accesses (R262-R267) -/

/-- The loop of R264. The next line is entered before the first attempt (log entry 15). An attempt on the own quad slice is
made here; another is sent, and SYNC_ATTEMPT and SYNC_ATTEMPT_RESULT bring its outcome. -/
def syncAccess (a : Word) (op : SyncOp) (data : Word) : Exec Vec := do
  align a 8
  let need : Byte := match op with
    | .ldsync | .feclr => rR ||| rW ||| rS
    | .keep | .feread => rR ||| rS
    | .stsync | .stfill | .feset => rW ||| rS
  let p ← access a need
  match p with
  | .sram q =>
    drained
    ensureNext
    let e ← get
    if e.th.replies.length ≤ e.log.length then
      match waitOf e.th with
      | some (.sync _, lim, wc, _) => if lim ≤ wc + 1 then trap 0x12#8 a else pure ()
      | _ => pure ()
    else pure ()
    if e.th.twin.isSome ∨ q / 2 ^ 21 ≠ quadOf e.core then answer (← ask a (.sync op data) (.sync true)) a else
    answer (← observe do
      let s := (← get).s
      if s.fencedAt q then return .err 0x72#8
      match s.syncStep q op data with
      | none => park (.sync false)
      | some (v, _) =>
        both fun s => match s.syncStep q op data with
          | some (_, s') => s'
          | none => s
        return .val (v.zeroExtend 512)) a
  | _ => trap 0x10#8 a

end Exec
end Sys2Proof.Machine
end

