-- ==== Sys2Proof/Machine/LoadStore.lean ====
section
/-! DEFINITION. Scalar and vector loads and stores (04 R119-R125). -/

namespace Sys2Proof.Machine

open Exec

namespace Exec

/-- The latency of a load from the thread's own quad slice (R101). -/
def sliceLatency (p : Place) : Exec Unit := do
  match p with
  | .sram q => if q / 2 ^ 21 = quadOf (← get).core then latency 8 else pure ()
  | _ => pure ()

/-- A scalar load of `n` bytes at base + index · 2^s + displacement (R120). -/
def loadForm (d a b : Reg) (disp : BitVec 11) (n s : Nat) (signed : Bool) : Exec Next := do
  let (x, y) ← src2 a b [d]
  let v ← load (effAddr x y s disp) n
  write d (extend signed n (v.toNat % 2 ^ (8 * n)))
  return .advance

/-- A scalar store of the low `n` bytes of D (R120). -/
def storeForm (d a b : Reg) (disp : BitVec 11) (n s : Nat) : Exec Next := do
  let (x, y, v) ← src3 a b d []
  let ea := effAddr x y s disp
  align ea n
  let _ ← access ea rW
  store ea (v.zeroExtend 512) (firstBytes n)
  return .advance

end Exec

def execLdB (g : Guard) (d a b : Reg) (disp : BitVec 11) : State → Host.Outcome State Fault Refusal := runThread g (loadForm d a b disp 1 0 false)
def execLdH (g : Guard) (d a b : Reg) (disp : BitVec 11) : State → Host.Outcome State Fault Refusal := runThread g (loadForm d a b disp 2 0 false)
def execLdW (g : Guard) (d a b : Reg) (disp : BitVec 11) : State → Host.Outcome State Fault Refusal := runThread g (loadForm d a b disp 4 0 false)
def execLdD (g : Guard) (d a b : Reg) (disp : BitVec 11) : State → Host.Outcome State Fault Refusal := runThread g (loadForm d a b disp 8 0 false)
def execLdsB (g : Guard) (d a b : Reg) (disp : BitVec 11) : State → Host.Outcome State Fault Refusal := runThread g (loadForm d a b disp 1 0 true)
def execLdsH (g : Guard) (d a b : Reg) (disp : BitVec 11) : State → Host.Outcome State Fault Refusal := runThread g (loadForm d a b disp 2 0 true)
def execLdsW (g : Guard) (d a b : Reg) (disp : BitVec 11) : State → Host.Outcome State Fault Refusal := runThread g (loadForm d a b disp 4 0 true)
def execLdBS (g : Guard) (d a b : Reg) (disp : BitVec 11) : State → Host.Outcome State Fault Refusal := runThread g (loadForm d a b disp 1 0 false)
def execLdHS (g : Guard) (d a b : Reg) (disp : BitVec 11) : State → Host.Outcome State Fault Refusal := runThread g (loadForm d a b disp 2 1 false)
def execLdWS (g : Guard) (d a b : Reg) (disp : BitVec 11) : State → Host.Outcome State Fault Refusal := runThread g (loadForm d a b disp 4 2 false)
def execLdDS (g : Guard) (d a b : Reg) (disp : BitVec 11) : State → Host.Outcome State Fault Refusal := runThread g (loadForm d a b disp 8 3 false)
def execLdsBS (g : Guard) (d a b : Reg) (disp : BitVec 11) : State → Host.Outcome State Fault Refusal := runThread g (loadForm d a b disp 1 0 true)
def execLdsHS (g : Guard) (d a b : Reg) (disp : BitVec 11) : State → Host.Outcome State Fault Refusal := runThread g (loadForm d a b disp 2 1 true)
def execLdsWS (g : Guard) (d a b : Reg) (disp : BitVec 11) : State → Host.Outcome State Fault Refusal := runThread g (loadForm d a b disp 4 2 true)
def execStB (g : Guard) (d a b : Reg) (disp : BitVec 11) : State → Host.Outcome State Fault Refusal := runThread g (storeForm d a b disp 1 0)
def execStH (g : Guard) (d a b : Reg) (disp : BitVec 11) : State → Host.Outcome State Fault Refusal := runThread g (storeForm d a b disp 2 0)
def execStW (g : Guard) (d a b : Reg) (disp : BitVec 11) : State → Host.Outcome State Fault Refusal := runThread g (storeForm d a b disp 4 0)
def execStD (g : Guard) (d a b : Reg) (disp : BitVec 11) : State → Host.Outcome State Fault Refusal := runThread g (storeForm d a b disp 8 0)
def execStBS (g : Guard) (d a b : Reg) (disp : BitVec 11) : State → Host.Outcome State Fault Refusal := runThread g (storeForm d a b disp 1 0)
def execStHS (g : Guard) (d a b : Reg) (disp : BitVec 11) : State → Host.Outcome State Fault Refusal := runThread g (storeForm d a b disp 2 1)
def execStWS (g : Guard) (d a b : Reg) (disp : BitVec 11) : State → Host.Outcome State Fault Refusal := runThread g (storeForm d a b disp 4 2)
def execStDS (g : Guard) (d a b : Reg) (disp : BitVec 11) : State → Host.Outcome State Fault Refusal := runThread g (storeForm d a b disp 8 3)

/-! ### Vector loads and stores (R123-R125) -/

/-- The active elements of a type under a mask. -/
def activeOf (t : Ty) (mask : Word) : List Nat := (List.range t.count).filter fun i => mask.getLsbD i

/-- vld: one access of 64 bytes, over the bytes of its active elements (R123, R124). -/
def execVld (g : Guard) (d : VReg) (a b : Reg) (t : Ty) (m : Option MReg) : State → Host.Outcome State Fault Refusal := runThread g do
  let (x, y) ← src2 a b []
  let en := enables t (maskOf (← get).th m)
  let (_, ps) ← vsources [] (some (d, en)) (if en = 0 then [] else [(x + y, 64, rR)])
  let v ← match ps with
    | p :: _ => do
      sliceLatency p
      loadAt (x + y) 64 en p
    | [] => pure 0
  vwrite d v en
  return .advance

namespace Exec
/-- Load elements of a type at addresses, in order (R124). -/
def loadElems (t : Ty) : List (Word × Place) → Exec (List Nat)
  | [] => pure []
  | (a, p) :: rest => do
    let v ← loadAt a t.bytes (firstBytes t.bytes) p true
    return v.toNat % 2 ^ t.width :: (← loadElems t rest)

/-- A strided load or a gather: active element i at `addr` i (R123, R124). -/
def loadScattered (d : VReg) (t : Ty) (mask : Word) (addr : Nat → Word) : Exec Next := do
  let en := enables t mask
  let act := activeOf t mask
  let addrs := act.map addr
  let (_, ps) ← vsources [] (some (d, en)) (addrs.map fun a => (a, t.bytes, rR))
  let vs ← loadElems t (addrs.zip ps)
  let val := fun i => ((act.zip vs).lookup i).getD 0
  vwrite d (ofElems t ((List.range t.count).map val)) en
  return .advance
end Exec

/-- vld.s: element i at A + i · B (R123). -/
def execVldS (g : Guard) (d : VReg) (a b : Reg) (t : Ty) (m : Option MReg) : State → Host.Outcome State Fault Refusal := runThread g do
  let (x, y) ← src2 a b []
  loadScattered d t (maskOf (← get).th m) fun i => x + Word.ofNat i * y

/-- vgather: element i at A + its offset, a signed element of B (R123). What can fail before the offsets are known comes first: a stream
bound the wrong way, and the alignment of the streams' vectors (R33). -/
def execVgather (g : Guard) (d : VReg) (a : Reg) (b : VReg) (t : Ty) (m : Option MReg) : State → Host.Outcome State Fault Refusal := runThread g do
  let x ← src1 a []
  let ib ← takeSrc b
  let st ← dstStore d (enables t (maskOf (← get).th m))
  for (a, n, _) in (VIn.check ib).toList ++ (st.toList.map fun a => (a, 64, rW)) do align a n
  let (vs, _) ← readSrcs [ib] none []
  loadScattered d t (maskOf (← get).th m) fun i => x + Word.ofInt (sintOf t.width (elem t (vs.headD 0) i))

/-- vst: one store-buffer entry with the bytes of the active elements (R124); with none active it stores nothing. -/
def execVst (g : Guard) (d : VReg) (a b : Reg) (t : Ty) (m : Option MReg) : State → Host.Outcome State Fault Refusal := runThread g do
  let (x, y) ← src2 a b []
  let en := enables t (maskOf (← get).th m)
  let (vs, _) ← vsources [d] none (if en = 0 then [] else [(x + y, 64, rW)])
  if en = 0 then pure () else store (x + y) (vs.headD 0) en
  return .advance

namespace Exec
/-- The page of a scattered store is in memory, or the thread parks at its home agent until it is (R124, R244): the request of a
store that writes no byte. A refusal is left to the store itself. -/
def pagePresent (a : Word) (p : Place) : Exec Unit := do
  match p with
  | .paged q =>
    let _ ← observe do
      match ((← get).s.translate q).1 with
      | .absent => send q (.write 0 0) .request a
      | _ => return .val 0
  | _ => pure ()

/-- One element of a scattered store: it is sent, and the next one waits for its answer; a refusal traps here, precisely (R124, R245,
R378). One into management space goes by the empty buffer, and the next one waits until it has left it (R227). -/
def storeElem (a : Word) (p : Place) (data n : Nat) : Exec Unit := do
  let (_, x) ← ctx
  let key := Word.ofNat (plbKey x.tenant a)
  let v := BitVec.ofNat 512 data
  match p with
  | .mgmt _ =>
    let _ ← observe do
      ensureNext
      modTh fun t => { t with sb := [.store key v (firstBytes n) a] }
      modKeepTh fun t => { t with sb := [.store key v (firstBytes n) a] }
      return .val 0
    if (← get).th.sb.isEmpty then pure () else park (.elem true)
  | _ =>
    let _ ← answer (← ask key (.write v (firstBytes n)) (.elem false) a) a
end Exec

/-- vscatter: with the buffer empty and every page present, the active elements in ascending order, complete when the last is visible
(R124). D and B can name streams; the offsets are popped first, and what can fail before they are known comes first (R33). -/
def execVscatter (g : Guard) (d : VReg) (a : Reg) (b : VReg) (t : Ty) (m : Option MReg) : State → Host.Outcome State Fault Refusal := runThread g do
  let x ← src1 a []
  let act := activeOf t (maskOf (← get).th m)
  let ib ← takeSrc b
  let iv ← takeSrc d
  for (a, n, _) in (VIn.check ib).toList ++ (VIn.check iv).toList do align a n
  let (vs, _) ← readSrcs [ib] none []
  let addrs := act.map fun i => x + Word.ofInt (sintOf t.width (elem t (vs.headD 0) i))
  let (ds, ps) ← readSrcs [iv] none (addrs.map fun a => (a, t.bytes, rW))
  let _ ← observe do
    drained
    return .val 0
  for (a, p) in addrs.zip ps do pagePresent a p
  for (i, a, p) in act.zip (addrs.zip ps) do storeElem a p (elem t (ds.headD 0) i) t.bytes
  return .advance

end Sys2Proof.Machine
end

