-- ==== Sys2Proof/Machine/Sfu.lean ====
section
/-! DEFINITION. The special functions (03 R97, R98) and the vrand generator (03 R99). A transcendental result is taken
in fixed point with `sfuBits` fractional bits and rounded once; its exact value is irrational wherever the tables of
R98 list no exact case, so it is marked sticky. That `sfuBits` bits suffice to round every f32 result as the exact
value rounds is DEDUCED, log entry 13. -/

namespace Sys2Proof.Machine

/-- The fractional bits of the fixed-point arithmetic of this file. -/
def sfuBits : Nat := 340

/-- 1.0 in fixed point. -/
def sfuOne : Nat := 2 ^ sfuBits

/-- The odd series x + s·x³/3 + x⁵/5 + s·x⁷/7 + … in fixed point: `term` is the current power of x. -/
def oddSeries (alternate : Bool) (x2 : Nat) : Nat → Nat → Int → Nat → Int
  | 0, _, acc, _ => acc
  | fuel + 1, term, acc, i =>
    let t : Int := (term / (2 * i + 1) : Nat)
    oddSeries alternate x2 fuel (term * x2 / sfuOne) (if alternate && i % 2 == 1 then acc - t else acc + t) (i + 1)

/-- atanh(x) for a fixed-point x of at most 1/3. -/
def atanhFix (x : Nat) : Nat := (oddSeries false (x * x / sfuOne) 120 x 0 0).toNat

/-- atan(x) for a fixed-point x of at most 1/5. -/
def atanFix (x : Nat) : Nat := (oddSeries true (x * x / sfuOne) 100 x 0 0).toNat

/-- ln 2 in fixed point: 2·atanh(1/3). -/
def ln2Fix : Nat := 2 * atanhFix (sfuOne / 3)

/-- π in fixed point: 16·atan(1/5) - 4·atan(1/239). -/
def piFix : Nat := 16 * atanFix (sfuOne / 5) - 4 * atanFix (sfuOne / 239)

/-- The exponential series of a fixed-point x below 1. -/
def expSeries (x : Nat) : Nat → Nat → Nat → Nat → Nat
  | 0, _, acc, _ => acc
  | fuel + 1, term, acc, i =>
    let t := term * x / sfuOne / (i + 1)
    expSeries x fuel t (acc + t) (i + 1)

/-- 2^f for a fixed-point f in [0, 1). -/
def exp2Fix (f : Nat) : Nat := expSeries (f * ln2Fix / sfuOne) 100 sfuOne sfuOne 0

/-- log2(y) for a fixed-point y in [1, 2]. -/
def log2Fix (y : Nat) : Nat :=
  2 * atanhFix ((y - sfuOne) * sfuOne / (y + sfuOne)) * sfuOne / ln2Fix

/-- The sine series of a fixed-point angle of at most π/2: `i` counts the terms taken. -/
def sinSeries (x2 : Nat) : Nat → Nat → Int → Nat → Int
  | 0, _, acc, _ => acc
  | fuel + 1, term, acc, i =>
    let t := term * x2 / sfuOne / ((2 * i + 2) * (2 * i + 3))
    sinSeries x2 fuel t (if i % 2 == 0 then acc - t else acc + t) (i + 1)

/-- sin(2π·r) for a fixed-point r in [0, 1/4]. -/
def sinQuarter (r : Nat) : Nat :=
  let th := 2 * piFix * r / sfuOne
  (sinSeries (th * th / sfuOne) 60 th th 0).toNat

/-- The fraction of ±m·2^e modulo 1, in fixed point, for e of at least -sfuBits. -/
def fracFix (neg : Bool) (m : Nat) (e : Int) : Nat :=
  let v : Int := (m * 2 ^ (e + sfuBits).toNat : Nat)
  ((if neg then -v else v) % (sfuOne : Int)).toNat

/-- sin(2πr) for a fixed-point r in [0, 1): its sign and magnitude in fixed point, and whether it is exact. -/
def sinTurn (r : Nat) : Bool × Nat × Bool :=
  let q := sfuOne / 4
  let k := r / q
  let w := r % q
  if w == 0 then (k == 3, if k % 2 == 0 then 0 else sfuOne, true)
  else match k with
    | 0 => (false, sinQuarter w, false)
    | 1 => (false, sinQuarter (q - w), false)
    | 2 => (true, sinQuarter w, false)
    | _ => (true, sinQuarter (q - w), false)

/-- The seven special functions (R97). -/
inductive SfuOp where
  | log2 | exp2 | rcp | rsqrt | sqrt | sin | cos
deriving DecidableEq, Repr

/-- A sine or cosine already reduced to a turn, as an f32 result. A zero takes the given sign. -/
def turnResult (mode : RMode) (zeroNeg : Bool) (t : Bool × Nat × Bool) : Nat × Flags :=
  let (neg, m, exact) := t
  if m == 0 then (Fmt.f32.signed zeroNeg 0, .none)
  else packNum .f32 mode false neg m (-(sfuBits : Int)) (!exact)

/-- One special function of an f32 operand (R97, R98). -/
def sfu (op : SfuOp) (mode : RMode) (a : Nat) : Nat × Flags :=
  let f := Fmt.f32
  match op with
  | .rcp => fdiv f mode 0x3F800000 a
  | .sqrt => fsqrt f mode a
  | .log2 =>
    match FVal.ofBits f a with
    | .nan s => nanResult f s
    | .inf neg => if neg then nanResult f true else infResult f false
    | .num neg m e =>
      if m == 0 then infResult f true { dz := true }
      else if neg then nanResult f true
      else
        let k : Int := (Nat.log2 m : Int) + e
        if m == 2 ^ Nat.log2 m then packNum f mode false (k < 0) k.natAbs 0 false
        else
          let y := m * 2 ^ (sfuBits - Nat.log2 m)
          let v : Int := k * sfuOne + log2Fix y
          packNum f mode false (v < 0) (if v < 0 then (-v - 1).toNat else v.toNat) (-(sfuBits : Int)) true
  | .exp2 =>
    match FVal.ofBits f a with
    | .nan s => nanResult f s
    | .inf neg => if neg then (0, .none) else infResult f false
    | .num neg m e =>
      if m == 0 then (0x3F800000, .none)
      else if 8 ≤ (Nat.log2 m : Int) + e then packNum f mode false false 1 (if neg then -2000 else 2000) true
      else
        let v : Int := if neg then -((m * 2 ^ (e + sfuBits).toNat : Nat) : Int) else ((m * 2 ^ (e + sfuBits).toNat : Nat) : Int)
        let n := v / sfuOne
        let fr := (v % sfuOne).toNat
        if fr == 0 then packNum f mode false false 1 n false
        else packNum f mode false false (exp2Fix fr) (n - sfuBits) true
  | .rsqrt =>
    match FVal.ofBits f a with
    | .nan s => nanResult f s
    | .inf neg => if neg then nanResult f true else (0, .none)
    | .num neg m e =>
      if m == 0 then infResult f neg { dz := true }
      else if neg then nanResult f true
      else
        let m' := if e % 2 == 0 then m else 2 * m
        let e' := if e % 2 == 0 then e else e - 1
        let r := isqrt (2 ^ 200 / m')
        packNum f mode false false r (-(e' / 2) - 100) (r * r * m' != 2 ^ 200)
  | .sin =>
    match FVal.ofBits f a with
    | .nan s => nanResult f s
    | .inf _ => nanResult f true
    | .num neg m e => turnResult mode neg (sinTurn (fracFix neg m e))
  | .cos =>
    match FVal.ofBits f a with
    | .nan s => nanResult f s
    | .inf _ => nanResult f true
    | .num neg m e => turnResult mode false (sinTurn ((fracFix neg m e + sfuOne / 4) % sfuOne))

/-- The mixing function of vrand (R99). -/
def mix64 (z : Word) : Word :=
  let z := (z ^^^ (z >>> 30)) * 0xBF58476D1CE4E5B9#64
  let z := (z ^^^ (z >>> 27)) * 0x94D049BB133111EB#64
  z ^^^ (z >>> 31)

/-- Element i of vrand (R99), as the bits of its element. -/
def vrandElem (t : Ty) (seed counter : Word) (i : Nat) : Nat :=
  let b := mix64 (seed ^^^ ((counter <<< 4) + Word.ofNat i))
  match t with
  | .i64 | .n64 => b.toNat
  | .i32 | .n32 => b.toNat % 2 ^ 32
  | _ => (packNum .f32 .rne false false (2 * (b.toNat / 2 ^ 41) + 1) (-24) false).1

end Sys2Proof.Machine
end

