-- ==== Sys2Proof/Machine/Vector.lean ====
section
/-! DEFINITION. Vector, stream and special-function instructions (05 R134-R159). -/

namespace Sys2Proof.Machine

open Exec

/-! ### Element operations -/

namespace Vop

/-- An exact integer result in a type: clamped with SAT, or modulo 2^w (R73, R74, R140). -/
def fit (t : Ty) (sat : Bool) (x : Int) : Nat × Flags :=
  if sat then (t.ofInt (t.clamp x).1, { sat := (t.clamp x).2 }) else (t.ofInt x, .none)

def int2 (t : Ty) (sat : Bool) (f : Int → Int → Int) (a b : Nat) : Nat × Flags := fit t sat (f (t.toInt a) (t.toInt b))
def int1 (t : Ty) (sat : Bool) (f : Int → Int) (a : Nat) : Nat × Flags := fit t sat (f (t.toInt a))

/-- The shift count of an element: its low log2(w) bits (R140). -/
def cnt (t : Ty) (b : Nat) : Nat := b % t.width

def shl (t : Ty) (sat : Bool) (a b : Nat) : Nat × Flags := fit t sat (t.toInt a * 2 ^ cnt t b)
def shr (t : Ty) (a b : Nat) : Nat × Flags := (a / 2 ^ cnt t b, .none)
/-- Copies of bit w - 1 enter, whatever the signedness of the type. -/
def sar (t : Ty) (a b : Nat) : Nat × Flags := (t.ofInt (sintOf t.width a / 2 ^ cnt t b), .none)

/-- Division and remainder at width w (R95, R150). -/
def div (t : Ty) (a b : Nat) : Nat × Flags := (if b = 0 then 2 ^ t.width - 1 else t.ofInt ((t.toInt a).tdiv (t.toInt b)), .none)
def rem (t : Ty) (a b : Nat) : Nat × Flags := (if b = 0 then a else t.ofInt ((t.toInt a).tmod (t.toInt b)), .none)

/-- A comparison of elements (R144). -/
def cmp (t : Ty) (op : FCmp) (a b : Nat) : Bool × Flags :=
  match fmtOf t with
  | some f => fcompare f op a b
  | none =>
    let x := t.toInt a
    let y := t.toInt b
    (match op with
     | .eq => x == y
     | .ne => x != y
     | .lt => decide (x < y)
     | .le => decide (x ≤ y)
     | .gt => decide (y < x)
     | .ge => decide (y ≤ x)
     | .un => false, .none)

/-! Reductions and scans (R147, R148; R85, R87). The lists hold the active elements, in ascending index. -/

/-- The first element of a floating-point sum: a NaN becomes canonical, a signalling one sets NV (R87). -/
def seed (f : Fmt) (a : Nat) : Nat × Flags :=
  match FVal.ofBits f a with
  | .nan s => nanResult f s
  | _ => (a, .none)

/-- The running values of a floating-point sum, one after each element. -/
def fsums (f : Fmt) (mode : RMode) : Option (Nat × Flags) → List Nat → List (Nat × Flags)
  | _, [] => []
  | none, a :: l => seed f a :: fsums f mode (some (seed f a)) l
  | some r, a :: l =>
    let x := fadd f mode r.1 a
    let y := (x.1, r.2.or x.2)
    y :: fsums f mode (some y) l

/-- The running sums of a type, one for each element of the list. -/
def sums (t : Ty) (sat : Bool) (mode : RMode) (l : List Nat) : List (Nat × Flags) :=
  match fmtOf t with
  | some f => fsums f mode none l
  | none => (List.range l.length).map fun i => fit t sat (((l.take (i + 1)).map t.toInt).foldl (· + ·) 0)

def redAdd (t : Ty) (sat : Bool) (mode : RMode) (l : List Nat) : Nat × Flags := (sums t sat mode l).getLastD (0, .none)

/-- vred.max and vred.min (R147). -/
def redMax (t : Ty) (wantMax : Bool) (l : List Nat) : Nat × Flags :=
  match fmtOf t with
  | some f =>
    match l with
    | [] => (f.signed wantMax f.infinity, .none)
    | a :: l => l.foldl (fun r x => let y := fminmax f wantMax r.1 x; (y.1, r.2.or y.2)) (seed f a)
  | none =>
    let best := fun (r x : Int) => if wantMax then max r x else min r x
    (t.ofInt ((l.map t.toInt).foldl best (if wantMax then t.minInt else t.maxInt)), .none)

/-- The index of the .idx forms among the active elements with their indices (R147). -/
def redIdx (t : Ty) (v : Nat) (l : List (Nat × Nat)) : Word :=
  match l with
  | [] => BitVec.allOnes 64
  | (i, _) :: _ =>
    let isNan := fun x => match fmtOf t with
      | some f => (FVal.ofBits f x).isNan
      | none => false
    match l.find? fun p => p.2 == v && !isNan p.2 with
    | some (j, _) => Word.ofNat j
    | none => Word.ofNat i

end Vop

/-! ### Forms -/

/-- Apply a function to the active elements; inactive ones are not evaluated (R134). -/
def overActive (t : Ty) (mask : Word) (f : Nat → Nat × Flags) : Vec × Flags :=
  let l := (List.range t.count).map fun i => if mask.getLsbD i then f i else (0, .none)
  (ofElems t (l.map (·.1)), Flags.all (l.map (·.2)))

namespace Exec

/-- Element-wise over vector sources: `f` takes the sources and an element number (R134, R135). -/
def vmap (d : VReg) (srcs : List VReg) (t : Ty) (m : Option MReg) (lat : Nat) (f : List Vec → Nat → Nat × Flags) : Exec Next := do
  let mask := maskOf (← get).th m
  let en := enables t mask
  let (vs, _) ← vsources srcs (some (d, en))
  latency lat
  let (r, fl) := overActive t mask (f vs)
  setFlags fl
  vwrite d r en
  return .advance

def vmap1 (d a : VReg) (t : Ty) (m : Option MReg) (lat : Nat) (f : Nat → Nat × Flags) : Exec Next :=
  vmap d [a] t m lat fun vs i => f (elem t (vs.headD 0) i)
def vmap2 (d a b : VReg) (t : Ty) (m : Option MReg) (lat : Nat) (f : Nat → Nat → Nat × Flags) : Exec Next :=
  vmap d [a, b] t m lat fun vs i => f (elem t (vs.headD 0) i) (elem t ((vs.drop 1).headD 0) i)
def vmap3 (d a b c : VReg) (t : Ty) (m : Option MReg) (lat : Nat) (f : Nat → Nat → Nat → Nat × Flags) : Exec Next :=
  vmap d [a, b, c] t m lat fun vs i => f (elem t (vs.headD 0) i) (elem t ((vs.drop 1).headD 0) i) (elem t ((vs.drop 2).headD 0) i)
/-- A scalar-operand form (R135). Of an empty port and a stream bound in the wrong direction the rules do not say which comes first:
the scalar operand's wait does, before the stream's 0x01 (DESIGN CHOICE, log entry 64). -/
def vmapS (d a : VReg) (b : Reg) (t : Ty) (m : Option MReg) (lat : Nat) (f : Nat → Nat → Nat × Flags) : Exec Next := do
  let y ← src1 b []
  vmap d [a] t m lat fun vs i => f (elem t (vs.headD 0) i) (t.low y)

/-- Write a mask register (R16). -/
def writeMask (d : MReg) (w : Word) : Exec Unit := modTh fun t => { t with m := t.m.setIfInBounds d.toNat w }

/-- A comparison writes a mask; inactive bits are 0 (R144). -/
def vcmpWith (d : MReg) (t : Ty) (m : Option MReg) (f : Nat → Bool × Flags) : Exec Next := do
  let mask := maskOf (← get).th m
  let l := (List.range t.count).map fun i => if mask.getLsbD i then f i else (false, .none)
  setFlags (Flags.all (l.map (·.2)))
  writeMask d (fields (((l.map (·.1.toNat)).zip (List.range t.count))))
  return .advance
def vcmp (d : MReg) (a b : VReg) (t : Ty) (m : Option MReg) (op : FCmp) : Exec Next := do
  let (vs, _) ← vsources [a, b] none
  vcmpWith d t m fun i => Vop.cmp t op (elem t (vs.headD 0) i) (elem t ((vs.drop 1).headD 0) i)
def vcmpS (d : MReg) (a : VReg) (b : Reg) (t : Ty) (m : Option MReg) (op : FCmp) : Exec Next := do
  let y ← src1 b []
  let (vs, _) ← vsources [a] none
  vcmpWith d t m fun i => Vop.cmp t op (elem t (vs.headD 0) i) (t.low y)

/-- The active elements of a source, with their indices. -/
def actives (a : VReg) (t : Ty) (m : Option MReg) : Exec (List (Nat × Nat)) := do
  let mask := maskOf (← get).th m
  let (vs, _) ← vsources [a] none
  return (activeOf t mask).map fun i => (i, elem t (vs.headD 0) i)

/-- An SFU instruction: one request, whatever its mask (R151, R152). -/
def special (d a : VReg) (rm : Rm) (m : Option MReg) (op : SfuOp) : Exec Next := do
  let md ← mode rm
  modify fun e => { e with unit := some (true, 20) }
  vmap1 d a .f32 m 20 (sfu op md)

end Exec

/-- The latencies of R139. -/
def vdivLat (t : Ty) : Nat :=
  match t.width with
  | 8 => 12
  | 16 => 16
  | 32 => 24
  | _ => 40
def foldLat (t : Ty) : Nat := if t.isFloat then 4 + t.count else 4

/-! ### Integer arithmetic (R140) -/

def execVaddInt (g : Guard) (d a b : VReg) (t : Ty) (sat : Bool) (m : Option MReg) : State → Host.Outcome State Fault Refusal := runThread g (vmap2 d a b t m 1 (Vop.int2 t sat (· + ·)))
def execVaddIntScalar (g : Guard) (d a : VReg) (b : Reg) (t : Ty) (sat : Bool) (m : Option MReg) : State → Host.Outcome State Fault Refusal := runThread g (vmapS d a b t m 1 (Vop.int2 t sat (· + ·)))
def execVsubInt (g : Guard) (d a b : VReg) (t : Ty) (sat : Bool) (m : Option MReg) : State → Host.Outcome State Fault Refusal := runThread g (vmap2 d a b t m 1 (Vop.int2 t sat (· - ·)))
def execVsubIntScalar (g : Guard) (d a : VReg) (b : Reg) (t : Ty) (sat : Bool) (m : Option MReg) : State → Host.Outcome State Fault Refusal := runThread g (vmapS d a b t m 1 (Vop.int2 t sat (· - ·)))
def execVmulInt (g : Guard) (d a b : VReg) (t : Ty) (sat : Bool) (m : Option MReg) : State → Host.Outcome State Fault Refusal := runThread g (vmap2 d a b t m 1 (Vop.int2 t sat (· * ·)))
def execVmulIntScalar (g : Guard) (d a : VReg) (b : Reg) (t : Ty) (sat : Bool) (m : Option MReg) : State → Host.Outcome State Fault Refusal := runThread g (vmapS d a b t m 1 (Vop.int2 t sat (· * ·)))
def execVminInt (g : Guard) (d a b : VReg) (t : Ty) (m : Option MReg) : State → Host.Outcome State Fault Refusal := runThread g (vmap2 d a b t m 1 (Vop.int2 t false min))
def execVminIntScalar (g : Guard) (d a : VReg) (b : Reg) (t : Ty) (m : Option MReg) : State → Host.Outcome State Fault Refusal := runThread g (vmapS d a b t m 1 (Vop.int2 t false min))
def execVmaxInt (g : Guard) (d a b : VReg) (t : Ty) (m : Option MReg) : State → Host.Outcome State Fault Refusal := runThread g (vmap2 d a b t m 1 (Vop.int2 t false max))
def execVmaxIntScalar (g : Guard) (d a : VReg) (b : Reg) (t : Ty) (m : Option MReg) : State → Host.Outcome State Fault Refusal := runThread g (vmapS d a b t m 1 (Vop.int2 t false max))
def execVabsInt (g : Guard) (d a : VReg) (t : Ty) (sat : Bool) (m : Option MReg) : State → Host.Outcome State Fault Refusal := runThread g (vmap1 d a t m 1 (Vop.int1 t sat fun x => x.natAbs))
def execVnegInt (g : Guard) (d a : VReg) (t : Ty) (sat : Bool) (m : Option MReg) : State → Host.Outcome State Fault Refusal := runThread g (vmap1 d a t m 1 (Vop.int1 t sat fun x => -x))
def execVshl (g : Guard) (d a b : VReg) (t : Ty) (sat : Bool) (m : Option MReg) : State → Host.Outcome State Fault Refusal := runThread g (vmap2 d a b t m 1 (Vop.shl t sat))
def execVshlScalar (g : Guard) (d a : VReg) (b : Reg) (t : Ty) (sat : Bool) (m : Option MReg) : State → Host.Outcome State Fault Refusal := runThread g (vmapS d a b t m 1 (Vop.shl t sat))
def execVshr (g : Guard) (d a b : VReg) (t : Ty) (m : Option MReg) : State → Host.Outcome State Fault Refusal := runThread g (vmap2 d a b t m 1 (Vop.shr t))
def execVshrScalar (g : Guard) (d a : VReg) (b : Reg) (t : Ty) (m : Option MReg) : State → Host.Outcome State Fault Refusal := runThread g (vmapS d a b t m 1 (Vop.shr t))
def execVsar (g : Guard) (d a b : VReg) (t : Ty) (m : Option MReg) : State → Host.Outcome State Fault Refusal := runThread g (vmap2 d a b t m 1 (Vop.sar t))
def execVsarScalar (g : Guard) (d a : VReg) (b : Reg) (t : Ty) (m : Option MReg) : State → Host.Outcome State Fault Refusal := runThread g (vmapS d a b t m 1 (Vop.sar t))
/-- vrand: element i of R99 (R153). -/
def execVrand (g : Guard) (d : VReg) (a b : Reg) (t : Ty) (m : Option MReg) : State → Host.Outcome State Fault Refusal := runThread g do
  let (x, y) ← src2 a b []
  vmap d [] t m 4 fun _ i => (vrandElem t x y i, .none)

/-! ### Floating point (R141, R142) -/

def execVaddFp (g : Guard) (d a b : VReg) (t : Ty) (rm : Rm) (m : Option MReg) : State → Host.Outcome State Fault Refusal := runThread g do vmap2 d a b t m 6 (fadd (fmt t) (← mode rm))
def execVaddFpScalar (g : Guard) (d a : VReg) (b : Reg) (t : Ty) (rm : Rm) (m : Option MReg) : State → Host.Outcome State Fault Refusal := runThread g do vmapS d a b t m 6 (fadd (fmt t) (← mode rm))
def execVsubFp (g : Guard) (d a b : VReg) (t : Ty) (rm : Rm) (m : Option MReg) : State → Host.Outcome State Fault Refusal := runThread g do vmap2 d a b t m 6 (fsub (fmt t) (← mode rm))
def execVsubFpScalar (g : Guard) (d a : VReg) (b : Reg) (t : Ty) (rm : Rm) (m : Option MReg) : State → Host.Outcome State Fault Refusal := runThread g do vmapS d a b t m 6 (fsub (fmt t) (← mode rm))
def execVmulFp (g : Guard) (d a b : VReg) (t : Ty) (rm : Rm) (m : Option MReg) : State → Host.Outcome State Fault Refusal := runThread g do vmap2 d a b t m 6 (fmul (fmt t) (← mode rm))
def execVmulFpScalar (g : Guard) (d a : VReg) (b : Reg) (t : Ty) (rm : Rm) (m : Option MReg) : State → Host.Outcome State Fault Refusal := runThread g do vmapS d a b t m 6 (fmul (fmt t) (← mode rm))
def execVminFp (g : Guard) (d a b : VReg) (t : Ty) (m : Option MReg) : State → Host.Outcome State Fault Refusal := runThread g (vmap2 d a b t m 6 (fminmax (fmt t) false))
def execVminFpScalar (g : Guard) (d a : VReg) (b : Reg) (t : Ty) (m : Option MReg) : State → Host.Outcome State Fault Refusal := runThread g (vmapS d a b t m 6 (fminmax (fmt t) false))
def execVmaxFp (g : Guard) (d a b : VReg) (t : Ty) (m : Option MReg) : State → Host.Outcome State Fault Refusal := runThread g (vmap2 d a b t m 6 (fminmax (fmt t) true))
def execVmaxFpScalar (g : Guard) (d a : VReg) (b : Reg) (t : Ty) (m : Option MReg) : State → Host.Outcome State Fault Refusal := runThread g (vmapS d a b t m 6 (fminmax (fmt t) true))
def execVabsFp (g : Guard) (d a : VReg) (t : Ty) (m : Option MReg) : State → Host.Outcome State Fault Refusal := runThread g (vmap1 d a t m 6 fun x => (fabsneg (fmt t) false x, .none))
def execVnegFp (g : Guard) (d a : VReg) (t : Ty) (m : Option MReg) : State → Host.Outcome State Fault Refusal := runThread g (vmap1 d a t m 6 fun x => (fabsneg (fmt t) true x, .none))
def execVfma (g : Guard) (d a b c : VReg) (t : Ty) (rm : Rm) (m : Option MReg) : State → Host.Outcome State Fault Refusal := runThread g do vmap3 d a b c t m 6 (ffma (fmt t) (← mode rm) false false)
def execVfmaNa (g : Guard) (d a b c : VReg) (t : Ty) (rm : Rm) (m : Option MReg) : State → Host.Outcome State Fault Refusal := runThread g do vmap3 d a b c t m 6 (ffma (fmt t) (← mode rm) true false)
def execVfmaNc (g : Guard) (d a b c : VReg) (t : Ty) (rm : Rm) (m : Option MReg) : State → Host.Outcome State Fault Refusal := runThread g do vmap3 d a b c t m 6 (ffma (fmt t) (← mode rm) false true)
def execVfmaNaNc (g : Guard) (d a b c : VReg) (t : Ty) (rm : Rm) (m : Option MReg) : State → Host.Outcome State Fault Refusal := runThread g do vmap3 d a b c t m 6 (ffma (fmt t) (← mode rm) true true)

/-! ### Compares and select (R144, R145) -/

def execVcmpEq (g : Guard) (d : MReg) (a b : VReg) (t : Ty) (m : Option MReg) : State → Host.Outcome State Fault Refusal := runThread g (vcmp d a b t m .eq)
def execVcmpEqScalar (g : Guard) (d : MReg) (a : VReg) (b : Reg) (t : Ty) (m : Option MReg) : State → Host.Outcome State Fault Refusal := runThread g (vcmpS d a b t m .eq)
def execVcmpNe (g : Guard) (d : MReg) (a b : VReg) (t : Ty) (m : Option MReg) : State → Host.Outcome State Fault Refusal := runThread g (vcmp d a b t m .ne)
def execVcmpNeScalar (g : Guard) (d : MReg) (a : VReg) (b : Reg) (t : Ty) (m : Option MReg) : State → Host.Outcome State Fault Refusal := runThread g (vcmpS d a b t m .ne)
def execVcmpLt (g : Guard) (d : MReg) (a b : VReg) (t : Ty) (m : Option MReg) : State → Host.Outcome State Fault Refusal := runThread g (vcmp d a b t m .lt)
def execVcmpLtScalar (g : Guard) (d : MReg) (a : VReg) (b : Reg) (t : Ty) (m : Option MReg) : State → Host.Outcome State Fault Refusal := runThread g (vcmpS d a b t m .lt)
def execVcmpLe (g : Guard) (d : MReg) (a b : VReg) (t : Ty) (m : Option MReg) : State → Host.Outcome State Fault Refusal := runThread g (vcmp d a b t m .le)
def execVcmpLeScalar (g : Guard) (d : MReg) (a : VReg) (b : Reg) (t : Ty) (m : Option MReg) : State → Host.Outcome State Fault Refusal := runThread g (vcmpS d a b t m .le)
def execVcmpGt (g : Guard) (d : MReg) (a b : VReg) (t : Ty) (m : Option MReg) : State → Host.Outcome State Fault Refusal := runThread g (vcmp d a b t m .gt)
def execVcmpGtScalar (g : Guard) (d : MReg) (a : VReg) (b : Reg) (t : Ty) (m : Option MReg) : State → Host.Outcome State Fault Refusal := runThread g (vcmpS d a b t m .gt)
def execVcmpGe (g : Guard) (d : MReg) (a b : VReg) (t : Ty) (m : Option MReg) : State → Host.Outcome State Fault Refusal := runThread g (vcmp d a b t m .ge)
def execVcmpGeScalar (g : Guard) (d : MReg) (a : VReg) (b : Reg) (t : Ty) (m : Option MReg) : State → Host.Outcome State Fault Refusal := runThread g (vcmpS d a b t m .ge)
def execVcmpUn (g : Guard) (d : MReg) (a b : VReg) (t : Ty) (m : Option MReg) : State → Host.Outcome State Fault Refusal := runThread g (vcmp d a b t m .un)
def execVcmpUnScalar (g : Guard) (d : MReg) (a : VReg) (b : Reg) (t : Ty) (m : Option MReg) : State → Host.Outcome State Fault Refusal := runThread g (vcmpS d a b t m .un)
/-- vsel writes every element; the mask selects (R145). -/
def execVsel (g : Guard) (d a b : VReg) (t : Ty) (m : MReg) : State → Host.Outcome State Fault Refusal := runThread g do
  let mask := maskOf (← get).th (some m)
  vmap d [a, b] t none 1 fun vs i =>
    (if mask.getLsbD i then elem t (vs.headD 0) i else elem t ((vs.drop 1).headD 0) i, .none)

/-! ### Compress, expand, permute, broadcast (R146) -/

def execVcompress (g : Guard) (d a : VReg) (c : Reg) (t : Ty) (m : Option MReg) : State → Host.Outcome State Fault Refusal := runThread g do
  let _ ← operands [] [c]
  let mask := maskOf (← get).th m
  let en := enables t (BitVec.allOnes 64)
  let (vs, _) ← vsources [a] (some (d, en))
  latency 4
  let kept := (activeOf t mask).map (elem t (vs.headD 0))
  vwrite d (ofElems t kept) en
  write c (Word.ofNat kept.length)
  return .advance

def execVexpand (g : Guard) (d a : VReg) (t : Ty) (m : Option MReg) : State → Host.Outcome State Fault Refusal := runThread g do
  let mask := maskOf (← get).th m
  vmap d [a] t m 4 fun vs i =>
    (elem t (vs.headD 0) ((List.range i).filter fun k => mask.getLsbD k).length, .none)

def execVperm (g : Guard) (d a b : VReg) (t : Ty) (m : Option MReg) : State → Host.Outcome State Fault Refusal := runThread g
  (vmap d [a, b] t m 4 fun vs i => (elem t (vs.headD 0) (elem t ((vs.drop 1).headD 0) i % t.count), .none))

def execVbcast (g : Guard) (d : VReg) (a : Reg) (t : Ty) (m : Option MReg) : State → Host.Outcome State Fault Refusal := runThread g do
  let x ← src1 a []
  vmap d [] t m 1 fun _ _ => (t.low x, .none)

/-! ### Reductions and scans (R147, R148) -/

def execVredAdd (g : Guard) (d : Reg) (a : VReg) (t : Ty) (sat : Bool) (rm : Rm) (m : Option MReg) : State → Host.Outcome State Fault Refusal := runThread g do
  let _ ← operands [] [d]
  let l ← actives a t m
  latency (foldLat t)
  let (r, fl) := Vop.redAdd t sat (← mode rm) (l.map (·.2))
  setFlags fl
  write d (t.place r)
  return .advance

namespace Exec
def vredMinMax (d : Reg) (a : VReg) (t : Ty) (m : Option MReg) (wantMax : Bool) : Exec Next := do
  let _ ← operands [] [d]
  let l ← actives a t m
  latency 4
  let (r, fl) := Vop.redMax t wantMax (l.map (·.2))
  setFlags fl
  write d (t.place r)
  return .advance

def vredIndexed (d : Reg) (a : VReg) (c : Reg) (t : Ty) (m : Option MReg) (wantMax : Bool) : Exec Next := do
  let _ ← operands [] [d, c]
  let l ← actives a t m
  latency 4
  let (r, fl) := Vop.redMax t wantMax (l.map (·.2))
  setFlags fl
  write d (t.place r)
  write c (Vop.redIdx t r l)
  return .advance
end Exec

def execVredMax (g : Guard) (d : Reg) (a : VReg) (t : Ty) (m : Option MReg) : State → Host.Outcome State Fault Refusal := runThread g (vredMinMax d a t m true)
def execVredMin (g : Guard) (d : Reg) (a : VReg) (t : Ty) (m : Option MReg) : State → Host.Outcome State Fault Refusal := runThread g (vredMinMax d a t m false)
def execVredmaxIdx (g : Guard) (d : Reg) (a : VReg) (c : Reg) (t : Ty) (m : Option MReg) : State → Host.Outcome State Fault Refusal := runThread g (vredIndexed d a c t m true)
def execVredminIdx (g : Guard) (d : Reg) (a : VReg) (c : Reg) (t : Ty) (m : Option MReg) : State → Host.Outcome State Fault Refusal := runThread g (vredIndexed d a c t m false)

/-- vscan.add writes every element: the running sum of the active ones so far, 0 before the first (R148). -/
def execVscanAdd (g : Guard) (d a : VReg) (t : Ty) (sat : Bool) (rm : Rm) (m : Option MReg) : State → Host.Outcome State Fault Refusal := runThread g do
  let mask := maskOf (← get).th m
  let en := enables t (BitVec.allOnes 64)
  let (vs, _) ← vsources [a] (some (d, en))
  latency (foldLat t)
  let run := Vop.sums t sat (← mode rm) ((activeOf t mask).map (elem t (vs.headD 0)))
  let upTo := fun i => ((List.range (i + 1)).filter fun k => mask.getLsbD k).length
  setFlags (run.getLastD (0, .none)).2
  setFlags (if t.isFloat then .none else Flags.all (run.map (·.2)))
  vwrite d (ofElems t ((List.range t.count).map fun i => if upTo i = 0 then 0 else (run[upTo i - 1]?.getD (0, .none)).1)) en
  return .advance

/-! ### Conversions (R149) -/

/-- vcvt: `b` is the part a widening reads or a narrowing writes. -/
def execVcvt (g : Guard) (d a : VReg) (b : BitVec 3) (t t2 : Ty) (rm : Rm) : State → Host.Outcome State Fault Refusal := runThread g do
  let md ← mode rm
  let n := 512 / max t.width t2.width
  let p := b.toNat
  let en : BitVec 64 := if t.width < t2.width then firstBytes (n * t.bytes) <<< (p * n * t.bytes) else firstBytes 64
  let (vs, _) ← vsources [a] (some (d, en))
  latency 6
  let from_ := if t2.width < t.width then p * n else 0
  let to_ := if t.width < t2.width then p * n else 0
  let l := (List.range n).map fun i => convert t t2 md (elem t2 (vs.headD 0) (from_ + i))
  setFlags (Flags.all (l.map (·.2)))
  vwrite d (ofElems t (List.replicate to_ 0 ++ l.map (·.1))) en
  return .advance

/-! ### Special functions (R151) -/

def execVlog2 (g : Guard) (d a : VReg) (rm : Rm) (m : Option MReg) : State → Host.Outcome State Fault Refusal := runThread g (special d a rm m .log2)
def execVexp2 (g : Guard) (d a : VReg) (rm : Rm) (m : Option MReg) : State → Host.Outcome State Fault Refusal := runThread g (special d a rm m .exp2)
def execVrcp (g : Guard) (d a : VReg) (rm : Rm) (m : Option MReg) : State → Host.Outcome State Fault Refusal := runThread g (special d a rm m .rcp)
def execVrsqrt (g : Guard) (d a : VReg) (rm : Rm) (m : Option MReg) : State → Host.Outcome State Fault Refusal := runThread g (special d a rm m .rsqrt)
def execVsqrt (g : Guard) (d a : VReg) (rm : Rm) (m : Option MReg) : State → Host.Outcome State Fault Refusal := runThread g (special d a rm m .sqrt)
def execVsin (g : Guard) (d a : VReg) (rm : Rm) (m : Option MReg) : State → Host.Outcome State Fault Refusal := runThread g (special d a rm m .sin)
def execVcos (g : Guard) (d a : VReg) (rm : Rm) (m : Option MReg) : State → Host.Outcome State Fault Refusal := runThread g (special d a rm m .cos)

/-! ### Division (R150) -/

/-- vdiv of an element: an integer quotient, or fdiv. -/
def vdivElem (t : Ty) (mode : RMode) (a b : Nat) : Nat × Flags :=
  match fmtOf t with
  | some f => fdiv f mode a b
  | none => Vop.div t a b

def execVdiv (g : Guard) (d a b : VReg) (t : Ty) (rm : Rm) (m : Option MReg) : State → Host.Outcome State Fault Refusal := runThread g do vmap2 d a b t m (vdivLat t) (vdivElem t (← mode rm))
def execVdivScalar (g : Guard) (d a : VReg) (b : Reg) (t : Ty) (rm : Rm) (m : Option MReg) : State → Host.Outcome State Fault Refusal := runThread g do vmapS d a b t m (vdivLat t) (vdivElem t (← mode rm))
def execVrem (g : Guard) (d a b : VReg) (t : Ty) (m : Option MReg) : State → Host.Outcome State Fault Refusal := runThread g (vmap2 d a b t m (vdivLat t) (Vop.rem t))
def execVremScalar (g : Guard) (d a : VReg) (b : Reg) (t : Ty) (m : Option MReg) : State → Host.Outcome State Fault Refusal := runThread g (vmapS d a b t m (vdivLat t) (Vop.rem t))

/-! ### Streams (R154, R157, R158) -/

/-- The vector register of a stream field. -/
def sreg (d : SReg) : VReg := 4#3 + d.zeroExtend 3

/-- sbind: alignment first, then the reserved bits of C, then an empty store buffer (R154). -/
def execSbind (g : Guard) (d : SReg) (a b c : Reg) : State → Host.Outcome State Fault Refusal := runThread g do
  let (x, y, z) ← src3 a b c []
  let s0 := y.extractLsb' 0 32
  let s1 := y.extractLsb' 32 32
  if x.toNat % 64 ≠ 0 ∨ s0.toNat % 64 ≠ 0 ∨ s1.toNat % 64 ≠ 0 then trap 0x13#8 else
  if z.extractLsb' 33 31 ≠ 0 then trap 0x02#8 else
  drained
  modTh (·.setStream (sreg d) (some { base := x, s0 := s0, s1 := s1, c0 := z.extractLsb' 0 16, c1 := z.extractLsb' 16 16,
                                      wr := z.getLsbD 32 }))
  return .advance

def execSunbind (g : Guard) (d : SReg) : State → Host.Outcome State Fault Refusal := runThread g do
  modTh (·.setStream (sreg d) none)
  return .advance

/-- The status word of a stream (R158). -/
def Stream.status (s : Stream) : Word := fields [(s.ovr.toNat, 34), (s.wr.toNat, 33), (1, 32), (s.total - s.pos, 0)]

def execStest (g : Guard) (d : Reg) (a : SReg) : State → Host.Outcome State Fault Refusal := runThread g do
  let st := streamOf (← get).th (sreg a)
  put d ((st.map Stream.status).getD 0)

/-! ### Moves (R159) -/

def execVmovg (g : Guard) (d : Reg) (a : VReg) (b : Reg) (t : Ty) : State → Host.Outcome State Fault Refusal := runThread g do
  let y ← src1 b [d]
  let (vs, _) ← vsources [a] none
  write d (t.place (elem t (vs.headD 0) (y.toNat % t.count)))
  return .advance

/-- gmovv writes one element; a write stream stores that element alone. -/
def execGmovv (g : Guard) (d : VReg) (a b : Reg) (t : Ty) : State → Host.Outcome State Fault Refusal := runThread g do
  let (x, y) ← src2 a b []
  let e := y.toNat % t.count
  let en := enables t (1#64 <<< e)
  let _ ← vsources [] (some (d, en))
  vwrite d (ofElems t (List.replicate e 0 ++ [t.low x])) en
  return .advance

/-! ### Logic (R143) -/

def execVand (g : Guard) (d a b : VReg) (t : Ty) (m : Option MReg) : State → Host.Outcome State Fault Refusal := runThread g (vmap2 d a b t m 1 fun x y => (x &&& y, .none))
def execVandScalar (g : Guard) (d a : VReg) (b : Reg) (t : Ty) (m : Option MReg) : State → Host.Outcome State Fault Refusal := runThread g (vmapS d a b t m 1 fun x y => (x &&& y, .none))
def execVor (g : Guard) (d a b : VReg) (t : Ty) (m : Option MReg) : State → Host.Outcome State Fault Refusal := runThread g (vmap2 d a b t m 1 fun x y => (x ||| y, .none))
def execVorScalar (g : Guard) (d a : VReg) (b : Reg) (t : Ty) (m : Option MReg) : State → Host.Outcome State Fault Refusal := runThread g (vmapS d a b t m 1 fun x y => (x ||| y, .none))
def execVxor (g : Guard) (d a b : VReg) (t : Ty) (m : Option MReg) : State → Host.Outcome State Fault Refusal := runThread g (vmap2 d a b t m 1 fun x y => (x ^^^ y, .none))
def execVxorScalar (g : Guard) (d a : VReg) (b : Reg) (t : Ty) (m : Option MReg) : State → Host.Outcome State Fault Refusal := runThread g (vmapS d a b t m 1 fun x y => (x ^^^ y, .none))
def execVnot (g : Guard) (d a : VReg) (t : Ty) (m : Option MReg) : State → Host.Outcome State Fault Refusal := runThread g (vmap1 d a t m 1 fun x => (2 ^ t.width - 1 - x, .none))

end Sys2Proof.Machine
end

