-- ==== Sys2Proof/Machine/Sync.lean ====
section
/-! DEFINITION. Synchronising accesses (09 R262-R267), atomics (R268-R274), fences (R275-R277), maintenance of the PLB and
the system cache (R278-R282; 08 R237, R246), and prefetches (R283). -/

namespace Sys2Proof.Machine

open Exec

namespace Exec

def syncForm (a : Reg) (disp : BitVec 11) (op : SyncOp) (d : Option Reg) : Exec Next := do
  let x ← src1 a d.toList
  let v ← syncAccess (x + disp.signExtend 64) op 0
  match d with
  | some d => write d (v.setWidth 64)
  | none => pure ()
  return .advance

/-- A form that stores: D is a source (R262). -/
def syncStore (d a : Reg) (disp : BitVec 11) (op : SyncOp) : Exec Next := do
  let (x, y) ← src2 a d []
  let _ ← syncAccess (x + disp.signExtend 64) op y
  return .advance

/-- An atomic (R269). -/
def amoForm (d a b : Reg) (c : Option Reg) (t : Ty) (o : Ord) (sc : Scope) (op : AmoOp) : Exec Next := do
  let l ← operands ([a, b] ++ c.toList) [d]
  let ea := l.headD 0
  align ea t.bytes
  let p ← access ea rRWA
  drained
  match o with
  | .rel | .ar => releaseAt sc
  | _ => pure ()
  let old ← answer (← atomicAt ea p op (t.width == 64) t.signed (sc == .sys) ((l.drop 1).headD 0) ((l.drop 2).headD 0)) ea
  write d (t.place (old.toNat % 2 ^ t.width))
  return .advance

end Exec

def execLdsync (g : Guard) (d a : Reg) (disp : BitVec 11) : State → Host.Outcome State Fault Refusal := runThread g (syncForm a disp .ldsync (some d))
def execLdsyncKeep (g : Guard) (d a : Reg) (disp : BitVec 11) : State → Host.Outcome State Fault Refusal := runThread g (syncForm a disp .keep (some d))
def execFeread (g : Guard) (d a : Reg) (disp : BitVec 11) : State → Host.Outcome State Fault Refusal := runThread g (syncForm a disp .feread (some d))
def execStsync (g : Guard) (d a : Reg) (disp : BitVec 11) : State → Host.Outcome State Fault Refusal := runThread g (syncStore d a disp .stsync)
def execStfill (g : Guard) (d a : Reg) (disp : BitVec 11) : State → Host.Outcome State Fault Refusal := runThread g (syncStore d a disp .stfill)
def execFeset (g : Guard) (a : Reg) (disp : BitVec 11) : State → Host.Outcome State Fault Refusal := runThread g (syncForm a disp .feset none)
def execFeclr (g : Guard) (a : Reg) (disp : BitVec 11) : State → Host.Outcome State Fault Refusal := runThread g (syncForm a disp .feclr none)

def execAmoAdd (g : Guard) (d a b : Reg) (t : Ty) (o : Ord) (sc : Scope) : State → Host.Outcome State Fault Refusal := runThread g (amoForm d a b none t o sc .add)
def execAmoAnd (g : Guard) (d a b : Reg) (t : Ty) (o : Ord) (sc : Scope) : State → Host.Outcome State Fault Refusal := runThread g (amoForm d a b none t o sc .and)
def execAmoOr (g : Guard) (d a b : Reg) (t : Ty) (o : Ord) (sc : Scope) : State → Host.Outcome State Fault Refusal := runThread g (amoForm d a b none t o sc .or)
def execAmoXor (g : Guard) (d a b : Reg) (t : Ty) (o : Ord) (sc : Scope) : State → Host.Outcome State Fault Refusal := runThread g (amoForm d a b none t o sc .xor)
def execAmoMin (g : Guard) (d a b : Reg) (t : Ty) (o : Ord) (sc : Scope) : State → Host.Outcome State Fault Refusal := runThread g (amoForm d a b none t o sc .min)
def execAmoMax (g : Guard) (d a b : Reg) (t : Ty) (o : Ord) (sc : Scope) : State → Host.Outcome State Fault Refusal := runThread g (amoForm d a b none t o sc .max)
def execAmoSwap (g : Guard) (d a b : Reg) (t : Ty) (o : Ord) (sc : Scope) : State → Host.Outcome State Fault Refusal := runThread g (amoForm d a b none t o sc .swap)
def execAmoCas (g : Guard) (d a b c : Reg) (t : Ty) (o : Ord) (sc : Scope) : State → Host.Outcome State Fault Refusal := runThread g (amoForm d a b (some c) t o sc .cas)

/-! ### Fences (R275, R276) -/

namespace Exec
/-- The read-ahead data of read streams are discarded (R275). -/
def dropAhead : Exec Unit := modTh fun t => { t with streams := t.streams.map fun st => st.map fun s => { s with ahead := [] } }
end Exec

/-- fence: .rel puts a marker into the buffer, .acq orders later accesses, .ar waits for the release; before the next line
entry every store already in the buffer has left it. -/
def execFence (g : Guard) (o : Ord) (sc : Scope) : State → Host.Outcome State Fault Refusal := runThread g do
  match o with
  | .rlx => trap 0x02#8
  | .rel =>
    let e ← get
    if 8 ≤ e.th.sb.length then park .sbRoom else pure ()
    modTh fun t => { t with sb := t.sb ++ [.marker sc], fenceLeft := e.th.buffered }
  | .acq =>
    dropAhead
    modTh fun t => { t with fenceLeft := t.buffered }
  | .ar =>
    releaseAt sc
    dropAhead
  return .advance

/-! ### PLB and system-cache maintenance (R278-R282) -/

/-- plbload: fill the PLB for a page and give the rights byte, or all ones; it never traps on its address (R279). -/
def execPlbload (g : Guard) (d a : Reg) : State → Host.Outcome State Fault Refusal := runThread g do
  let x ← src1 a [d]
  let e ← get
  let (_, k) ← ctx
  let none_ : Word := BitVec.allOnes 64
  let r ← match e.s.mapCheck e.core k x with
    | .ok (.mgmt _) => pure none_
    | .error 0x11#8 => pure none_
    | _ => match region k.tenant x with
      | .mgmt _ => pure none_
      | _ =>
        match e.th.filled.find? (fun f => f.1 == plbKey k.tenant x / 2 ^ 17) with
        | some (_, some p) => pure (p.rights.zeroExtend 64)
        | some (_, none) => pure none_
        | none => park (.plb x)
  write d r
  return .advance

namespace Exec
/-- Do an invalidation once, and wait until every store of the contexts it concerns that had passed its check before it has
left its buffer (R237, R246); the line-buffer channels of those contexts are then emptied (R335). -/
def invalidate (ok : Nat → Bool) (f : State → State) : Exec Unit := do
  let _ ← observe do
    ensureNext
    let l := (← get).s.buffered ok
    both f
    modTh fun t => { t with waitsFor := l }
    modKeepTh fun t => { t with waitsFor := l }
    return .val 0
  let e ← get
  if e.s.undrained e.th.waitsFor then park .inval else modS fun s => s.emptyBufs ok
end Exec

/-- Remove entries of the PLBs of every core of a context: those that cover an address, or all (R280). -/
def State.plbDrop (s : State) (n : Nat) (a : Option Word) : State :=
  let tenant := ((s.ctx n).getD {}).tenant
  { s with cores := Tab.mapV s.cores fun _ c =>
      if c.ctx = some n then
        { c with plb := match a with
            | none => []
            | some a => c.plb.filter fun p => !p.covers (plbKey tenant a) }
      else c }

def execPlbinval (g : Guard) (a b : Option Reg) : State → Host.Outcome State Fault Refusal := runThread g do
  let e ← get
  if b.isSome ∧ !e.s.privileged e.core then trap 0x08#8 else
  let l ← operands (a.toList ++ b.toList) []
  let addr := if a.isSome then l.head? else none
  let target := if b.isSome then bits (l.getLastD 0) 7 0 else e.s.ctxOf e.core
  invalidate (· == target) fun s => s.plbDrop target addr
  return .advance

/-- scflush: the read right of every page of the range, then the write-back of its dirty lines, which waits for the DRAM
(R281, R394). The fault of a page's check names the first line for the first page and the page's base for a later one
(DESIGN CHOICE, log entry 26). -/
def execScflush (g : Guard) (a b : Reg) : State → Host.Outcome State Fault Refusal := runThread g do
  let (x, y) ← src2 a b []
  let n := bits y 18 0
  if n = 0 then return .advance else
  drained
  let first := x.toNat / 64 * 64
  let pages :=
    first :: (List.range ((first + 64 * n - 1) / 2 ^ 17 - first / 2 ^ 17)).map fun i => (first / 2 ^ 17 + 1 + i) * 2 ^ 17
  for p in pages do
    let _ ← access (Word.ofNat p) rR
  let (_, k) ← ctx
  match region k.tenant (Word.ofNat first) with
  | .paged p =>
    let here := fun (l : Nat) => decide (p.toNat / 64 ≤ l) && decide (l < p.toNat / 64 + n)
    let s := (← get).s
    if s.selfRefresh && s.dirtyLine here then
      modKeep fun s => { s with dramExit := true }
      park .inval
    else modS fun s => s.writeBack here
  | _ => pure ()
  return .advance

/-- Invalidate the translations, the lines of the system cache and of the line buffers, and the route-cache entries of a
32 MiB range (R246, R282, R382). -/
def State.scInval (s : State) (a : Word) : State :=
  let here := fun (n : Nat) => n / 2 ^ 25 == a.toNat / 2 ^ 25
  { s.dropLines (fun l => here (64 * l)) with
           tcache := s.tcache.filter fun e => !here e.2.1
           routes := s.routes.filter fun r => !here r.toNat
           cores := Tab.mapV s.cores fun _ c =>
             let tenant := ((s.ctx (c.ctx.getD 0)).getD {}).tenant
             { c with plb := c.plb.filter fun e => !here e.base
                      ilb := c.ilb.filter fun l => match region tenant (Word.ofNat (64 * l)) with
                | .paged p => !here p.toNat
                | _ => true } }

/-- scinval (R282): privileged. -/
def execScinval (g : Guard) (a : Reg) : State → Host.Outcome State Fault Refusal := runThread g do
  let e ← get
  if !e.s.privileged e.core then trap 0x08#8 else
  let x ← src1 a []
  let (_, k) ← ctx
  match region k.tenant x with
  | .paged p =>
    let s := (← get).s
    if s.selfRefresh && s.dirtyLine (fun l => l / 2 ^ 19 == p.toNat / 2 ^ 25) then
      modKeep fun s => { s with dramExit := true }
      park .inval
    else invalidate (fun _ => true) fun s => s.scInval p
  | _ => invalidate (fun _ => true) id
  return .advance

/-! ### Prefetch (R283) -/

namespace Exec
/-- A hint: a rights fill without the thread, and the fault record of a page that is not present. -/
def prefetchForm (a : Reg) (isWrite : Bool) : Exec Next := do
  let x ← src1 a []
  let e ← get
  let (n, k) ← ctx
  match region k.tenant x with
  | .paged p =>
    let entry := (plbFind (e.s.core e.core).plb p.toNat) <|> (e.s.fill k x)
    match entry with
    | some r =>
      ensureNext
      updCore fun c => { c with plb := plbTouch c.plb r }
      let need := if isWrite then rW else rR
      if r.rights &&& need = need then
        modS fun s =>
          let (t, s) := s.translate p
          match t with
          | .absent => if s.outsidePage p then s else s.postPage p n e.core isWrite true
          | .dram d => if s.sleeps p then { s with dramExit := true } else s.fillLine p d false
          | _ => s
      else pure ()
    | none => pure ()
  | _ => pure ()
  return .advance
end Exec

def execPrefetch (g : Guard) (a : Reg) : State → Host.Outcome State Fault Refusal := runThread g (prefetchForm a false)
def execPrefetchW (g : Guard) (a : Reg) : State → Host.Outcome State Fault Refusal := runThread g (prefetchForm a true)

end Sys2Proof.Machine
end

