-- ==== Sys2Proof/Machine/Sched.lean ====
section
/-! DEFINITION. The deque (06 R182), launches (R31, R184), saves and restores (R168-R170), and the memory-mapped owner of an
SRAM quarter (R190). -/

namespace Sys2Proof.Machine

/-! ### The deque (R182) -/

/-- Push at the bottom: with the hardware part full, its topmost records move to the spill area. -/
def Core.pushDeque (c : Core) (r : TaskRec) : Core :=
  let hw := if c.dequeHw = 128 then 128 - min 32 (256 - (c.deque.length - 128)) else c.dequeHw
  { c with deque := r :: c.deque, dequeHw := hw + 1 }

/-- Bring spilled records back when the hardware part is empty. -/
def Core.refill (c : Core) : Core := if c.dequeHw = 0 then { c with dequeHw := min 32 c.deque.length } else c

/-- Take the record at a place, the bottom at 0. -/
def Core.takeDeque (c : Core) (i : Nat) : Core :=
  ({ c with deque := c.deque.eraseIdx i, dequeHw := if i < c.dequeHw then c.dequeHw - 1 else c.dequeHw } : Core).refill

/-- There is room for a record of a slot: the places that other slots' forks have reserved count (R182, R205). -/
def Core.dequeRoom (c : Core) (slot : Nat) : Bool :=
  decide (c.deque.length + (c.slots.filter fun p => p.2.heldDeque && p.1 != slot).length < 384)

/-- The topmost record a thief at a level may take, and the deque without it (R183). -/
def Core.stealDeque (c : Core) (level : Nat) : Option (TaskRec × Core) :=
  let l := c.deque.reverse
  match l.find? fun r => level ≤ r.dom with
  | none => none
  | some r => some (r, c.takeDeque (c.deque.length - 1 - l.idxOf r))

/-- A task record as it lies in memory (R180). -/
def TaskRec.words (r : TaskRec) : List Word :=
  [r.pc] ++ ((List.range 4).map fun i => (r.args[i]?).getD 0) ++
    [r.join,
     fields [((r.tid.getD 0).toNat, 32), (r.tid.isSome.toNat, 18), (r.lend.toNat, 17), (r.pin.toNat, 16), (r.ctx, 8), (r.dom, 4), (r.prio, 0)],
     fields [(r.cv.toNat, 14), (r.cslot, 10), (r.ccore, 0)]]

/-- Write words from a physical address on. -/
def State.writeWords (s : State) (a : Nat) (l : List Word) : State :=
  (l.zip (List.range l.length)).foldl (fun (s : State) p => s.write (a + 8 * p.2) 8 p.1.toNat) s

/-- Where the spill region of a core begins (R169). -/
def spillBase (core : Nat) : Nat := sramAt (quadOf core) (0x1C0000 + core % 4 * 0x10000)

/-- The spilled records of a core's deque lie in its spill region, behind the 48 save records, the topmost first (R169, R182; log
entry 49). -/
def State.spillDeque (s : State) (core : Nat) : State :=
  let c := s.core core
  let l := (c.deque.drop c.dequeHw).reverse
  (l.zip (List.range l.length)).foldl (fun (s : State) p => s.writeWords (spillBase core + 48 * 1024 + 64 * p.2) p.1.words) s

/-- A save record takes 1,024 bytes whose layout belongs to the device and the plinth: its words are free values (R169; log
entry 49). -/
def State.spillSave (s : State) (core n : Nat) : State :=
  let ws := (List.range 128).map fun i => Config.freeWord (s.freeCtr + i)
  ({ s with freeCtr := s.freeCtr + 128 } : State).writeWords (spillBase core + 1024 * n) ws

/-! ### Launches (R31, R180, R181, R184) -/

def Core.pins (c : Core) : Nat := (c.slots.filter fun p => p.2.pinned).length

/-- The general registers of a launch: the arguments, and zero. -/
def launchRegs (args : List Word) : Vector Word 24 := Vector.ofFn fun (i : Fin 24) => (args[i.val]?).getD 0

/-- A thread in the state a task record launches it in (R31). -/
def TaskRec.thread (r : TaskRec) (tid : BitVec 32) (pin : Bool) (cycle : Nat) : Thread :=
  { pc := r.pc, g := launchRegs r.args, join := r.join, prio := r.prio, dom := r.dom, tid := tid, pinned := pin,
    lend := r.lend, cv := r.cv, ccore := r.ccore, cslot := r.cslot, poisoned := r.poisoned, trapinfo := r.trapinfo,
    recSeq := r.recSeq, depth := r.depth, readyAt := cycle + 1, since := cycle }

/-- Launch a task record into a slot: tid from the record or from the context's launch counter (R180). -/
def State.launchTask (s : State) (core slot : Nat) (r : TaskRec) : State :=
  let n := s.ctxOf core
  let k := s.core core
  let next := ((s.ctx n).getD {}).launched
  let s := if r.tid.isSome then s else s.updCtx n fun x => { x with launched := x.launched + 1 }
  s.setThread core slot (r.thread (r.tid.getD next) (r.pin && decide (k.pins < 12)) k.cycle)

/-- A thread is back in a slot: the stop of its stepped yield or roam is taken (R209, R225, R380). -/
def State.enterSlot (s : State) (core slot : Nat) (t : Thread) : State :=
  let s := s.setThread core slot { t with stopDue := none }
  match t.stopDue with
  | some st => s.takeStop core slot st
  | none => s

/-- Launch an inbox entry; a roaming thread starts as it arrived (R190). -/
def State.launchItem (s : State) (core slot : Nat) : InboxItem → State
  | .task r => s.launchTask core slot r
  | .roamer t => s.enterSlot core slot { t with readyAt := (s.core core).cycle + 1, since := (s.core core).cycle }
  | .reserved _ _ => s

/-- Where a launch comes from (R184), in the order that settles ties: a place in the inbox, in the hit list, a save record, a place
in the deque, the bottom at 0. -/
inductive Source where
  | inbox (i : Nat)
  | hit (i : Nat)
  | resume (n : Nat)
  | deque (i : Nat)
deriving DecidableEq, Repr

/-- The first of the candidates with the highest priority. -/
def bestOf {α : Type} (l : List (α × Nat)) : Option (α × Nat) :=
  l.foldl (fun b x => match b with
    | none => some x
    | some y => if y.2 < x.2 then some x else b) none

/-- The inbox record of highest priority, the oldest among equals. -/
def Core.inboxBest (c : Core) : Option (Source × Nat) :=
  bestOf ((c.inbox.zip (List.range c.inbox.length)).filterMap fun (x : InboxItem × Nat) => match x.1 with
    | .task r => some (Source.inbox x.2, r.prio)
    | .roamer t => some (.inbox x.2, t.prio)
    | .reserved _ _ => none)

/-- The eligible resume record of highest priority, the earliest to become eligible among equals. -/
def Core.resumeBest (c : Core) : Option (Source × Nat) :=
  (c.saved.foldl (fun (b : Option (Nat × Nat × Nat)) (p : Nat × Saved) => match p.2.eligible with
    | none => b
    | some k => match b with
      | none => some (p.1, p.2.prio, k)
      | some y => if y.2.1 < p.2.prio ∨ (y.2.1 = p.2.prio ∧ k < y.2.2) then some (p.1, p.2.prio, k) else b) none).map
    fun y => (.resume y.1, y.2.1)

/-- The candidates of the allocator, in the order of sources (R184). -/
def Core.candidates (c : Core) : List (Source × Nat) :=
  c.inboxBest.toList ++ (c.hits.head?.map fun r => (Source.hit 0, r.prio)).toList ++ c.resumeBest.toList
    ++ (c.deque.head?.map fun r => (Source.deque 0, r.prio)).toList

/-- The lowest-numbered EMPTY user slot. -/
def Core.emptySlot (c : Core) : Option Nat := Tab.free c.slots 0 15

/-- A park that has been abandoned (R168, R267): a counted wait goes on from its count, any other instruction reissues. -/
def Thread.unparked (t : Thread) : Thread :=
  match t.run with
  | .parked w _ _ => (match w with
      | .port | .sem | .inbox | .binding | .callerMail | .sigwait | .sync _ => t
      | _ => { t with run := .ready })
  | _ => t

/-- Back on its core (R170, R267): the thread issues again at its first own cycle after the 24 of the restore. -/
def Thread.restored (t : Thread) (cycle : Nat) : Thread := { t.unparked with readyAt := cycle + 24, since := cycle }

/-- The reads made in the name of a save record are dropped: its instruction issues afresh (R170). -/
def State.dropReads (s : State) (core tag : Nat) : State :=
  { s with reqs := Tab.filterV s.reqs fun _ r => r.src != .thread core tag && r.src != .fetch core tag }

/-- Restore a saved thread into a slot; its tags follow it (R170, R189, R212). -/
def State.restore (s : State) (core slot n : Nat) : State :=
  match (s.core core).saved.get? n with
  | none => s
  | some v =>
    let s := (s.dropReads core (16 + n)).retag core (16 + n) slot
    let s := s.updCore core fun c => { c with saved := Tab.erase c.saved n }
    s.enterSlot core slot (v.th.restored (s.core core).cycle)

/-- Launch a candidate into a slot, taking it from its source. -/
def State.launchFrom (s : State) (core slot : Nat) (src : Source) : State :=
  let c := s.core core
  match src with
  | .inbox i => match c.inbox[i]? with
    | some x => (s.updCore core fun c => { c with inbox := c.inbox.eraseIdx i }).launchItem core slot x
    | none => s
  | .hit i => match c.hits[i]? with
    | some r => (s.updCore core fun c => { c with hits := c.hits.eraseIdx i }).launchTask core slot r
    | none => s
  | .resume n => s.restore core slot n
  | .deque i => match c.deque[i]? with
    | some r => ((s.updCore core (·.takeDeque i)).spillDeque core).launchTask core slot r
    | none => s

/-! ### Saves (R168-R170) -/

/-- An acquire discards what the thread's streams have read ahead (R156). -/
def Thread.noAhead (t : Thread) : Thread :=
  { t with streams := t.streams.map fun (st : Option Stream) => st.map fun (x : Stream) => ({ x with ahead := [] } : Stream) }

/-- A park that is abandoned: its instruction gives up what it holds (R168). A synchronising access that has issued keeps the rights it
was checked with and the line it has entered, so that its next own cycle is one of its loop (R264, R267). -/
def Thread.abandon (t : Thread) : Thread :=
  match t.run with
  | .parked (.sync _) _ _ => { t.giveUp with filled := t.filled, entered := t.entered }
  | _ => t.giveUp

/-- The thread waits for a job (R312). -/
def Thread.onJob (t : Thread) : Bool :=
  match t.run with
  | .parked (.job _) _ _ => true
  | _ => false

/-- What a save keeps of a thread: an abandoned park has had no effect; a blocking engine job goes on, and keeps the words and
the room it has reserved (R20, R168, R170, R312). A thread whose job or invocation has been answered already keeps the answer, which
is in the save (R168). -/
def Thread.forSave (t : Thread) : Thread :=
  let t := t.noAhead
  if t.onJob || t.heldEntry.isSome then { t with entered := none, fetched := none, lineParked := false } else t.abandon

/-- A request of the thread waits at its home for a page that is not present (R170, R244). -/
def State.waitsForPage (s : State) (core slot : Nat) : Bool :=
  let mine := s.reqs.filter fun p => p.2.src == .thread core slot || p.2.src == .fetch core slot
  !mine.isEmpty && mine.all fun p => p.2.st == .parked

/-- A join counter the die holds reads zero (R206). -/
def State.joinZero (s : State) (core : Nat) (a : Word) : Bool :=
  match s.ctx (s.ctxOf core) with
  | some x => (match s.diePhys x a with
      | some d => s.word d == 0
      | none => false)
  | none => false

/-- When a thread that is saved now is eligible at once (R170): also when what it waits for has come while it was evicted. -/
def State.eligibleNow (s : State) (core slot : Nat) (t : Thread) : Bool :=
  match t.run with
  | .ready => true
  | .parked w _ _ => (match w with
      | .join a => s.joinZero core a
      | .mail => (s.core core).mail.any fun m => m.tag == slot
      | .request => !s.waitsForPage core slot
      | .line _ => !t.lineParked
      | .kfence => t.pend == 0
      | .wakeGo i st => decide ((s.island i).st.depth ≤ st.depth)
      | .job _ => false
      | _ => true)
  | _ => false

/-- Write the save of a thread whose buffer is empty: its slot becomes EMPTY, and its tags follow it; a request of it that
waits for a page stays, in the name of the save (R168, R170, R189, R212). -/
def State.saveThread (s : State) (core slot : Nat) : State :=
  match s.thread core slot, Tab.free (s.core core).saved 0 48 with
  | some t, some n =>
    let c := s.core core
    let now := s.eligibleNow core slot t
    let s := s.release core slot
    let s := s.retag core slot (16 + n)
    let s : State := { s with reqs := Tab.mapV s.reqs fun _ r => match r.src with
      | .thread c k => if c = core ∧ k = slot then { r with src := .thread c (16 + n) } else r
      | .fetch c k => if c = core ∧ k = slot then { r with src := .fetch c (16 + n) } else r
      | _ => r }
    let v : Saved := { th := t.forSave, slot := slot, eligible := if now then some c.eligSeq else none, prio := t.prio }
    ((s.updCore core fun c => { c with saved := Tab.set c.saved n v, eligSeq := c.eligSeq + 1 }).dropThread core slot).spillSave core n
  | _, _ => s

/-- A saved thread becomes eligible (R170). -/
def Core.makeEligible (c : Core) (n : Nat) : Core :=
  match c.saved.get? n with
  | some v => if v.eligible.isSome then c else
    { c with saved := Tab.set c.saved n { v with eligible := some c.eligSeq }, eligSeq := c.eligSeq + 1 }
  | none => c

/-! ### Owners of SRAM quarters (R190) -/

/-- The core that owns the quarter of a context slice's byte, none for a store slice or a quarter without an owner. -/
def Ctx.ownerOf (x : Ctx) (c o : Nat) : Option Nat :=
  match x.slices[c]? with
  | some p => if p < 132 then x.owners.get? (4 * c + o / 2 ^ 19) else none
  | none => none

/-- A core that neither roams nor msend may reach from a context: a plinth core, a fenced one, one of another context. -/
def State.closed (s : State) (n core : Nat) : Bool :=
  s.isPlinth core || (s.core core).fenced || (s.core core).ctx != some n

end Sys2Proof.Machine
end

