-- ==== Sys2Proof/Machine/Traps.lean ====
section
/-! DEFINITION. The end of a thread and the decision of a trap record: halt (07 R208), eret (04 R133), eresume and ekill
(13 R370, R375). -/

namespace Sys2Proof.Machine

open Exec

/-- The cores a message for a context passes from `core` on, by their forwarding entries, the core that holds the context last
(R387). Empty when an entry is missing. -/
def State.forwardPath (s : State) (n : Nat) : Nat → Nat → List Nat
  | 0, _ => []
  | k + 1, core =>
    if (s.core core).ctx = some n then [core] else
    match (s.core core).forwards.lookup n with
    | some (next, _) => (match s.forwardPath n k next with
      | [] => []
      | l => core :: l)
    | none => []

/-- A core a message for a context reaches: the core itself, or where forwarding entries lead (R387). -/
def State.reach (s : State) (n core : Nat) : Option Nat := (s.forwardPath n 529 core).getLast?

/-- A message for a context passes the forwarding entries on its way (R387). -/
def State.passed (s : State) (n core : Nat) : State :=
  (s.forwardPath n 529 core).foldl (fun s c => s.updCore c fun k =>
    { k with forwards := k.forwards.map fun e => if e.1 == n then (e.1, e.2.1, s.time) else e }) s

/-- A message may be sent to a core: its queue of 64 has room, those on the way included (R188). -/
def State.mailRoom (s : State) (core : Nat) : Bool :=
  decide ((s.core core).mail.length + (s.messages.filter fun p => p.1 == core).length < 64)

/-- Send a message (MESSAGE_DELIVERY brings it). -/
def State.post (s : State) (core : Nat) (m : Msg) : State := { s with messages := s.messages ++ [(core, m)] }

/-- End a thread by its tag (R208, R375). -/
def State.endTagged (s : State) (core tag : Nat) : State :=
  if tag < 16 then s.endThread core tag
  else
    let s := (s.orphan core tag).retag core tag noTag
    s.updCore core fun c => { c with saved := Tab.erase c.saved (tag - 16), mail := c.mail.filter fun m => m.tag != noTag }

/-- The record of a context at an address of its trap area (R368). -/
def Ctx.recordAt (x : Ctx) (a : Word) : Option (Nat × TrapRec) :=
  let off := (a - x.trbase).toNat
  if off % 512 = 0 ∧ off / 512 < 2 ^ x.trlog then (x.recs.get? (off / 512)).map fun r => (off / 512, r) else none

/-- The record a handler task was started for, as long as its slot is not freed: a later record in the same slot is not
its own (R133, R370). -/
def Ctx.ownRecord (x : Ctx) (t : Thread) : Option (Nat × TrapRec) :=
  (x.recordAt t.trapinfo).filter fun p => p.2.seq == t.recSeq

/-- Mark a record decided, in the table and in its DEC bit (R368, R370). -/
def State.markDecided (s : State) (n i : Nat) : State :=
  match s.ctx n with
  | none => s
  | some x =>
    let s := s.setCtx n { x with recs := Tab.update x.recs i fun r => { r with dec := true } }
    match s.recordAddr x i with
    | some a => s.write a 8 (s.word a ||| (1#64 <<< 33)).toNat
    | none => s

/-- Free a record's slot. -/
def State.freeRecord (s : State) (n i : Nat) : State := s.updCtx n fun x => { x with recs := Tab.erase x.recs i }

/-- eresume of a thread by its tag: it takes the record's registers, and is READY, or eligible to resume (R375). -/
def State.resumeTagged (s : State) (core tag a : Nat) : State :=
  match s.tagged core tag with
  | none => s
  | some t =>
    let s := s.setTagged core tag (t.resume s a)
    if tag < 16 then s else s.updCore core fun c => c.makeEligible (tag - 16)

/-- The undecided record of a context at an address, a debugger stop excepted (R375). -/
def State.undecided (s : State) (n : Nat) (a : Word) : Option (Nat × TrapRec) :=
  (((s.ctx n).getD {}).recordAt a).filter fun p => !p.2.dec && p.2.type != 1

/-- eresume of the record at an address: 0, or 1 where none is undecided there (R375). -/
def State.resumeRecord (s : State) (n : Nat) (at_ : Word) : Word × State :=
  match s.undecided n at_ with
  | none => (1, s)
  | some (i, r) =>
    let s1 := s.markDecided n i
    let s2 := match s1.recordAddr ((s.ctx n).getD {}) i with
      | some p => if r.type = 0 then s1.resumeTagged r.core r.slot p else s1
      | none => s1
    (0, s2.freeRecord n i)

/-- The record at an address is decided as a kill: 1, or 0 where none is undecided there (R375). -/
def State.decideKill (s : State) (n : Nat) (at_ : Word) : Word × State :=
  match s.undecided n at_ with
  | none => (0, s)
  | some (i, _) => (1, s.markDecided n i)

/-- The thread a record has stopped. -/
def State.stoppedThread (s : State) (r : TrapRec) : Option Thread := if r.type = 0 then s.tagged r.core r.slot else none

/-- The core at which the caller of a thread waits for its reply (R212, R387). -/
def State.callerOf (s : State) (n : Nat) (t : Thread) : Option Nat := if t.cv then s.reach n t.ccore else none

/-- The queue of the caller of the thread of a record has room for the reply (R188, R375). -/
def State.killRoom (s : State) (n i : Nat) : Bool :=
  match ((s.ctx n).bind fun x => x.recs.get? i).bind s.stoppedThread with
  | some t => (s.callerOf n t).all s.mailRoom
  | none => true

/-- The thread of a decided record ends, its caller learns the code, and the record is free (R375). -/
def State.finishKill (s : State) (n i : Nat) : State :=
  match (s.ctx n).bind fun x => x.recs.get? i with
  | none => s
  | some r => (match s.stoppedThread r with
    | none => s
    | some t =>
      let code := match t.run with
        | .trapped st _ => st.code
        | _ => 0#8
      let s1 := s.endTagged r.core r.slot
      match s.callerOf n t with
      | some c => (s1.passed n t.ccore).post c { value := 0, status := code.zeroExtend 16, src := r.core, kind := 0, tag := t.cslot }
      | none => s1).freeRecord n i

namespace Exec

/-- What the instruction has settled of the record it kills stands from here on, whatever becomes of its parks. -/
def remember (k : Option (Nat × Option Reply)) : Exec Unit := do
  modTh fun t => { t with killing := k }
  modKeepTh fun t => { t with killing := k }

/-- An answer, or the code of the check that has failed instead. -/
def untrapped (x : Exec Reply) : Exec Reply := tryCatch x fun h => match h with
  | .trap st => return .err st.code
  | h => throw h

/-- The decrement of the counter of a thread that is killed, made once and remembered (R204, R375). A counter whose checks fail counts
as refused (DESIGN CHOICE, log entry 54). -/
def killDecrement (r : TrapRec) (join : Word) : Exec Reply := do
  match (← get).th.killing with
  | some (_, some a) => return a
  | _ =>
    if join = 0 then return .val 0 else
    let l := (← get).log.length
    let a ← untrapped (decrement join)
    -- The answer is kept in the thread, no longer among those of the instruction.
    modify fun e => { e with log := e.log.take l, th := { e.th with replies := e.th.replies.take l } }
    remember (some (r.seq, some a))
    return a

/-- The record of the own context at an address that this instruction decides as a kill, or has decided before it was abandoned; none
where none is undecided there (R375). -/
def decideRecord (a : Word) : Exec (Option (Nat × TrapRec)) := do
  let (n, x) ← ctx
  let t := (← get).th
  let mine := (x.recordAt a).filter fun p => t.killing.any (·.1 == p.2.seq)
  if mine.isSome then return mine else
  let done ← command (.kill a) fun s => s.decideKill n a
  if done = 0 then return none else
  let found := (← ctx).2.recordAt a
  remember (found.map fun p => (p.2.seq, none))
  return found

/-- The rest of a kill (R375): wait until the thread's count is zero, decrement, reply once its caller's queue has room, and end the
thread. The answer says that the home refused the decrement. -/
def killRecord (i : Nat) (r : TrapRec) : Exec Bool := do
  let (n, _) ← ctx
  let refused ← match (← get).s.stoppedThread r with
    | none => pure false
    | some t =>
      if t.outst ≠ 0 then park .outst else pure ()
      ensureNext
      let a ← killDecrement r t.join
      if (← get).s.killRoom n i then pure () else park .callerMail true
      pure (match a with
        | .val _ => false
        | .err _ => true)
  let _ ← command (.endKill i) fun s => (0, s.finishKill n i)
  modTh fun t => { t with killing := none }
  return refused

/-- The end of a thread as halt ends it, its counter decremented first (R208). -/
def endSelf : Exec Next := do
  let e ← get
  if e.th.join = 0 then pure () else do
    let _ ← answer (← decrement e.th.join) e.th.join
  modS fun s => s.endThread e.core e.slot
  return .gone

/-- The end of a handler task: a record it has not decided is killed (R133). -/
def endHandler : Exec Next := do
  modify fun e => { e with ends := true }
  settled
  let t := (← get).th
  let (_, x) ← ctx
  match x.ownRecord t with
  | none => endSelf
  | some _ =>
    -- A record that it has not decided, or has decided as a kill already, is killed to the end.
    match ← decideRecord t.trapinfo with
    | some (i, r) =>
      let _ ← killRecord i r
      endSelf
    | none => endSelf

end Exec

/-- halt (R208); in a handler task it acts as eret. -/
def execHalt (g : Guard) : State → Host.Outcome State Fault Refusal := runThread g do
  if (← get).th.trapinfo ≠ 0 then endHandler else
  modify fun e => { e with ends := true }
  settled
  endSelf

/-- eret (R133): only a handler task may execute it. -/
def execEret (g : Guard) : State → Host.Outcome State Fault Refusal := runThread g do
  if (← get).th.trapinfo = 0 then trap 0x01#8 else endHandler

/-- eresume (R375). -/
def execEresume (g : Guard) (d a : Reg) : State → Host.Outcome State Fault Refusal := runThread g do
  let x ← src1 a [d]
  drained
  let (n, _) ← ctx
  write d (← command (.resume x) fun s => s.resumeRecord n x)
  return .advance

/-- ekill (R375): status 2 when the counter's home refuses the decrement. -/
def execEkill (g : Guard) (d a : Reg) : State → Host.Outcome State Fault Refusal := runThread g do
  let x ← src1 a [d]
  drained
  match ← decideRecord x with
  | none => write d 1
  | some (i, r) => write d (if ← killRecord i r then 2 else 0)
  return .advance

end Sys2Proof.Machine
end

