-- ==== Sys2Proof/Machine/Parallel.lean ====
section
/-! DEFINITION. Instructions for parallel work (07 R200-R225): tasks, calls and messages, semaphores, the waiting-task
table, pass ports and roaming. -/

namespace Sys2Proof.Machine

open Exec

/-! ### Task records (R180, R202) -/

/-- A prepared task record: the context is the core's, priority and domain at most the issuing thread's, no caller and no
preassigned tid (R202). -/
def TaskRec.prepared (ctx : Nat) (t : Thread) (pc : Word) (args : List Word) (join : Word) (prio dom : Nat) (pin lend : Bool) : TaskRec :=
  { pc := pc, args := args, join := join, prio := min prio t.prio, dom := min dom t.dom, ctx := ctx, pin := pin, lend := lend }

/-- The record of 64 bytes a program has written (R180), prepared for launch. -/
def TaskRec.ofBytes (ctx : Nat) (t : Thread) (v : Vec) : TaskRec :=
  let w := fun i => v.extractLsb' (64 * i) 64
  let f := w 6
  .prepared ctx t (w 0) [w 1, w 2, w 3, w 4] (w 5) (bits f 3 0) (bits f 5 4) (f.getLsbD 16) (f.getLsbD 17)

namespace Exec

/-- Read and prepare the record at an address (R202). -/
def readRecord (a : Word) : Exec TaskRec := do
  let v ← load a 64
  return .ofBytes (← ctx).1 (← get).th v

/-- The core of a virtual core number, none outside the context's core map. -/
def coreOf (v : Word) : Exec (Option Nat) := do return (← ctx).2.cores[v.toNat]?

def mapCore (core : Nat) (f : Core → Core) : Exec Unit := modS fun s => s.updCore core f

end Exec

/-! ### fork, join, spawn (R205-R207) -/

/-- fork: it reserves its place in the deque at issue, so that the push finds room (R182, R205). -/
def execFork (g : Guard) (d a b : Reg) (lendBit pv : Bool) (dom : BitVec 2) (prio : BitVec 4) : State → Host.Outcome State Fault Refusal :=
  runThread g do
    unpaired
    let (x, y) ← src2 a b [d]
    let e ← get
    if !(e.s.core e.core).dequeRoom e.slot then
      write d 1
      return .advance
    else
      modTh fun t => { t with heldDeque := true }
      modKeepTh fun t => { t with heldDeque := true }
      let args := (List.range 4).map fun i => (e.th.g[i]?).getD 0
      let r := TaskRec.prepared (← ctx).1 e.th x args y (if pv then prio.toNat else e.th.prio) dom.toNat false lendBit
      increment r.join
      mapCore e.core (·.pushDeque r)
      modS fun s => s.spillDeque e.core
      write d 0
      return .advance

/-- join: wait until the counter reads zero; each evaluation reads it afresh; L is 1 (R201, R206). -/
def execJoin (g : Guard) (a : Reg) : State → Host.Outcome State Fault Refusal := runThread g do
  let x ← src1 a []
  let v ← load x 8
  latency 1
  if v.toNat % 2 ^ 64 = 0 then return .advance
  else
    modify fun e => { e with log := [] }
    park (.join x)

/-- spawn: an entry of the target's inbox is reserved before the counter is incremented (R207). -/
def execSpawn (g : Guard) (d a b : Reg) : State → Host.Outcome State Fault Refusal := runThread g do
  unpaired
  let (x, y) ← src2 a b [d]
  match ← coreOf y with
  | none =>
    write d 2
    return .advance
  | some c =>
    let r ← readRecord x
    let e ← get
    let mark := InboxItem.reserved e.core e.slot
    let k := e.s.core c
    if k.inbox.contains mark then pure ()
    else if k.inboxRoom 1 then both fun s => s.updCore c (·.putInbox mark)
    else park .inbox true
    increment r.join
    mapCore c fun k => { k with inbox := k.inbox.filter (· != mark) ++ [.task r] }
    write d 0
    return .advance

/-! ### yield, lend, pin (R209-R211) -/

/-- The record a yield of a priority gives its slot to (R209): of the inbox, the hit list and the bottom of the deque, the one of
highest priority that is at least its own. -/
def Core.bestOther (c : Core) (prio : Nat) : Option (Source × Nat) :=
  let hit := ((c.hits.findIdx? fun r => decide (prio ≤ r.prio)).bind fun i => (c.hits[i]?).map fun r => (Source.hit i, r.prio)).toList
  bestOf ((c.inboxBest.toList ++ hit ++ (c.deque.head?.map fun r => (Source.deque 0, r.prio)).toList).filter fun x => decide (prio ≤ x.2))

/-- The head entry of a store buffer is parked on a page that is not present (R122, R168). -/
def Thread.headAbsent (t : Thread) : Bool := t.sbParked && !t.sb.isEmpty

/-- yield (R209). After a wait for its store buffer it looks at its conditions and at the record again (DESIGN CHOICE, log entry 58). -/
def execYield (g : Guard) (d : Reg) : State → Host.Outcome State Fault Refusal := runThread g do
  let _ ← operands [] [d]
  let e ← get
  let k := e.s.core e.core
  let chosen := match k.bestOther e.th.prio with
    | some (src, _) => if !e.th.pinned ∧ k.saved.length < 48 then some src else none
    | none => none
  match chosen with
  | none =>
    write d 0
    return .advance
  | some src =>
    if e.th.headAbsent then
      write d 0
      return .advance
    else
      releaseAt .sys
      write d 1
      if (← get).rowEnd then trap 0x15#8 else pure ()
      let pc ← nextPc
      let l ← enter pc
      let e ← get
      -- A thread in step mode stops when it is restored, the end of its yield (R209, R380).
      let t := { Thread.done e.th pc l (k.cycle + 1) with stopDue := stopAfter e pc }
      modS fun s => ((s.setThread e.core e.slot t).saveThread e.core e.slot).launchFrom e.core e.slot src
      return .gone

def execLend (g : Guard) (on : Bool) : State → Host.Outcome State Fault Refusal := runThread g do
  modTh fun t => { t with lend := on }
  return .advance

/-- pin: at most 12 pinned threads on a core (R211). -/
def execPin (g : Guard) (d : Reg) (on : Bool) : State → Host.Outcome State Fault Refusal := runThread g do
  let e ← get
  let _ ← operands [] [d]
  if on ∧ !e.th.pinned ∧ 12 ≤ (e.s.core e.core).pins then write d 0
  else
    modTh fun t => { t with pinned := on }
    write d 1
  return .advance

/-! ### Calls, replies and messages (R212-R216) -/

/-- callat: a call record in the inbox of another core; the reply comes through the slot's binding (R213). -/
def execCallat (g : Guard) (d a b : Reg) : State → Host.Outcome State Fault Refusal := runThread g do
  unpaired
  let (x, y) ← src2 a b [d]
  match ← coreOf y with
  | none =>
    write d 2
    return .advance
  | some c =>
    let e ← get
    let bind := (e.s.core e.core).bindings.get? e.slot
    match bind with
    | some b => if b.count = 16 ∨ b.tag ≠ e.slot then park .binding true else pure ()
    | none => pure ()
    if (e.s.core c).inboxRoom 1 then pure () else park .inbox true
    let r : TaskRec := { pc := x, args := (List.range 4).map (fun i => (e.th.g[i]?).getD 0), prio := e.th.prio, ctx := (← ctx).1,
                         cv := true, ccore := e.core, cslot := e.slot }
    mapCore c (·.putInbox (.task r))
    mapCore e.core fun k => { k with bindings := Tab.set k.bindings e.slot { tag := e.slot, count := ((bind.map (·.count)).getD 0) + 1 } }
    write d 0
    return .advance

/-- retm: reply to the caller, then end as halt does (R214). A caller whose core the context has left and no forwarding
entry names refuses the reply, a late refusal at the instruction that still stands (R377, R387; DEDUCED, log entry 30). Resumed after a refused decrement, it replies once more (DESIGN CHOICE, log entry 58). -/
def execRetm (g : Guard) (a : Reg) : State → Host.Outcome State Fault Refusal := runThread g do
  let x ← src1 a []
  let e ← get
  if !e.th.cv then trap 0x01#8 else
  modify fun e => { e with ends := true }
  settled
  let (n, _) ← ctx
  let _ ← observe do
    let s := (← get).s
    match s.reach n e.th.ccore with
    | none => throw (.trap { mkStop e 0x20#8 0 with imp := true })
    | some c =>
      if !s.mailRoom c then park .callerMail true else
      both fun s => (s.passed n e.th.ccore).post c { value := x, src := e.core, kind := 0, tag := e.th.cslot }
      return .val 0
  endSelf

/-- A request that counts as outstanding takes the thread's next sequence number (R377). -/
def State.sendCounted (s : State) (core slot : Nat) (seq : BitVec 16) (addr : Word) (msend : Option (Nat × Nat × Word × Nat)) : State :=
  { s with inflight := Tab.set s.inflight s.nextReq { core := core, slot := slot, seq := seq, addr := addr, msend := msend },
           nextReq := s.nextReq + 1 }

/-- msend: a word into SRAM and an increment at its owner core, as one outstanding request (R215). -/
def execMsend (g : Guard) (a b : Reg) (k : BitVec 8) : State → Host.Outcome State Fault Refusal := runThread g do
  unpaired
  let (x, y) ← src2 a b []
  align x 8
  let (_, c) ← ctx
  match region c.tenant x with
  | .sram sl o =>
    match c.ownerOf sl o, c.phys sl o with
    | some owner, some p =>
      let _ ← access x rW
      drained
      outRoom
      let e ← get
      modTh fun t => { t with outst := t.outst + 1, seq := t.seq + 1 }
      modS fun s => s.sendCounted e.core e.slot e.th.seq x (some (owner, p, y, k.toNat))
      return .advance
    | _, _ => trap 0x11#8 x
  | _ => trap 0x11#8 x

/-- The header word of a message (R188). -/
def Msg.header (m : Msg) : Word :=
  fields [(m.status.toNat, 48), (m.seq.toNat, 32), (m.src, 16), (m.kind, 8), (m.tag, 0)]

namespace Exec
/-- The messages for this thread, oldest first. -/
def messages : Exec (List Msg) := do
  let e ← get
  return (e.s.core e.core).mail.filter fun m => m.tag == e.slot

/-- Dequeue the oldest message for this thread into two registers. -/
def dequeue (m : Msg) (d c : Reg) : Exec Unit := do
  let e ← get
  mapCore e.core fun k => { k with mail := k.mail.eraseIdx (k.mail.findIdx fun m => m.tag == e.slot) }
  write d m.value
  write c m.header
end Exec

def execMrecv (g : Guard) (d c : Reg) : State → Host.Outcome State Fault Refusal := runThread g do
  unpaired
  let _ ← operands [] [d, c]
  match ← messages with
  | [] => park .mail
  | m :: _ =>
    dequeue m d c
    return .advance

def execMwait (g : Guard) (d : Reg) : State → Host.Outcome State Fault Refusal := runThread g do
  unpaired
  let _ ← operands [] [d]
  match ← messages with
  | [] => park .mail
  | l =>
    write d (Word.ofNat l.length)
    return .advance

/-- mtry: without a message the registers stay (R216); a port they name must be bound for writing (R19) and gets no word. -/
def execMtry (g : Guard) (d c : Reg) (pd : PReg) : State → Host.Outcome State Fault Refusal := runThread g do
  unpaired
  match ← messages with
  | [] =>
    let _ ← chan true d
    let _ ← chan true c
    writePred pd false
    return .advance
  | m :: _ =>
    let _ ← operands [] [d, c]
    dequeue m d c
    writePred pd true
    return .advance

/-! ### The semaphore file (R217-R220) -/

namespace Exec
def sem (k : BitVec 8) : Exec Sem := do
  let e ← get
  return (e.s.core e.core).sem k.toNat
def setSem (k : BitVec 8) (x : Sem) : Exec Unit := do
  let e ← get
  mapCore e.core fun c => { c with sems := Tab.set c.sems k.toNat x }

/-- ksub and kwait: poison traps with its code, and the wait is counted (R220). -/
def semWait (a : Reg) (k : BitVec 8) (take : Bool) : Exec Next := do
  let x ← src1 a []
  let v ← sem k
  if v.p then trap v.code
  else if x.toNat ≤ v.v then
    if take then setSem k { v with v := v.v - x.toNat } else pure ()
    return .advance
  else park .sem true
end Exec

def execKsig (g : Guard) (a : Reg) (k : BitVec 8) : State → Host.Outcome State Fault Refusal := runThread g do
  let x ← src1 a []
  drained
  setSem k ((← sem k).add x.toNat)
  return .advance
def execKsub (g : Guard) (a : Reg) (k : BitVec 8) : State → Host.Outcome State Fault Refusal := runThread g (semWait a k true)
def execKwait (g : Guard) (a : Reg) (k : BitVec 8) : State → Host.Outcome State Fault Refusal := runThread g (semWait a k false)

/-- The state kset makes of a word (R220). -/
def Sem.ofWord (w : Word) : Sem :=
  let c := w.extractLsb' 40 8
  { v := bits w 31 0, p := w.getLsbD 32, code := if w.getLsbD 32 then (if c = 0#8 then 0x27#8 else c) else 0 }
/-- The state word (R217). -/
def Sem.word (x : Sem) : Word := fields [(x.code.toNat, 40), (x.p.toNat, 32), (x.v, 0)]

def execKset (g : Guard) (a : Reg) (k : BitVec 8) : State → Host.Outcome State Fault Refusal := runThread g do
  let x ← src1 a []
  drained
  setSem k (.ofWord x)
  return .advance
def execKread (g : Guard) (d : Reg) (k : BitVec 8) : State → Host.Outcome State Fault Refusal := runThread g do
  put d (← sem k).word

/-! ### The waiting-task table (R221, R222) -/

/-- ttarm: the entry is reserved before the record is read. -/
def execTtarm (g : Guard) (d a b : Reg) (k : BitVec 8) : State → Host.Outcome State Fault Refusal := runThread g do
  unpaired
  let (x, t) ← src2 a b [d]
  if t = 0 ∨ 2 ^ 32 ≤ t.toNat then
    write d 0xFFFFFFFFFFFFFFFE#64
    return .advance
  else
    let e ← get
    let table := (e.s.core e.core).table
    let mine := table.find? fun p => p.2 == TtEntry.reserved e.slot
    match (mine.map (·.1)) <|> Tab.free table 0 32 with
    | none =>
      write d (BitVec.allOnes 64)
      return .advance
    | some n =>
      both fun s => s.updCore e.core fun c => { c with table := Tab.set c.table n (.reserved e.slot) }
      let r ← readRecord x
      increment r.join
      mapCore e.core fun c => { c with table := Tab.set c.table n (.armed r k.toNat t.toNat) }
      write d (Word.ofNat n)
      return .advance

namespace Exec
/-- The JOIN of the entry that a ttcancel frees, and has freed from here on whatever becomes of its parks; none where the index names
no armed entry (R222). -/
def cancelEntry (i : Nat) : Exec (Option Word) := do
  let e ← get
  match e.th.cancelling.filter (·.1 == e.th.pc), (e.s.core e.core).table.get? i with
  | some (_, join), _ => return some join
  | none, some (.armed r _ _) =>
    ensureNext
    both fun s => s.updCore e.core fun c => { c with table := Tab.erase c.table i }
    modTh fun t => { t with cancelling := some (e.th.pc, r.join) }
    modKeepTh fun t => { t with cancelling := some (e.th.pc, r.join) }
    return some r.join
  | none, _ => return none
end Exec

/-- ttcancel: free an armed entry, and take its record's increment back (R222). The rule speaks of a subtraction that the home refuses;
that a counter whose address or rights check fails counts as refused too, and the entry stays cancelled, is the model's choice
(DESIGN CHOICE, log entry 54). -/
def execTtcancel (g : Guard) (d a : Reg) : State → Host.Outcome State Fault Refusal := runThread g do
  let x ← src1 a [d]
  match ← cancelEntry x.toNat with
  | none => write d 0
  | some join =>
    if join = 0 then write d 1 else
    ensureNext
    match ← untrapped (decrement join) with
    | .val _ => write d 1
    | .err _ => write d 2
  return .advance

/-! ### Pass ports (R223, R224) -/

def execQbind (g : Guard) (d : Port) (mode : PortMode) : State → Host.Outcome State Fault Refusal := runThread g do
  let b : Option Bind := match mode with
    | .unbind => none
    | .read q => some ⟨q.toNat, false⟩
    | .write q => some ⟨q.toNat, true⟩
  modTh fun t => { t with ports := t.ports.setIfInBounds d.toNat b }
  return .advance

def execQstat (g : Guard) (d : Reg) (q : BitVec 4) : State → Host.Outcome State Fault Refusal := runThread g do
  let e ← get
  put d (Word.ofNat ((e.s.core e.core).queues.getD q.toNat []).length)

/-! ### Roaming (R225) -/

/-- What travels with a roaming thread (R31, R225). -/
def Thread.roaming (t : Thread) (pc : Word) : Thread :=
  { pc := pc, g := t.g, pred := t.pred, fpctl := t.fpctl, wlim := t.wlim, tid := t.tid, prio := t.prio, dom := t.dom,
    join := t.join, cv := t.cv, ccore := t.ccore, cslot := t.cslot, depth := t.depth, step := t.step }

def execRoam (g : Guard) (a : Reg) : State → Host.Outcome State Fault Refusal := runThread g do
  unpaired
  let x ← src1 a []
  let (n, c) ← ctx
  let e ← get
  let owner := match region c.tenant x with
    | .sram sl o => c.ownerOf sl o
    | _ => none
  match owner with
  | none => trap 0x11#8 x
  | some o =>
    if e.s.closed n o then trap 0x11#8 x else
    releaseAt .sys
    if ((e.s.core e.core).bindings.get? e.slot).isSome then park .binding else
    if !(e.s.core o).inboxRoom 4 then park .inbox true else
    let pc ← nextPc
    -- A thread in step mode stops where it arrives (R380).
    let t := { e.th.roaming pc with stopDue := stopAfter e pc }
    modS fun s => (s.endThread e.core e.slot).updCore o (·.putInbox (.roamer t))
    return .gone

end Sys2Proof.Machine
end

