-- ==== Sys2Proof/Machine/MatrixInstr.lean ====
section
/-! DEFINITION. The instructions of the matrix engine (10 R292-R296, R302, R303, R313-R322): records, checks, acceptance. -/

namespace Sys2Proof.Machine

open Exec

/-! ### Records (R287-R292) -/

/-- The address lies in the SRAM window (R226). -/
def inWindow (a : Word) : Bool := decide (sramBase ≤ a.toNat) && decide (a.toNat < sramBase + 2 ^ 29)

/-- Sizes and reserved bits every record obeys (R287, R292). -/
def Shape.sound (s : Shape) : Bool :=
  !s.dirty && decide (1 ≤ s.rows) && decide (s.rows ≤ 4096) && decide (1 ≤ s.cols) && decide (s.cols ≤ 4096)

/-- A record of row layout (R288). -/
def Shape.rowOk (s : Shape) : Bool :=
  match mfmt s.fmt with
  | none => false
  | some f =>
    let n := f.sw / 8
    s.sound && !s.pl && !s.win && s.estride != 0 && s.pstride == 0 && inWindow s.base
      && (decide (f.sw < 8) || (s.base.toNat % n == 0 && s.rstride % n == 0))

/-- A record of plane layout (R289). -/
def Shape.planeOk (s : Shape) : Bool :=
  (mfmt s.fmt).isSome && s.sound && s.pl && !s.win && decide (s.cols ≤ 64) && s.estride == 0 && inWindow s.base
    && s.base.toNat % 8 == 0 && s.rstride % 8 == 0 && s.pstride % 8 == 0

/-- A window record (R291). -/
def Shape.windowOk (s : Shape) : Bool :=
  s.sound && s.win && !s.pl && s.rstride == 0 && s.estride == 0 && s.fmt == 0 && s.pstride == 0 && s.scale == 0
    && (s.base &&& ~~~0x3F3F#64) == 0 && decide (bits s.base 5 0 + s.rows ≤ 64) && decide (bits s.base 13 8 + s.cols ≤ 64)

def Shape.window (s : Shape) : Window := ⟨bits s.base 5 0, bits s.base 13 8, s.rows, s.cols⟩

/-- A scale is given exactly for a block-scaled format, and lies in the SRAM window (R292). -/
def Shape.scaleOk (s : Shape) : Bool :=
  if 0x15 ≤ s.fmt ∧ s.fmt ≤ 0x17 then s.scale != 0 && inWindow s.scale else s.scale == 0

/-- The formats an operand of mma, mpack and munpack may have; those of accld and accst (R292). -/
def matrixFmt (n : Nat) : Bool := decide (n ≤ 0x17)
def loadFmt (n : Nat) : Bool := decide (n ≤ 0x14) || (decide (0x18 ≤ n) && decide (n ≤ 0x1A))
def storeFmt (n : Nat) : Bool := loadFmt n && n != 0x0C && n != 0x0D

/-- The conditions on the records in A, B and C of an instruction (R292); `w` is the window record, none for z. -/
def recordsOk (form : MeForm) (a b : Shape) (w : Option Shape) : Bool × Bool × Bool :=
  let fits := fun (rows cols : Nat) => match w with
    | some w => w.windowOk && w.rows == rows && w.cols == cols
    | none => true
  let small := decide (a.rows ≤ 64) && decide (a.cols ≤ 64) && a.scale == 0
  match form with
  | .mma => (a.rowOk && matrixFmt a.fmt && decide (a.rows ≤ 64) && a.scaleOk,
      b.planeOk && matrixFmt b.fmt && b.scaleOk && b.rows == a.cols, fits a.rows b.cols)
  | .accld => (a.rowOk && loadFmt a.fmt && small, true, fits a.rows a.cols)
  | .accst => (a.rowOk && storeFmt a.fmt && small, true, fits a.rows a.cols)
  | .acczero => (true, true, match w with
      | some w => w.windowOk
      | none => true)
  | .mpack => (a.rowOk && matrixFmt a.fmt, b.planeOk && b.fmt == a.fmt && b.rows == a.rows && b.cols == a.cols, true)
  | .munpack => (a.planeOk && matrixFmt a.fmt, b.rowOk && b.fmt == a.fmt && b.rows == a.rows && b.cols == a.cols, true)

/-! ### Spans (R293) -/

def minInt (l : List Int) : Int := l.foldl min (l.headD 0)
def maxInt (l : List Int) : Int := l.foldl max (l.headD 0)

/-- The lowest and the highest byte of an operand; `groups` is its number of scale bytes, 0 without scales (R293). -/
def Shape.span (s : Shape) (groups : Nat) : Int × Int :=
  let f := (mfmt s.fmt).getD ⟨8, 8, .int, 8, 1, .sint⟩
  let b : Int := s.base.toNat
  let ends : List (Int × Int) :=
    if s.pl then
      [(0 : Int), (f.w : Int) - 1].flatMap fun p => [(0 : Int), (s.rows : Int) - 1].map fun k =>
        (b + p * s.pstride + k * s.rstride, b + p * s.pstride + k * s.rstride + 7)
    else [(0 : Int), (s.rows : Int) - 1].map fun r =>
        (b + r * s.rstride, b + r * s.rstride + ((s.cols - 1) * s.estride * f.sw + f.sw - 1 : Nat) / 8)
  let ends := if groups = 0 then ends else ((s.scale.toNat : Int), (s.scale.toNat : Int) + groups - 1) :: ends
  (minInt (ends.map (·.1)), maxInt (ends.map (·.2)))

/-- The scale bytes of an operand along K, for its rows or its columns (R290). -/
def Shape.scales (s : Shape) (k n : Nat) : Nat := if s.scale = 0 then 0 else n * ((k + 31) / 32)

namespace Exec

/-- Check every granule of a span of SRAM: 0x11 beyond the context's slices, then 0x10 (R293). ADDR is
the first byte of the span in the granule that fails (DEDUCED, log entry 25). -/
def spanSram (lo hi : Int) (need : Byte) : Exec Unit := do
  let (_, x) ← ctx
  let core := (← get).core
  let top : Int := sramBase + x.slices.length * 2 ^ 21
  if lo < sramBase then trap 0x11#8 (Word.ofInt lo) else
  if top ≤ hi then trap 0x11#8 (Word.ofInt (max lo top)) else
  let first := lo.toNat / 2 ^ 17
  for i in List.range (hi.toNat / 2 ^ 17 - first + 1) do
    let a := Word.ofNat (max lo.toNat ((first + i) * 2 ^ 17))
    match (← get).s.mapCheck core x a with
    | .error c => trap c a
    | .ok _ =>
      let r ← rights a a
      if r &&& need = need then pure () else trap 0x10#8 a

/-- A record of 32 bytes (R294). -/
def readShape (a : Word) : Exec Shape := do
  let v ← load a 32
  return .ofWords (v.extractLsb' 0 64) (v.extractLsb' 64 64) (v.extractLsb' 128 64) (v.extractLsb' 192 64)

end Exec

/-! ### The job queue (R302, R303) -/

/-- Whether a core may take one of its reserved entries, or a shared one. -/
def Me.ownFree (m : Me) (core : Nat) : Bool := decide ((m.jobs.filter fun j => j.core == core && j.own).length < 2)
def Me.sharedFree (m : Me) : Bool := decide ((m.jobs.filter fun j => !j.own).length < 16)

/-- The entry a thread of a core gets: some true for a reserved one, some false for a shared one; threads that have waited
longer go first (R302). -/
def Me.entryFor (m : Me) (core slot : Nat) : Option Bool :=
  let before := m.waiters.takeWhile (· != (core, slot))
  if m.ownFree core && !(before.any fun w => w.1 == core) then some true
  else if m.sharedFree && before.isEmpty then some false
  else none

/-- The status of a job ID (R303); none for an ID that is not known. A known ID that was never issued stands as pending
(DEDUCED, log entry 17). -/
def Core.jobStatus (c : Core) (id : BitVec 16) : Option Word :=
  let age := (c.jc - id).toNat
  if 1 ≤ age ∧ age ≤ 64 then some ((c.jobs.lookup id).getD (fields [(id.toNat, 48)])) else none

/-- The status of a job with its flags and fault (R303). -/
def statusWord (id : BitVec 16) (fault : Byte) (done : Bool) (f : JFlags) : Word :=
  fields [(id.toNat, 48), (fault.toNat, 40), (done.toNat, 31), (f.iop.toNat, 6), (f.sat.toNat, 5), (f.nv.toNat, 4),
    (f.ovf.toNat, 3), (f.uf.toNat, 2), (f.nx.toNat, 1)]

/-- A gated engine begins to wake, for a context (R310). -/
def Me.beginWake (m : Me) (n : Nat) : Me := if m.gated && !m.waking then { m with waking := true, wakeFor := some n } else m

/-- Accept a job: its ID is JC, and its status is pending (R303, R315). A gated engine begins to wake (R310). -/
def State.acceptJob (s : State) (j : Job) : State :=
  let s := s.updCore j.core fun c => { c with jc := c.jc + 1, jobs := ((j.id, statusWord j.id 0 false {}) :: c.jobs).take 64 }
  s.updMe (clusterOf j.core) fun m =>
    { m.beginWake j.ctx with jobs := m.jobs ++ [j], waiters := m.waiters.filter (· != (j.core, j.slot)) }

/-! ### The common part (R315) -/

/-- What an instruction gives its job. -/
structure JobArgs where
  form : MeForm
  tile : Nat := 0
  a : Option Word := none
  b : Option Word := none
  c : Option Word := none
  na : Bool := false
  nb : Bool := false
  ad : Bool := false
  int : Bool := false
  rm : BitVec 2 := 0
  scale : Word := 0
  td : Td

def nullShape : Shape := .ofWords 0 0 0 0

/-- The spans an instruction checks, in field order, with the right each needs (R293). -/
def jobSpans (form : MeForm) (a b : Shape) : List ((Int × Int) × Byte) :=
  match form with
  | .mma => [(a.span (a.scales a.cols a.rows), rR), (b.span (b.scales b.rows b.cols), rR)]
  | .accld => [(a.span 0, rR)]
  | .accst => [(a.span 0, rW)]
  | .acczero => []
  | .mpack | .munpack => [(a.span 0, rR), (b.span 0, rW)]

/-- The window of a job: the record's, or the size its instruction's entry gives (R316-R319). -/
def jobWindow (form : MeForm) (a b : Shape) (w : Option Shape) : Window :=
  match w with
  | some w => w.window
  | none => match form with
    | .mma => ⟨0, 0, a.rows, b.cols⟩
    | .acczero => ⟨0, 0, 64, 64⟩
    | _ => ⟨0, 0, a.rows, a.cols⟩

namespace Exec

/-- Check the records by R294, and make the job that would be accepted. -/
def buildJob (x : JobArgs) (asy : Bool) : Exec Job := do
  let a ← match x.a with
    | some p => readShape p
    | none => pure nullShape
  let b ← match x.b with
    | some p => readShape p
    | none => pure nullShape
  let w ← match x.c with
    | some p => do pure (some (← readShape p))
    | none => pure none
  let ok := recordsOk x.form a b w
  if !ok.1 then trap 0x40#8 (x.a.getD 0) else
  if !ok.2.1 then trap 0x40#8 (x.b.getD 0) else
  if !ok.2.2 then trap 0x40#8 (x.c.getD 0) else
  let e ← get
  let m := (e.s.cluster (clusterOf e.core)).me
  let usesTile := x.form != .mpack && x.form != .munpack
  if usesTile ∧ m.owner.get? x.tile ≠ some e.core then trap 0x41#8 else
  for (sp, need) in jobSpans x.form a b do spanSram sp.1 sp.2 need
  return { form := x.form, core := e.core, slot := e.slot, ctx := e.s.ctxOf e.core, id := (e.s.core e.core).jc, pc := e.th.pc,
           asy := asy, tile := x.tile, a := a, b := b, win := jobWindow x.form a b w, na := x.na, nb := x.nb, ad := x.ad,
           int := x.int, rm := x.rm, scale := x.scale, td := x.td, own := true,
           twin := e.th.twin }

/-- Wait for an entry of the queue, in the order of arrival (R302). -/
def takeEntry : Exec Bool := do
  let e ← get
  match (e.s.cluster (clusterOf e.core)).me.entryFor e.core e.slot with
  | some own => return own
  | none =>
    modKeep fun s => s.updMe (clusterOf e.core) fun m =>
      if m.waiters.contains (e.core, e.slot) then m else { m with waiters := m.waiters ++ [(e.core, e.slot)] }
    park .meQueue

/-- Wait for a job that a blocking form has had accepted: D gets its ID, or its fault traps (R315). -/
def jobWait (d : Reg) (id : BitVec 16) (tile : Nat) : Exec Next := do
  let e ← get
  -- A saved thread keeps the status of its job with it (R312).
  let status := match e.th.replies[0]? with
    | some (.val v) => some (v.setWidth 64)
    | _ => (e.s.core e.core).jobStatus id
  match status with
  | none =>
    write d (id.zeroExtend 64)
    return .advance
  | some st =>
    if !st.getLsbD 31 then park (.job id.toNat)
    else
      let fault : Byte := st.extractLsb' 40 8
      if fault ≠ 0 then
        throw (.trap { mkStop e fault (id.zeroExtend 64) with jobid := id, junit := 1, jstate := 3, tile := tile, ecode := fault })
      else
        write d (id.zeroExtend 64)
        return .advance

/-- The common part of every job-creating instruction (R315). A blocking form keeps the ID of its job while it waits. -/
def jobForm (d : Reg) (asy : Bool) (args : JobArgs) : Exec Next := do
  match (← get).th.heldEntry with
  | some id => jobWait d (BitVec.ofNat 16 id) args.tile
  | none =>
    let j ← buildJob args asy
    drained
    let own ← takeEntry
    if asy then
      modS fun s => s.acceptJob { j with own := own }
      modify fun e => { e with job := (1, j.tile, j.id) }
      write d (j.id.zeroExtend 64)
      return .advance
    else
      ensureNext
      both fun s => s.acceptJob { j with own := own }
      modKeepTh fun t => { t with heldEntry := some j.id.toNat }
      modify fun e => { e with log := [], th := { e.th with replies := [] } }
      jobWait d j.id args.tile

/-- The value of a field, none for z where z means the whole window (R313). -/
def windowField (c : Reg) (v : Word) : Option Word := if c = .z then none else some v

end Exec

def execMma (g : Guard) (d a b c : Reg) (asy ad nb na : Bool) (tile : BitVec 4) (td : Td) : State → Host.Outcome State Fault Refusal :=
  runThread g do
    let (x, y, z) ← src3 a b c [d]
    jobForm d asy { form := .mma, tile := tile.toNat, a := some x, b := some y, c := windowField c z, na := na, nb := nb, ad := ad, td := td }

def execAccld (g : Guard) (d a c : Reg) (asy : Bool) (tile : BitVec 4) (td : Td) : State → Host.Outcome State Fault Refusal :=
  runThread g do
    let (x, z) ← src2 a c [d]
    jobForm d asy { form := .accld, tile := tile.toNat, a := some x, c := windowField c z, td := td }

def execAccst (g : Guard) (d a b c : Reg) (asy int : Bool) (rm : BitVec 2) (tile : BitVec 4) (td : Td) : State → Host.Outcome State Fault Refusal :=
  runThread g do
    let (x, y, z) ← src3 a b c [d]
    jobForm d asy { form := .accst, tile := tile.toNat, a := some x, c := windowField c z, int := int, rm := rm, scale := y, td := td }

def execAcczero (g : Guard) (d c : Reg) (asy : Bool) (tile : BitVec 4) (td : Td) : State → Host.Outcome State Fault Refusal :=
  runThread g do
    let z ← src1 c [d]
    jobForm d asy { form := .acczero, tile := tile.toNat, c := windowField c z, td := td }

def execMpack (g : Guard) (d a b : Reg) (asy : Bool) (td : Td) : State → Host.Outcome State Fault Refusal :=
  runThread g do
    let (x, y) ← src2 a b [d]
    jobForm d asy { form := .mpack, a := some x, b := some y, td := td }

def execMunpack (g : Guard) (d a b : Reg) (asy : Bool) (td : Td) : State → Host.Outcome State Fault Refusal :=
  runThread g do
    let (x, y) ← src2 a b [d]
    jobForm d asy { form := .munpack, a := some x, b := some y, td := td }

/-! ### Job status (R321, R322) -/

/-- What mwaitj and mpoll read of an ID that is not known (R321). -/
def goneStatus (id : BitVec 16) : Word := fields [(id.toNat, 48), (1, 32), (1, 31)]

/-- mwaitj: wait until the job has completed (R321). -/
def execMwaitj (g : Guard) (d a : Reg) : State → Host.Outcome State Fault Refusal := runThread g do
  let x ← src1 a [d]
  let id : BitVec 16 := x.setWidth 16
  let e ← get
  match (e.s.core e.core).jobStatus id with
  | none => write d (goneStatus id)
  | some st => if st.getLsbD 31 then write d st else park (.job id.toNat)
  return .advance

def execMpoll (g : Guard) (d a : Reg) : State → Host.Outcome State Fault Refusal := runThread g do
  let x ← src1 a [d]
  let id : BitVec 16 := x.setWidth 16
  let e ← get
  write d (((e.s.core e.core).jobStatus id).getD (goneStatus id))
  return .advance

/-- mwake: a gated engine begins to wake, another restarts its idle count (R310, R322). -/
def execMwake (g : Guard) : State → Host.Outcome State Fault Refusal := runThread g do
  let e ← get
  modS fun s => s.updMe (clusterOf e.core) fun m => { m.beginWake (s.ctxOf e.core) with idleSince := s.time }
  return .advance

end Sys2Proof.Machine
end

