-- ==== Sys2Proof/Machine/CopyInstr.lean ====
section
/-! DEFINITION. The instructions of the copy engine (11 R323-R329, R333-R335, R340): descriptors, checks, requests. -/

namespace Sys2Proof.Machine

open Exec

/-! ### Geometry (R326-R328) -/

/-- The forms of R340 with what their Y fields give. -/
inductive CopyShape where
  | cpy (dim : Dim)
  | mc (msk : BitVec 8) (dim : Dim)
  | lb (inv : Bool) (ch : BitVec 2)
  | ring (dim : Dim)

def CopyShape.dim : CopyShape → Dim
  | .cpy d => d
  | .mc _ d => d
  | .lb _ _ => .d2
  | .ring d => d

def CopyShape.form : CopyShape → CpyForm
  | .cpy _ => .cpy
  | .mc _ _ => .mc
  | .lb _ _ => .lb
  | .ring _ => .ring

/-- A copy descriptor (R326). -/
structure CopyDesc where
  len : Nat
  n1 : Nat := 1
  n2 : Nat := 1
  ss1 : Int := 0
  ss2 : Int := 0
  ds1 : Int := 0
  ds2 : Int := 0
  ssem : Nat := 0
  ac : Bool := false
  score : Nat := 0
  rstart : Nat := 0
  rlog : Nat := 0
  /-- A reserved bit is set. -/
  dirty : Bool := false

def CopyDesc.ofBytes (v : Vec) : CopyDesc :=
  let w := fun i => v.extractLsb' (64 * i) 64
  let half := fun i hi lo => sintOf 32 (bits (w i) hi lo)
  { len := bits (w 0) 31 0, n1 := bits (w 0) 47 32, n2 := bits (w 0) 63 48,
    ss1 := half 1 31 0, ss2 := half 1 63 32, ds1 := half 2 31 0, ds2 := half 2 63 32,
    ssem := bits (w 3) 47 40, ac := (w 3).getLsbD 39, score := bits (w 3) 34 32, rstart := bits (w 3) 31 8,
    rlog := bits (w 3) 4 0, dirty := bits (w 3) 63 48 != 0 || bits (w 3) 38 35 != 0 || bits (w 3) 7 5 != 0 }

/-- The bytes of the stream (R327). -/
def CopyDesc.total (d : CopyDesc) : Nat := d.len * d.n1 * d.n2

/-- The first byte of each row, the rows of a plane first (R327); positions are integers, reduced where they are used. -/
def rowStarts (base : Int) (s1 s2 : Int) (n1 n2 : Nat) : List Int :=
  (List.range n2).flatMap fun (p : Nat) => (List.range n1).map fun (r : Nat) => base + (p : Int) * s2 + (r : Int) * s1

/-- The lowest and the highest offset of rows at given strides. -/
def CopyDesc.reach (d : CopyDesc) (base : Int) (s1 s2 : Int) : Int × Int :=
  let corners : List Int := [(0 : Int), (d.n2 : Int) - 1].flatMap fun p => [(0 : Int), (d.n1 : Int) - 1].map fun r => base + p * s2 + r * s1
  (minInt corners, maxInt corners + d.len - 1)

/-- The geometry of R328; `a` is src(A). -/
def CopyDesc.ok (d : CopyDesc) (f : CopyShape) (a : Word) : Bool :=
  let one := match f.dim with
    | .d1 => true
    | _ => false
  let flat := match f.dim with
    | .d2 => d.n2 == 1
    | _ => true
  let m8 := fun (x : Int) => x % 8 == 0
  let common := !d.dirty && d.len % 8 == 0 && decide (8 ≤ d.len) && decide (d.len ≤ (if one then 2 ^ 32 else 2 ^ 24))
    && d.n1 != 0 && d.n2 != 0 && flat && m8 d.ss1 && m8 d.ss2 && m8 d.ds1 && m8 d.ds2 && decide (d.total ≤ 2 ^ 32)
  let plain := d.rlog == 0 && d.rstart == 0
  let counts := !d.ac || (d.total % 256 == 0 && inWindow a)
  common && match f with
    | .cpy _ => counts && plain
    | .mc _ _ =>
      let r := d.reach a.toNat d.ds1 d.ds2
      (!d.ac || d.total % 256 == 0) && plain && d.score == 0 && decide (0 ≤ r.1) && decide (r.2 ≤ 0x7FFFF)
    | .lb _ _ => counts && plain && decide (d.len ≤ 16384)
    | .ring _ => counts && d.ac && decide (12 ≤ d.rlog) && decide (d.rlog ≤ 20) && decide (d.total ≤ 2 ^ d.rlog)
        && decide (d.rstart < 2 ^ (d.rlog - 8)) && d.ds1 == 0 && d.ds2 == 0

/-! ### Spans (R329, R334) -/

/-- The runs of bytes a ring writes (R327, R333). -/
def ringRuns (base : Nat) (start size total : Nat) : List (Int × Nat) :=
  if start + total ≤ size then [((base + start : Nat), total)]
  else [((base + start : Nat), size - start), ((base : Nat), total - (size - start))]

/-- The physical slice, and the offset in it, of a byte offset in the scratchpad of a core (R334). -/
def scratchpad (core off : Nat) : Nat × Nat := (quadOf core, core % 4 * 0x80000 + off)

namespace Exec

/-- Check a span, given as runs of bytes (R329): rows of R226, then of an SRAM span slice count and rights by granule. -/
def spanRuns (runs : List (Int × Nat)) (need : Byte) : Exec Unit := do
  let row := spanRow (Word.ofInt (runs.headD (0, 1)).1)
  for r in runs do
    let lo := Word.ofInt r.1
    let hi := Word.ofInt (r.1 + r.2 - 1)
    if (spanRow lo).isNone ∨ spanRow lo ≠ row then trap 0x11#8 lo
    else if spanRow hi ≠ row ∨ hi.toNat < lo.toNat then trap 0x11#8 lo
    else pure ()
  if row = some 3 then
    let (_, x) ← ctx
    let top := sramBase + x.slices.length * 2 ^ 21
    for r in runs do
      let lo := (Word.ofInt r.1).toNat
      if lo + r.2 ≤ top then pure () else trap 0x11#8 (Word.ofNat (max lo top))
    for r in runs do
      let lo := (Word.ofInt r.1).toNat
      spanSram lo (lo + r.2 - 1) need
  else pure ()

/-- The destination spans of cpy.mc: for each target, its slice in the context's map, then the rights (R334). -/
def spanTargets (targets : List Nat) (runs : List (Int × Nat)) : Exec Unit := do
  let (_, x) ← ctx
  for c in targets do
    match x.slices.idxOf? (quadOf c) with
    | none => trap 0x11#8
    | some i => spanRuns (runs.map fun r => ((sramBase + i * 2 ^ 21 + (scratchpad c 0).2 : Nat) + r.1, r.2)) rW

/-- A core that counts arrivals must be a core of the context, not of the plinth, and not fenced (R329). -/
def countingCores (l : List Nat) : Exec Unit := do
  let e ← get
  if l.all fun c => !e.s.closed (e.s.ctxOf e.core) c then pure () else trap 0x11#8

/-- Put a copy into a mailbox register: it parks while all four are full; its ID is the core's CN (R323, R324). A paired
thread's command waits for its twin's (R409). -/
def postCopy (c : Copy) : Exec Word := do
  let e ← get
  let id ← match e.th.twin with
    | some _ => do
      let v ← answer (← observe do
        ensureNext
        toPair (.copy c)) 0
      pure (v.setWidth 16)
    | none => do
      let k := e.s.core e.core
      if 4 ≤ k.copyRegs.length then park .copyReg else
      updCore fun k => { k with copyRegs := k.copyRegs ++ [{ c with id := k.cn }], cn := k.cn + 1 }
      pure k.cn
  modify fun e => { e with job := (2, 0, id) }
  return id.zeroExtend 64

/-- The hand-over of a copy, whose ID the instruction writes (R323). -/
def mailbox (d : Reg) (c : Copy) : Exec Next := do
  drained
  write d (← postCopy c)
  return .advance

/-- The issue of a copy (R329, R323). -/
def copyForm (d a b c : Reg) (f : CopyShape) (quiet : Bool) (td : Td) : Exec Next := do
  let (x, y, z) ← src3 a b c [d]
  let q ← match f.dim with
    | .d1 => pure ({ len := z.toNat } : CopyDesc)
    | _ => do pure (CopyDesc.ofBytes (← load z 32))
  if !q.ok f x then trap 0x40#8 (match f.dim with | .d1 => 0 | _ => z) else
  (match f with
    | .ring _ => align x (2 ^ q.rlog)
    | _ => align x 8)
  align y 8
  spanRuns ((rowStarts y.toNat q.ss1 q.ss2 q.n1 q.n2).map fun r => (r, q.len)) rR
  let e ← get
  let first := 8 * clusterOf e.core
  let dest := (rowStarts x.toNat q.ds1 q.ds2 q.n1 q.n2).map fun r => (r, q.len)
  let targets ← match f with
    | .mc msk _ => do
      let l := ((List.range 8).filter fun i => msk.getLsbD i).map fun i => first + i
      spanTargets l dest
      pure l
    | .ring _ => do
      spanRuns (ringRuns x.toNat (256 * q.rstart) (2 ^ q.rlog) q.total) rW
      pure [first + q.score]
    | _ => do
      spanRuns dest rW
      pure [first + q.score]
  if q.ac then countingCores targets else pure ()
  let (inv, ch) := match f with
    | .lb inv ch => (inv, ch.toNat)
    | _ => (false, 0)
  mailbox d
    { form := f.form, core := e.core, ctx := e.s.ctxOf e.core, slot := e.slot, tag := e.slot, id := 0, pc := e.th.pc, dst := x,
      src := y, len := q.len, n1 := q.n1, n2 := q.n2, ss1 := q.ss1, ss2 := q.ss2, ds1 := q.ds1, ds2 := q.ds2, ac := q.ac,
      ssem := q.ssem, scount := first + q.score, rstart := q.rstart, rlog := q.rlog, quiet := quiet, inv := inv, ch := ch,
      td := td, progress := targets.map fun t => { target := t } }

end Exec

def execCpy (g : Guard) (d a b c : Reg) (quiet : Bool) (dim : Dim) (td : Td) : State → Host.Outcome State Fault Refusal :=
  runThread g (copyForm d a b c (.cpy dim) quiet td)

def execCpyMc (g : Guard) (d a b c : Reg) (msk : BitVec 8) (quiet : Bool) (dim : Dim) (td : Td) :
    State → Host.Outcome State Fault Refusal := runThread g (copyForm d a b c (.mc msk dim) quiet td)

def execCpyLb (g : Guard) (d a b c : Reg) (quiet inv : Bool) (ch : BitVec 2) (td : Td) :
    State → Host.Outcome State Fault Refusal := runThread g (copyForm d a b c (.lb inv ch) quiet td)

def execCpyRing (g : Guard) (d a b c : Reg) (quiet : Bool) (dim : Dim) (td : Td) :
    State → Host.Outcome State Fault Refusal := runThread g (copyForm d a b c (.ring dim) quiet td)

end Sys2Proof.Machine
end

