-- ==== Sys2Proof/Machine/KseInstr.lean ====
section
/-! DEFINITION. The instructions of the key store engine (11 R348-R357): checks, hand-over, kgather, kfence, kstat. -/

namespace Sys2Proof.Machine

open Exec

/-- The outcome of a kgather as its thread receives it: the count or the fault's address, the fault code, and the reason
of a dense fallback (R354, R376). -/
def gatherReply (count : Nat) : Reply := .val (BitVec.ofNat 512 count)
def gatherFault (code : Byte) (addr : Word) (reason : Nat) : Reply :=
  .val (BitVec.ofNat 512 (addr.toNat + 2 ^ 64 * code.toNat + 2 ^ 72 * reason))

namespace Exec

/-- An operand: its address, alignment, the bytes checked at issue, and the right they need (R350). -/
abbrev KseOperand := Word × Nat × Nat × Byte

/-- The checks at issue (R350): alignment, then the rows of the address map, a `result` span in the SRAM window among them, then
the SRAM spans. -/
def kseChecks (l : List KseOperand) (result : Option Word := none) : Exec Unit := do
  for (a, al, _, _) in l do align a al
  for (a, _, n, _) in l do
    if (spanRow a).isNone then trap 0x11#8 a
    else if spanRow (a + Word.ofNat (n - 1)) ≠ spanRow a then trap 0x11#8 (a + Word.ofNat (n - 1)) else pure ()
  match result with
  | some z => if inWindow z then pure () else trap 0x11#8 z
  | none => pure ()
  for (a, _, n, need) in l do
    if spanRow a = some 3 ∧ n ≠ 0 then spanSram a.toNat (a.toNat + n - 1) need else pure ()

/-- The bytes of a projection record: 32, and 32 for each of its B rows (R342). In translated memory B is read only where the
row of the last byte depends on it. -/
def recordSpan (a : Word) : Exec Nat := do
  align a 32
  let e ← get
  let (_, x) ← ctx
  let size := fun (w : Word) => 32 + 32 * min 16 (bits w 20 16)
  match region x.tenant a with
  | .sram c o => match x.phys c o with
    | some p => return size (e.s.word p)
    | none => return 32
  | .paged p =>
    if spanRow (a + 543) = spanRow a then return 32 else
    match ← ask p (.read 8) with
    | .val v => return size (v.setWidth 64)
    | .err _ => return 32
  | _ => return 32

/-- A TD wait that is passed once (R349). -/
def tdPass (td : Td) : Exec Unit := do
  let _ ← observe do
    tdWait td
    return .val 0

/-- Room for a command: each core holds 4 (R348). -/
def kseRoom : Exec Unit := do
  let e ← get
  if ((e.s.cluster (clusterOf e.core)).kse.queue.filter fun k => k.core == e.core).length < 4 then pure () else park .kseQueue

/-- A command of this thread. -/
def kseCmd (form : KseForm) (a b c : Word) (ent : BitVec 5) (td : Td) : Exec KseCmd := do
  let e ← get
  return { form := form, core := e.core, slot := e.slot, ctx := e.s.ctxOf e.core, tag := e.slot, pc := e.th.pc, a := a, b := b,
           c := c, entry := ent.toNat, td := td }

/-- Hand a command to the KSE (R349); a paired thread's waits for its twin's (R409). Its instruction has first parked until the store
buffer is empty, before it checks its operands (R348). -/
def handOver (k : KseCmd) : Exec Next := do
  let e ← get
  match e.th.twin with
  | some _ =>
    let _ ← observe do
      ensureNext
      toPair (.kse k)
  | none =>
    kseRoom
    modS fun s => s.updKse (clusterOf e.core) fun q => { q with queue := q.queue ++ [k] }
  modify fun e => { e with job := (3, 0, e.th.pc.setWidth 16) }
  match k.form with
  | .ksproj => pure ()
  | _ => modTh fun t => { t with pend := t.pend + 1 }
  return .advance

end Exec

def execKsproj (g : Guard) (a : Reg) (ent : BitVec 5) (td : Td) : State → Host.Outcome State Fault Refusal := runThread g do
  let x ← src1 a []
  drained
  kseChecks [(x, 32, ← recordSpan x, rR)]
  handOver (← kseCmd .ksproj x 0 0 ent td)

def execKstore (g : Guard) (a b c : Reg) (ent : BitVec 5) (td : Td) : State → Host.Outcome State Fault Refusal := runThread g do
  let (x, y, z) ← src3 a b c []
  drained
  kseChecks [(x, 64, 1, rR), (y, 64, 64, rR ||| rW)]
  handOver (← kseCmd .kstore x y z ent td)

def execKbuild (g : Guard) (a : Reg) (ent : BitVec 5) (td : Td) : State → Host.Outcome State Fault Refusal := runThread g do
  let x ← src1 a []
  drained
  kseChecks [(x, 64, 64, rR ||| rW)]
  handOver (← kseCmd .kbuild x 0 0 ent td)

/-- kgather (R354): D is read as the cap, and written with the count. -/
def execKgather (g : Guard) (d a b c : Reg) (qv : Bool) (rad : BitVec 2) (ent : BitVec 5) (td : Td) :
    State → Host.Outcome State Fault Refusal := runThread g do
  let l ← operands [a, b, c, d] [d]
  let x := l.headD 0
  let y := (l.drop 1).headD 0
  let z := (l.drop 2).headD 0
  let cap := min ((l.drop 3).headD 0).toNat 8192
  drained
  let e ← get
  if e.th.replies.isEmpty then
    kseChecks ([(x, 64, 64, rR)] ++ (if qv then [(y, 64, 1, rR)] else []) ++ [(z, 4, 4 * cap, rW)]) (some z)
  else pure ()
  tdPass td
  let r ← observe do
    ensureNext
    let k ← kseCmd (.kgather qv rad.toNat cap) x y z ent td
    match e.th.twin with
    | some _ => toPair (.kse k)
    | none =>
      kseRoom
      modKeep fun s => s.updKse (clusterOf e.core) fun q => { q with queue := q.queue ++ [k] }
      park .kse
  match r with
  | .err code => trap code x
  | .val v =>
    let code : Byte := v.extractLsb' 64 8
    if code ≠ 0 then
      throw (.trap { mkStop (← get) code (v.setWidth 64) with seq := v.extractLsb' 72 16 })
    else
      tdSignal td
      write d (v.setWidth 64)
      return .advance

/-- kfence: park until PEND is zero (R355). -/
def execKfence (g : Guard) (td : Td) : State → Host.Outcome State Fault Refusal := runThread g do
  drained
  tdPass td
  if (← get).th.pend = 0 then pure () else park .kfence
  tdSignal td
  return .advance

/-- kstat: the status word (R356). -/
def execKstat (g : Guard) (d : Reg) (td : Td) : State → Host.Outcome State Fault Refusal := runThread g do
  let _ ← operands [] [d]
  tdWait td
  let e ← get
  let k := e.s.core e.core
  tdSignal td
  write d (fields [(k.lastfb, 40), (k.satn, 16), (min e.th.pend 65535, 0)])
  return .advance

end Sys2Proof.Machine
end

