-- ==== Sys2Proof/Machine/MoveOps.lean ====
section
/-! DEFINITION. The state that moves with a context (13 R383-R386): taking it off its cores, putting it on others, the
images of its slices, the renaming of KV pages, and owners of quarters (06 R190). -/

namespace Sys2Proof.Machine

/-- The tiles a core owns. -/
def State.tilesOf (s : State) (core : Nat) : List Nat :=
  ((s.cluster (clusterOf core)).me.owner.filter fun p => p.2 == core).map (·.1)

/-- A cluster's units may receive a context. -/
def State.clusterFit (s : State) (k : Nat) : Bool :=
  let c := s.cluster k
  !c.me.fenced && !c.ce.fenced && !c.kse.fenced

/-- The owner map when slices enter a context (R190): quarter j of quad slice q goes to core 4q + j of the context. -/
def Ctx.entering (x : Ctx) : Tab Nat :=
  (List.range x.slices.length).foldl (fun (t : Tab Nat) c =>
    let q := (x.slices[c]?).getD 132
    if q < 132 then (List.range 4).foldl (fun t j => if x.cores.contains (4 * q + j) then Tab.set t (4 * c + j) (4 * q + j) else t) t
    else t) []

/-- A core that joins the context later takes the quarters of its own quad's slice that have no owner (R190). -/
def Ctx.joining (x : Ctx) (core : Nat) : Ctx :=
  match x.slices.idxOf? (quadOf core) with
  | some c => { x with owners := (List.range 4).foldl (fun (t : Tab Nat) j =>
      if (t.get? (4 * c + j)).isSome then t else Tab.set t (4 * c + j) core) x.owners }
  | none => x

/-! ### Cores -/

/-- A core after its context has left it: what belongs to the hardware stays, with a forwarding entry where there is one. -/
def Core.vacated (k : Core) (forward : List (Nat × Nat × Word)) : Core :=
  { cycle := k.cycle, discarded := k.discarded, fenced := k.fenced, gated := k.gated, forwards := k.forwards ++ forward }

/-- A thread on its new core: a park that is not counted is over, and its instruction reissues; at migpt it stands until RESUME.
The move is an acquire at .sys (R386, R389-R391). -/
def Thread.moved (t : Thread) (cycle : Nat) : Thread :=
  match t.run with
  | .trapped _ _ | .stopped _ _ | .parked (.migpt _) _ _ => { t.noAhead with readyAt := cycle, since := cycle }
  | .parked (.job _) _ _ => { t.forSave with readyAt := cycle, since := cycle }
  | _ => { t.forSave.restored cycle with readyAt := cycle }

/-- A core's state on the core that receives it (R384): the PLB and the line buffers refill. -/
def Core.placed (k d : Core) (n : Nat) : Core :=
  { k with
    ctx := some n, cycle := d.cycle, fenced := d.fenced, discarded := d.discarded, gated := d.gated, forwards := d.forwards,
    held := false, plb := [], ilb := [], sfuLast := none, sfuFifo := [], backoff := none, evicting := none, evictWhy := .power, lendPtr := 14,
    slots := Tab.mapV k.slots (fun _ t => t.moved d.cycle),
    westWay := k.westWay.map (fun p => (p.1, d.cycle)), eastWay := k.eastWay.map (fun p => (p.1, d.cycle)) }

/-! ### Leaving and arriving (R384, R385) -/

/-- Take the cores of a context off their place, with all that R384 names and what their clusters hold for the context. -/
def State.detach (s : State) (n : Nat) (cores : List Nat) : Image × State :=
  let on := fun (c : Nat) => cores.contains c
  let clusters := (cores.map clusterOf).eraseDups
  let tiles := cores.flatMap fun c => (s.tilesOf c).map fun t =>
    let m := (s.cluster (clusterOf c)).me
    (c, t, m.tiles.getD t [], m.latch.get? t)
  let image : Image :=
    { place := cores, cores := cores.map s.core, tiles := tiles,
      banks := clusters.map (fun k =>
        let q := (s.cluster k).kse
        (k, Tab.filterV q.bank (fun _ b => b.ctx == n), q.used.get? n)),
      jobs := clusters.flatMap (fun k => (s.cluster k).me.jobs.filter fun j => on j.core),
      copies := clusters.flatMap (fun k => (s.cluster k).ce.copies.filter fun j => on j.core),
      cmds := clusters.flatMap (fun k => (s.cluster k).kse.queue.filter fun j => on j.core) }
  let strip := fun (k : Nat) (u : Cluster) => if !clusters.contains k then u else
    let mine := (tiles.filter fun p => clusterOf p.1 == k).map (·.2.1)
    ({ me := { u.me with owner := Tab.filterV u.me.owner (fun _ c => !on c),
                         tiles := Tab.filterV u.me.tiles (fun t _ => !mine.contains t),
                         latch := Tab.filterV u.me.latch (fun t _ => !mine.contains t),
                         jobs := (u.me.keepJobs s.time fun j => !on j.core).jobs,
                         idleSince := (u.me.keepJobs s.time fun j => !on j.core).idleSince,
                         waiters := u.me.waiters.filter (fun w => !on w.1) }
       ce := { u.ce with copies := u.ce.copies.filter (fun c => !on c.core), bufs := [] }
       kse := { u.kse with queue := u.kse.queue.filter (fun c => !on c.core), bank := Tab.filterV u.kse.bank (fun _ b => b.ctx != n),
                           used := Tab.erase u.kse.used n } } : Cluster)
  let s : State := { s with clusters := Tab.mapV s.clusters strip, lz := Tab.filterV s.lz (fun i _ => !on (i / 16)) }
  (image, cores.foldl (fun s c => (s.updCore c (·.vacated [])).cutLinks c) s)

/-- A copy on the cores of another cluster: its core, its counting core and its targets keep their positions (R332, R334,
R385). -/
def Copy.renamed (f : Nat → Nat) (c : Copy) : Copy :=
  let g := fun (t : Nat) => 8 * clusterOf (f c.core) + t % 8
  { c with
    core := f c.core, scount := g c.scount
    progress := match c.form with
      | .lz | .card => c.progress
      | _ => c.progress.map fun p => { p with target := g p.target } }

def Sender.mapCore (f : Nat → Nat) : Sender → Sender
  | .thread c k => .thread (f c) k
  | .fetch c k => .fetch (f c) k
  | .store c k q => .store (f c) k q
  | .copy k c i => .copy k (f c) i
  | x => x

/-- Rename the core numbers of a context in what names them: twins, reserved inbox entries, requests, records. No message and no
counted request of it is under way (R260, R386), and what belongs to other contexts keeps its numbers. -/
def State.rename (s : State) (n : Nat) (f : Nat → Nat) : State :=
  let item := fun (i : InboxItem) => match i with
    | .reserved c k => InboxItem.reserved (f c) k
    | i => i
  let x := (s.ctx n).getD {}
  { s with
    cores := Tab.mapV s.cores (fun _ k => if k.ctx ≠ some n then k else { k with
      slots := Tab.mapV k.slots (fun _ t => { t with twin := t.twin.map fun w => (f w.1, w.2) }),
      inbox := k.inbox.map item })
    reqs := Tab.mapV s.reqs (fun _ r => if r.ctx = n then { r with src := r.src.mapCore f } else r)
    ctxs := Tab.set s.ctxs n { x with
      recs := Tab.mapV x.recs (fun _ r => { r with core := f r.core })
      waiting := x.waiting.map (fun p => (f p.1, p.2))
      notices := x.notices.map (fun p => (f p.1, p.2)) } }

/-- The clusters of an image after a move. -/
def clusterMap (f : Nat → Nat) (i : Image) (k : Nat) : Nat :=
  match i.place.find? fun c => clusterOf c == k with
  | some c => clusterOf (f c)
  | none => k

/-- Rewrite the LINKER of a page header or the OWNER of a pool (R343, R347, R385). -/
def State.renamePage (s : State) (x : Ctx) (new : Nat) (a : Word) : State :=
  let base := a &&& ~~~1#64
  match s.diePhys x (base + 8) with
  | some p =>
    let w := s.word p
    let w := if a.getLsbD 0 then (w &&& ~~~(0x7F#64 <<< 32)) ||| (Word.ofNat new <<< 32) else (w &&& ~~~0x7F#64) ||| Word.ofNat new
    s.write p 8 w.toNat
  | none => s

/-- The spill region of a core receives the save records and the spilled part of the deque that it now holds (R169, R384). -/
def State.spillAll (s : State) (core : Nat) : State :=
  (s.core core).saved.foldl (fun s p => s.spillSave core p.1) (s.spillDeque core)

/-- Put an image on the cores of a new place. -/
def State.attach (s : State) (n : Nat) (i : Image) (new : List Nat) : State :=
  let pairs := i.place.zip new
  let f := fun (c : Nat) => (pairs.lookup c).getD c
  let g := clusterMap f i
  let s := (pairs.zip i.cores).foldl (fun (s : State) (p : (Nat × Nat) × Core) => s.updCore p.1.2 fun d => p.2.placed d n) s
  let s := s.rename n f
  let s := new.foldl (fun s c => s.spillAll c) s
  -- The copy requests in the cores' mailbox registers name their core.
  let s := new.foldl (fun s c => s.updCore c fun k => { k with copyRegs := k.copyRegs.map (·.renamed f) }) s
  let s := i.tiles.foldl (fun s p => s.updMe (clusterOf (f p.1)) fun m =>
    { m with owner := Tab.set m.owner p.2.1 (f p.1), tiles := Tab.set m.tiles p.2.1 p.2.2.1,
             latch := match p.2.2.2 with
               | some b => Tab.set m.latch p.2.1 b
               | none => Tab.erase m.latch p.2.1 }) s
  let s := i.jobs.foldl (fun s j => s.updMe (clusterOf (f j.core)) fun m =>
    { m with jobs := m.jobs ++ [{ j with core := f j.core, twin := j.twin.map fun w => (f w.1, w.2) }] }) s
  let s := i.copies.foldl (fun s j => s.updCe (clusterOf (f j.core)) fun e => { e with copies := e.copies ++ [j.renamed f] }) s
  let s := new.foldl (fun s c => s.updCe (clusterOf c) fun e => { e with bufs := [] }) s
  let s := i.cmds.foldl (fun s j => s.updKse (clusterOf (f j.core)) fun e => { e with queue := e.queue ++ [{ j with core := f j.core }] }) s
  i.banks.foldl (fun s (b : Nat × Tab BankEntry × Option (Option (List Word))) =>
    let k := g b.1
    let s := s.updKse k fun e =>
      { e with bank := b.2.1.foldl (fun t p => Tab.set t p.1 p.2) e.bank,
               used := match b.2.2 with
                 | some u => Tab.set e.used n u
                 | none => e.used }
    if k = b.1 then s else
    match b.2.2 with
    | some (some l) => l.foldl (fun s a => s.renamePage ((s.ctx n).getD {}) k a) s
    | _ => s) s

/-- The destinations of some cores of an image meet R385, once the image has left its place: each core keeps its cluster
position, cores of one cluster stay together, and what a cluster must hold is free there. -/
def State.fits (s : State) (_n : Nat) (i : Image) (pairs : List (Nat × Nat)) : Bool :=
  let f := fun (c : Nat) => (pairs.lookup c).getD c
  let g := fun (k : Nat) => ((pairs.find? fun p => clusterOf p.1 == k).map fun p => clusterOf p.2).getD k
  let here := fun (c : Nat) => pairs.any fun p => p.1 == c
  let tiles : List (Nat × Nat) := (i.tiles.filter fun p => here p.1).map fun p => (clusterOf (f p.1), p.2.1)
  let banks := (i.banks.filter fun b => pairs.any fun p => clusterOf p.1 == b.1)
  let entries : List (Nat × Nat) := banks.flatMap fun b => b.2.1.map fun e => (g b.1, e.1)
  decide (pairs.map (fun p => p.2)).Nodup
    && pairs.all (fun p => p.1 % 8 == p.2 % 8 && !s.isPlinth p.2 && decide (p.2 < 528) && !(s.core p.2).fenced && (s.core p.2).ctx.isNone)
    && pairs.all (fun p => pairs.all fun r => !(clusterOf p.1 == clusterOf r.1) || clusterOf p.2 == clusterOf r.2)
    && pairs.all (fun p => clusterOf p.1 == clusterOf p.2 || s.clusterFit (clusterOf p.2))
    && decide tiles.Nodup && tiles.all (fun p => ((s.cluster p.1).me.owner.get? p.2).isNone)
    && decide entries.Nodup && entries.all (fun p => ((s.cluster p.1).kse.bank.get? p.2).isNone)
    && banks.all (fun b => g b.1 == b.1 || b.2.2 != some none)

/-! ### The threads of a saved context (R383) -/

/-- Act on the threads of a context, and where it is saved on those of its package, as if its cores stood where they were: what the
other contexts have on those cores stays. A reply to a thread of the package waits in its mailbox queue. -/
def State.withPackage (s : State) (n : Nat) (act : State → State) : State :=
  match s.ctx n with
  | none => s
  | some x =>
    if !x.saved then act s else
    let put := fun (s : State) (l : List Core) => (x.package.place.zip l).foldl (fun (s : State) p => s.setCore p.1 p.2) s
    let t := act (put s x.package.cores)
    let t := (t.messages.drop s.messages.length).foldl (fun (t : State) m => t.updCore m.1 (·.deliver m.2)) t
    let moved := x.package.place.map t.core
    let t := put t (x.package.place.map s.core)
    let t : State := { t with
      messages := s.messages, inflight := s.inflight, lz := s.lz, clusters := s.clusters
      reqs := s.reqs.map fun p => if p.2.ctx = n then (p.1, (t.reqs.get? p.1).getD p.2) else p }
    t.updCtx n fun y => { y with package := { y.package with cores := moved } }

/-! ### Slices (R231, R232, R385) -/

/-- How many bytes of a slice are a context's: below the spill regions, or all of a store slice (R229). -/
def sliceBytes (k : Nat) : Nat := if k < 132 then 0x1C0000 else 2 ^ 21

/-- Take the image of slices away: their cells and empty words, by 2^21·index + offset, and the state without them. -/
def State.takeSlices (s : State) (l : List Nat) : (List Host.Cell × List Nat) × State :=
  let at_ := fun (a : Nat) => match l.idxOf? (a / 2 ^ 21) with
    | some c => if a % 2 ^ 21 < sliceBytes (a / 2 ^ 21) then some (2 ^ 21 * c + a % 2 ^ 21) else none
    | none => none
  ((s.mem.filterMap fun c => (at_ c.1).map fun k => (k, c.2), s.empties.filterMap at_),
   { s with mem := s.mem.filter fun c => (at_ c.1).isNone, empties := s.empties.filter fun a => (at_ a).isNone })

/-- Put an image on slices; the rest of each is zero and full (R231, R232). What a store slice held above the spill limit of a
quad slice does not come along to one (R229; log entry 48). -/
def State.putSlices (s : State) (l : List Nat) (cells : List Host.Cell) (empties : List Nat) : State :=
  let s := (s.takeSlices l).2
  let at_ := fun (a : Nat) => match l[a / 2 ^ 21]? with
    | some k => if a % 2 ^ 21 < sliceBytes k then some (sramAt k (a % 2 ^ 21)) else none
    | none => none
  let put : List Host.Cell → Host.Cell → List Host.Cell := fun m c => match at_ c.1 with
    | some a => Mem.setByte m a c.2
    | none => m
  let s : State := { s with mem := cells.foldl put s.mem }
  empties.foldl (fun s a => match at_ a with
    | some a => s.setEmpty a
    | none => s) s

end Sys2Proof.Machine
end

