-- ==== Sys2Proof/Machine/QueueOps.lean ====
section
/-! DEFINITION. Operations on the queues of the QS (06 R191-R199): enabling, residency, tickets and stride. -/

namespace Sys2Proof.Machine

/-! ### Doorbells (R192, R422) -/

/-- A write of BAR2 that has no effect: to a doorbell one that is neither of 32 bits nor of 64 (log entry 62), to another register
one of other than 64 bits, and any to the reserved offsets (R422). -/
def bar2Ignores (off size : Nat) : Bool :=
  if off < 0x800 then size != 4 && size != 8 else size != 8 || (decide (0x818 ≤ off) && decide (off < 0x1000))

/-! ### Settling and enabling -/

/-- Settle residency after a change of a queue, look at the heads that this brings up, and show the descriptor (R191, R196). -/
def State.settleQueue (s : State) (q : Nat) (x : Queue) : State := (((s.setQueue q x).admitQueues 256).viewHeads).mirrorQueue q

/-- The EN bit of a queue's descriptor has been written (R191, R193): the queue is enabled, with ERR 0x05 for fields out of
range, or goes OFF. What the manual leaves open here is log entry 50 (DESIGN CHOICE): ERR reads 0 and EPKT stays after an
error, and TICKETS and the other fields are those that stand in the descriptor as EN is set. -/
def State.enableQueue (s : State) (q : Nat) : State :=
  match s.queueDesc q with
  | none => s
  | some a =>
    let w0 := s.word a
    let w1 := s.word (a + 8)
    let x := s.queue q
    if !w1.getLsbD 32 then
      (s.orphanQueue q).settleQueue q { x with en := false, st := .off, resident := false, head := [], launch := none, producer := none, sent := false, parked := none }
    else
      let x := { x with base := w0, en := true, tickets := bits w1 26 16, ctx := bits w1 15 8, logn := bits w1 4 0,
                        head := [], launch := none, producer := none, sent := false, parked := none, resident := false, err := 0 }
      if 4 ≤ x.logn ∧ x.logn ≤ 16 ∧ 1 ≤ x.tickets ∧ x.tickets ≤ 1024 ∧ s.live x.ctx then s.settleQueue q (s.idleOrReady x)
      else (s.setQueue q x).queueError q 0x05#8

/-- Tickets lent to a queue, its own included, each lender counted once along a chain (R199). -/
def State.effective (s : State) : Nat → List Nat → Nat → Nat
  | 0, _, _ => 0
  | fuel + 1, seen, q =>
    let lenders := s.qs.queues.filter fun p =>
      (p.2.st == .wait || p.2.st == .waitmem) && p.2.producer == some q && !(q :: seen).contains p.1
    lenders.foldl (fun n p => n + s.effective fuel (q :: seen) p.1) (s.queue q).tickets

/-- The stride of a queue (R198). -/
def State.stride (s : State) (q : Nat) : Nat := 2 ^ 20 / s.effective 257 [] q

/-- The resident READY queue with the least PASS (R198), among those a filter allows. -/
def State.pickQueue (s : State) (ok : Nat → Bool) : Option Nat :=
  ((s.qs.queues.filter fun p => p.2.en && p.2.resident && p.2.st == .ready && p.2.parked.isNone && ok p.1).foldl
    (fun (b : Option (Nat × Nat)) p => match b with
      | none => some (p.1, p.2.pass)
      | some y => if p.2.pass < y.2 then some (p.1, p.2.pass) else b) none).map (·.1)

end Sys2Proof.Machine
end

