-- ==== Sys2Proof/Machine/PowerOps.lean ====
section
/-! DEFINITION. Operations the power and migration rules share (13 R385-R400): waking an island, contracts, the room of a
move, the start of a migration, and the actions of trigger entries. -/

namespace Sys2Proof.Machine

/-! ### Islands and contracts (R393-R396) -/

/-- The longest wake time of a state in µs (R393). -/
def wakeTime (island : Nat) : PState → Nat
  | .active => 0
  | .idle => if island = 0 then 1 else 2
  | .retain => 25
  | .off => 300

/-- Contracts held on the chip, over its live contexts (R396). -/
def State.contracts (s : State) : List Contract := s.ctxs.flatMap fun x => x.2.contracts.map (·.2)

/-- A contract forbids a state of an island (R396). -/
def State.forbidden (s : State) (island : Nat) (st : PState) : Bool :=
  s.contracts.any fun c => (if c.watch then 1 else 0) == island && decide (c.t < wakeTime island st)

/-- The deepest state a contract of `t` µs allows (R396). -/
def deepest (island t : Nat) : PState :=
  if island = 1 then .idle else if t < 25 then .idle else if t < 300 then .retain else .off

/-! ### Where a context can go (R385, R388) -/

/-- The island of a context: that of its cores. -/
def Ctx.island (x : Ctx) : Nat := islandOf (x.cores.headD 0)

/-- The slices of other contexts that stand. -/
def State.slicesUsed (s : State) (n : Nat) : List Nat := (s.ctxs.filter fun p => p.1 != n && !p.2.out).flatMap fun p => p.2.slices

/-- A slice may be given to a context of an island: free, whole, a store slice or a quad slice of that island (R228, R412). -/
def State.sliceFree (s : State) (n island k : Nat) : Bool :=
  decide (k < 146) && !(s.slicesUsed n).contains k && !(s.fencedBlocks.any fun b => b / 512 == k)
    && (decide (132 ≤ k) || (if island = 0 then decide (k < 128) else decide (128 ≤ k)))

/-- Slices for a move (R228, R385): as many, each free, a quad slice of the island or a store slice, whatever each was before. -/
def State.slicesFit (s : State) (n island : Nat) (old new : List Nat) : Bool :=
  decide (new.length = old.length) && decide new.Nodup && new.all (s.sliceFree n island)

/-- A placement of a context on an island meets R385. -/
def State.placeFits (s : State) (n island : Nat) (x : Ctx) (p : Placement) : Bool :=
  let (i, t) := if x.saved then (x.package, s) else s.detach n x.cores
  t.fits n i (i.place.zip p.cores) && decide (p.cores.length = i.place.length) && p.cores.all (fun c => islandOf c == island)
    && s.slicesFit n island x.slices p.slices

/-- Place the cluster groups of a context one after another, each on some cluster of the target (R385). -/
def placeGroups (ok : List (Nat × Nat) → Bool) (dests : List Nat) : List Nat → List (Nat × Nat) → Option (List (Nat × Nat))
  | [], acc => if ok acc then some acc else none
  | g :: gs, acc => dests.findSome? fun d => if ok ((g, d) :: acc) then placeGroups ok dests gs ((g, d) :: acc) else none

/-- A placement on an island, when there is room: the first found (R385, R388). -/
def State.findPlace (s : State) (n island : Nat) (x : Ctx) : Option Placement :=
  let (i, t) := s.detach n x.cores
  let groups := (x.cores.map clusterOf).eraseDups
  let move := fun (acc : List (Nat × Nat)) (c : Nat) => (acc.lookup (clusterOf c)).map fun d => 8 * d + c % 8
  let ok := fun (acc : List (Nat × Nat)) => t.fits n i (x.cores.filterMap fun c => (move acc c).map fun d => (c, d))
  match placeGroups ok (if island = 0 then List.range 64 else [64, 65]) groups [] with
  | none => none
  | some acc =>
    let free := (List.range 146).filter (s.sliceFree n island)
    if x.slices.length ≤ free.length then some ⟨x.cores.filterMap (move acc), free.take x.slices.length⟩ else none

/-- A context is portable (R388). -/
def State.portable (s : State) (x : Ctx) : Bool :=
  decide (x.cores.length ≤ 12) && decide (x.slices.length ≤ 18) && decide ((x.cores.flatMap s.tilesOf).length ≤ 8)
    && x.tokens.isEmpty && !(s.lz.any fun p => x.cores.contains (p.1 / 16))

/-! ### Migrations (R388-R392) -/

/-- An address of a context has a mapping with the rights for an access of `n` bytes (R392, R397). -/
def State.mapped (s : State) (x : Ctx) (a : Word) (n : Nat) (need : Byte) : Bool :=
  [a, a + Word.ofNat (n - 1)].all fun a =>
    match region x.tenant a with
    | .sram c o => match x.phys c o with
      | some p => !inSpill p && (match s.fill x a with
          | some e => e.rights &&& need == need
          | none => false)
      | none => false
    | .paged _ => match s.fill x a with
      | some e => e.rights &&& need == need
      | none => false
    | _ => false

/-- The REPORT check of R392: 0x03 for its alignment, 0x06 for a missing mapping or right. -/
def State.reportCheck (s : State) (x : Ctx) (a : Word) : Option Byte :=
  if a.toNat % 8 ≠ 0 then some 0x03#8 else if s.mapped x a 64 rW then none else some 0x06#8

/-- Start a migration whose report address is sound (R388, R389): PARK, or its end with a status at once. -/
def State.startMigration (s : State) (n target : Nat) (timeout report : Word) (trigger queue : Option Nat) : State :=
  match s.ctx n with
  | none => s
  | some x =>
    let phase : MigPhase :=
      if x.island = target then .done 5
      else if !s.portable x then .done 3
      else if (s.findPlace n target x).isNone then .done 4
      else .park
    let m : Migration := { ctx := n, target := target, phase := phase, tstart := s.time, tend := s.time, timeout := timeout,
                           report := report, trigger := trigger, queue := queue }
    let s : State := { s with migrations := s.migrations ++ [m] }
    if phase = .park then s.setCtx n { x with migrating := true } else s

/-- A context has a migration under way. -/
def State.migratingCtx (s : State) (n : Nat) : Bool := s.migrations.any fun m => m.ctx == n

/-- A context is in PARK (R391). -/
def State.inPark (s : State) (n : Nat) : Bool := s.migrations.any fun m => m.ctx == n && m.phase == .park

/-! ### Trigger entries (R397-R399) -/

/-- The state WST names (R397). -/
def wakeTarget : Nat → PState
  | 0 => .active
  | 1 => .idle
  | _ => .retain

/-- The action of an entry starts (R399). One that reads or writes DRAM waits for it to leave self-refresh
(R394). The start of a queue whose descriptor does not lie in the die's memory has no outcome in the rules: it ends with LAST 2
(DESIGN CHOICE, log entry 36). -/
def State.startAction (s : State) (n : Nat) : State :=
  let t := s.trigger n
  let arg := bits t.w0 47 40
  if s.selfRefresh ∧ bits t.w0 57 56 ≠ 0 then ({ s with dramExit := true } : State).setTrigger n { t with due := true } else
  let s := s.setTrigger n { t with due := false }
  match bits t.w0 57 56 with
  | 0 =>
    let target := wakeTarget (bits t.w0 39 38)
    if s.burst.st.depth ≤ target.depth then s.endAction n 1 else s.wakeIsland 0 target
  | 1 =>
    if (s.queue arg).en then s.endAction n 1 else
    match s.queueDesc arg with
    | some a => ((s.write (a + 8) 8 (s.word (a + 8) ||| (1#64 <<< 32)).toNat).enableQueue arg).endAction n 0
    | none => s.endAction n 2
  | _ =>
    match s.ctx arg with
    | some x =>
      if x.dead ∨ x.saved ∨ s.migratingCtx arg ∨ (s.reportCheck x t.report).isSome then s.endAction n 2
      else s.startMigration arg 0 t.timeout t.report (some n) none
    | none => s.endAction n 2

/-- An entry fires and its action starts (R398, R399); its condition wakes the watch island (R394). -/
def State.fireTrigger (s : State) (n : Nat) : State :=
  ((s.setTrigger n { s.trigger n with st := .firing }).wakeIsland 1 .active).startAction n

end Sys2Proof.Machine
end

