-- ==== Sys2Proof/Machine/SysInstr.lean ====
section
/-! DEFINITION. The instructions of major 0x3F beside eresume and ekill: migpt (13 R391), trig (R400), wake (R395, R396),
pair (R408) and heelack (R407). -/

namespace Sys2Proof.Machine

open Exec

/-- migpt: while the context is in PARK, the thread stands at the next head until the migration ends it (R391). -/
def execMigpt (g : Guard) : State → Host.Outcome State Fault Refusal := runThread g do
  let e ← get
  if !e.s.inPark (e.s.ctxOf e.core) then return .advance
  else
    settled
    let pc ← nextPc
    let l ← enter pc
    let e ← get
    modS fun s => s.setThread e.core e.slot { Thread.done e.th pc l (e.s.core e.core).cycle with run := .parked (.migpt e.th.pc) 0 0 }
    return .gone

/-- A score offered to a score entry by a context: 3 where the entry is not its own enabled score entry, 2 where it is not ARMED, 1
where it fires, else 0 (R400). -/
def State.offerScore (s : State) (ctx n : Nat) (x : Word) : Word × State :=
  let t := s.trigger n
  if !t.en ∨ bits t.w0 59 58 ≠ 1 ∨ bits t.w0 55 48 ≠ ctx then (3, s)
  else if t.st ≠ .armed then (2, s)
  else if (fcompare Fmt.f32 .ge (bits x 31 0) (bits t.value 31 0)).1 then (1, s.fireTrigger n)
  else (0, s)

/-- trig: offer a score to a score entry (R400). -/
def execTrig (g : Guard) (d a : Reg) (ent : BitVec 4) : State → Host.Outcome State Fault Refusal := runThread g do
  let x ← src1 a [d]
  drained
  let (n, _) ← ctx
  write d (← command (.trig ent.toNat x) fun s => s.offerScore n ent.toNat x)
  return .advance

/-! ### Contracts (R395, R396) -/

/-- A free contract of a context and of the chip. -/
def State.freeContract (s : State) (ctx : Nat) : Option Nat :=
  if s.contracts.length < 16 then Tab.free ((s.ctx ctx).getD {}).contracts 0 4 else none

/-- wake.hold registers a contract: its number, or the refusal of R396. -/
def State.holdContract (s : State) (ctx island t : Nat) : Word × State :=
  match s.freeContract ctx with
  | some i => (Word.ofNat i, s.updCtx ctx fun c => { c with contracts := Tab.set c.contracts i ⟨island == 1, t⟩ })
  | none => (0xFFFFFFFFFFFFFFFE#64, s)

/-- wake.drop: 1, or 0 where the context holds no such contract. -/
def State.dropContract (s : State) (ctx i : Nat) : Word × State :=
  if (((s.ctx ctx).getD {}).contracts.get? i).isSome then
    (1, s.updCtx ctx fun c => { c with contracts := Tab.erase c.contracts i })
  else (0, s)

namespace Exec
/-- The operand of wake with every bit the form does not name zero, and the right to use it (R395). -/
def wakeOperand (a d : Reg) (named : Word) : Exec (Option Word) := do
  let x ← src1 a [d]
  if x &&& ~~~named ≠ 0 then trap 0x02#8 else
  if (← ctx).2.wakeRight then return some x
  else
    write d 0xFFFFFFFFFFFFFFFD#64
    return none

/-- Park until an island lies at a state or a shallower one, waking it (R395, R396). -/
def awaitIsland (n : Nat) (target : PState) : Exec Unit := do
  let e ← get
  if (e.s.island n).st.depth ≤ target.depth then pure () else
  ensureNext
  modKeep fun s => s.wakeIsland n target
  park (.wakeGo n target)
end Exec

def execWakeGo (g : Guard) (d a : Reg) : State → Host.Outcome State Fault Refusal := runThread g do
  match ← wakeOperand a d (fields [(1, 32), (3, 0)]) with
  | none => return .advance
  | some x =>
    let n := bits x 32 32
    match bits x 1 0 with
    | 0 => awaitIsland n .active
           write d 0
    | 1 => awaitIsland n .idle
           write d 0
    | _ => write d 2
    return .advance

/-- wake.hold: refusals first, then the contract, held once the island is shallow enough (R396). -/
def execWakeHold (g : Guard) (d a : Reg) : State → Host.Outcome State Fault Refusal := runThread g do
  match ← wakeOperand a d (fields [(2 ^ 33 - 1, 0)]) with
  | none => return .advance
  | some x =>
    let n := bits x 32 32
    let t := bits x 31 0
    let (k, _) ← ctx
    if t < wakeTime n .idle then write d 0xFFFFFFFFFFFFFFFF#64
    else
      let e ← get
      let free ← if e.th.twin.isNone then pure (e.s.freeContract k).isSome
        else (· == 1) <$> command (.mayHold t n) fun s => (Word.ofBool (s.freeContract k).isSome, s)
      if free then
        awaitIsland n (deepest n t)
        write d (← command (.hold t n) fun s => s.holdContract k n t)
      else write d 0xFFFFFFFFFFFFFFFE#64
    return .advance

def execWakeDrop (g : Guard) (d a : Reg) : State → Host.Outcome State Fault Refusal := runThread g do
  match ← wakeOperand a d 3#64 with
  | none => return .advance
  | some x =>
    let (k, _) ← ctx
    write d (← command (.drop (bits x 1 0)) fun s => s.dropContract k (bits x 1 0))
    return .advance

/-- Launch one record on two cores, pinned, with one tid (R408). -/
def State.launchPair (s : State) (n p q sp sq : Nat) (r : TaskRec) : State :=
  let tid := ((s.ctx n).getD {}).launched
  let s := s.updCtx n fun x => { x with launched := x.launched + 1 }
  let t := fun (c : Nat) => r.thread tid true (s.core c).cycle
  (s.setThread p sp { t p with twin := some (q, sq, true) }).setThread q sq { t q with twin := some (p, sp, false) }

/-- What pair does with a prepared record and the word of its virtual cores, its counter incremented: 2 or 3, or the launch into the
lowest EMPTY slots; none while a core has none (R408; DESIGN CHOICE, log entry 36). -/
def State.tryPair (s : State) (n : Nat) (y : Word) (r : TaskRec) : Option (Word × State) :=
  let cores := ((s.ctx n).getD {}).cores
  match cores[bits y 15 0]?, cores[bits y 31 16]? with
  | some p, some q =>
    if clusterOf p = clusterOf q ∨ p % 8 ≠ q % 8 ∨ s.tilesOf p ≠ s.tilesOf q ∨ 12 ≤ (s.core p).pins ∨ 12 ≤ (s.core q).pins then some (3, s)
    else match (s.core p).emptySlot, (s.core q).emptySlot with
      | some sp, some sq => some (0, s.launchPair n p q sp sq r)
      | _, _ => none
  | _, _ => some (2, s)

/-- pair (R408): the instruction parks while a core has no EMPTY slot. -/
def execPair (g : Guard) (d a b : Reg) : State → Host.Outcome State Fault Refusal := runThread g do
  let (x, y) ← src2 a b [d]
  let r ← readRecord x
  increment r.join
  let (n, _) ← ctx
  let e ← get
  if e.th.twin.isNone && (e.s.tryPair n y r).isNone then park .inbox else
  write d (← command (.pair y r) fun s => (s.tryPair n y r).getD (0, s))
  return .advance

/-- A command that both threads of a pair have given, done once for a context: its answer, none while what it needs is not there (R409). -/
def State.devCmd (s : State) (n : Nat) : DevCmd → Option (Word × State)
  | .resume a => some (s.resumeRecord n a)
  | .kill a => some (s.decideKill n a)
  | .endKill i => if s.killRoom n i then some (0, s.finishKill n i) else none
  | .trig k x => some (s.offerScore n k x)
  | .mayHold _ _ => some (Word.ofBool (s.freeContract n).isSome, s)
  | .hold t island => some (s.holdContract n island t)
  | .drop i => some (s.dropContract n i)
  | .pair y r => s.tryPair n y r

/-- heelack: a current heel number ends the wait of its context (R407). -/
def execHeelack (g : Guard) (a : Reg) : State → Host.Outcome State Fault Refusal := runThread g do
  let x ← src1 a []
  let (n, c) ← ctx
  if c.heelDue = some (bits x 15 0) then modS fun s => s.updCtx n fun c => { c with heelDue := none } else pure ()
  return .advance

end Sys2Proof.Machine
end

