-- ==== Sys2Proof/Machine/FabricInstr.lean ====
section
/-! DEFINITION. The instructions of the fabric (15 R437-R456): remote invocation, landing zones, signals. -/

namespace Sys2Proof.Machine

open Exec

namespace Exec

/-- A register operand with reserved bits (R438). -/
def reserved (x mask : Word) : Exec Unit := if x &&& mask = 0 then pure () else trap 0x02#8

end Exec

/-- Reserved bits of an invocation header, a token and a target (R440, R449, R450). -/
def headerMask : Word := 0xFFFFFFFFF0C00000#64
def tokenMask : Word := 0xFFFF0000FE00C000#64
def targetMask : Word := 0xFFFFFFFFFFF0C000#64

/-- Fields of a token or a target (R449, R450). -/
def tokenChip (t : Word) : Nat := bits t 3 0
def tokenCore (t : Word) : Nat := bits t 13 4
def tokenSlot (t : Word) : Nat := bits t 19 16
def tokenLog (t : Word) : Nat := bits t 24 20
def tokenCheck (t : Word) : BitVec 16 := t.extractLsb' 32 16

/-! ### Remote invocation (R439-R446) -/

namespace Exec

/-- Send an invocation and wait for its answer (R441): 4 for an unreachable chip. The thread keeps the packet's tag. -/
def invoke (h : Word) (tiles : Nat) : Exec Nat := do
  let e ← get
  let chip := bits h 3 0
  let r ← observe do
    if !e.s.reachable chip then return .val 4
    ensureNext
    let (n, x) ← ctx
    let args := (List.range 6).map fun i => (e.th.g[i]?).getD 0
    match e.th.twin with
    | some _ => toPair (.invoke h args tiles)
    | none =>
      let p : InvPacket := { chip := e.s.ownChip, ctx := n, tag := e.s.nextReq, header := h, args := args, sealedCtx := x.sealed, tiles := tiles }
      modKeep fun s =>
        let s : State := { s with nextReq := s.nextReq + 1, localInv := s.localInv ++ [(e.core, e.slot, p)] }
        if chip = s.ownChip then s else s.emit (.fabric chip 3 (.invoke p) x.sealed)
      modKeepTh fun t => { t with heldEntry := some p.tag }
      park .answer
  match r with
  | .val v => return v.toNat % 2 ^ 64
  | .err _ => return 5

/-- The common part of rinv and rinv.t (R441). -/
def rinvForm (d a : Reg) (traps : Bool) (td : Td) : Exec Next := do
  let h ← src1 a [d]
  reserved h headerMask
  tdPass td
  settled
  let st ← invoke h 0
  if traps ∧ st ≠ 0 then trap (if st = 5 then 0x21#8 else 0x50#8) (Word.ofNat st) else
  writePred 7 (st == 0)
  tdSignal td
  write d (Word.ofNat st)
  return .advance

/-- Check a tile of a card, or an lzcpy (R445, R451): 0x40 names `at_`. -/
def checkTile (token : Word) (len off : Nat) (at_ : Word) : Exec Unit :=
  if token &&& tokenMask ≠ 0 ∨ len = 0 ∨ len % 4096 ≠ 0 ∨ 2 ^ tokenLog token < 4096 * off + len then trap 0x40#8 at_ else pure ()

/-- Load the header of a card, whose tile count says how long it is, and check the accesses to all of its tiles (R33, R445). -/
def cardHead (a : Word) : Exec Vec := do
  let v ← load a 32
  let _ ← accessAll ((List.range (v.toNat % 8 + 1)).map fun t => (a + Word.ofNat (32 + 32 * t), 32, rR))
  return v

/-- Check a card and load its tiles (R445, R446). -/
def readCard (a : Word) (v : Vec) (chip : Nat) : Exec (List LzMove) := do
  if v.setWidth 256 &&& ~~~7#256 ≠ 0 then trap 0x40#8 a else
  let n := v.toNat % 8 + 1
  let mut l : List LzMove := []
  for t in List.range n do
    let w ← load (a + Word.ofNat (32 + 32 * t)) 32
    let f : Word := w.extractLsb' 128 64
    let m : LzMove := { src := w.setWidth 64, token := w.extractLsb' 64 64, len := bits f 63 32, off := bits f 7 0 }
    if f &&& 0xFFFFFF00#64 ≠ 0 ∨ w.extractLsb' 192 64 ≠ (0 : Word) ∨ m.src.toNat % 8 ≠ 0 ∨ tokenChip m.token ≠ chip then trap 0x40#8 a
    else pure ()
    checkTile m.token m.len m.off a
    l := l ++ [m]
  for m in l do spanRuns [((m.src.toNat : Int), m.len)] rR
  return l

/-- A copy of landing-zone moves (R446, R451). -/
def lzCopy (form : CpyForm) (moves : List LzMove) (quiet : Bool) (card : Option Nat) (td : Td) : Exec Copy := do
  let e ← get
  let m := moves.headD ⟨0, 0, 0, 0⟩
  return { form := form, core := e.core, ctx := e.s.ctxOf e.core, slot := e.slot, tag := e.slot, id := 0, pc := e.th.pc, dst := m.token,
           src := m.src, len := moves.foldl (fun n m => n + m.len) 0, quiet := quiet, moves := moves, card := card, td := td,
           progress := (List.range moves.length).map fun t => { target := t } }

end Exec

def execRinv (g : Guard) (d a : Reg) (td : Td) : State → Host.Outcome State Fault Refusal := runThread g (rinvForm d a false td)
def execRinvT (g : Guard) (d a : Reg) (td : Td) : State → Host.Outcome State Fault Refusal := runThread g (rinvForm d a true td)

/-- rinv.card (R446): on answer 0 its tiles go to the CE as one copy without wait or signal (R438). -/
def execRinvCard (g : Guard) (d a b : Reg) (td : Td) : State → Host.Outcome State Fault Refusal := runThread g do
  let (h, x) ← src2 a b [d]
  -- The faults of the card's addresses come before the reserved bits of the header (R33).
  let v ← cardHead x
  reserved h headerMask
  let moves ← readCard x v (bits h 3 0)
  tdPass td
  settled
  let st ← invoke h moves.length
  writePred 7 (st == 0)
  if st ≠ 0 then write d (Word.ofNat st)
  else
    let id ← postCopy (← lzCopy .card moves false (← get).th.heldEntry ⟨0, 0, 0, 0⟩)
    write d ((id <<< 16).setWidth 64)
  tdSignal td
  return .advance

/-! ### Landing zones (R447-R454) -/

/-- A landing-slot descriptor and whether its reserved bits, LOG and alignment are sound (R447, R448). -/
def LzSlot.ofWords (w0 w1 : Word) : LzSlot × Bool :=
  let log := bits w1 4 0
  ({ addr := w0, log := log, sem := bits w1 39 32, srcm := w1.extractLsb' 48 16, tag := noTag },
   bits w1 47 40 == 0 && bits w1 31 8 == 0 && bits w1 6 5 == 0 && decide (12 ≤ log) && decide (log ≤ 20) && w0.toNat % 2 ^ log == 0)

/-- The ranges of two slots overlap (R448). -/
def LzSlot.overlaps (a b : LzSlot) : Bool :=
  decide (a.addr.toNat < b.addr.toNat + 2 ^ b.log) && decide (b.addr.toNat < a.addr.toNat + 2 ^ a.log)

def LzSt.isFree : LzSt → Bool
  | .free => true
  | _ => false

def execLzcfg (g : Guard) (d a : Reg) (lz : BitVec 4) (td : Td) : State → Host.Outcome State Fault Refusal := runThread g do
  let x ← src1 a [d]
  align x 16
  let _ ← access x rR
  tdPass td
  let v ← load x 16
  let (z, ok) := LzSlot.ofWords (v.setWidth 64) (v.extractLsb' 64 64)
  if !ok then trap 0x40#8 x else
  let e ← get
  let (_, c) ← ctx
  let own := match region c.tenant z.addr with
    | .sram i o => match c.phys i o with
      | some p => if p / 2 ^ 21 = quadOf e.core then some p else none
      | none => none
    | _ => none
  match own with
  | none => trap 0x11#8 z.addr
  | some p =>
    if inSpill (p + 2 ^ z.log - 1) then trap 0x10#8 z.addr else
    let n := 16 * e.core + lz.toNat
    let busy := match e.s.lz.get? n with
      | some o => !o.st.isFree
      | none => false
    let clash := e.s.lz.any fun q => q.1 / 16 == e.core && q.1 != n && q.2.overlaps z
    let en := v.getLsbD 71
    tdSignal td
    if busy then write d 1
    else if en ∧ clash then write d 2
    else
      modS fun s => { s with lz := if en then Tab.set s.lz n { z with tag := e.slot } else Tab.erase s.lz n }
      write d 0
    return .advance

namespace Exec

/-- Send a request about a landing slot to a chip, on VC 1 or to the own chip, and wait for the answer; none when the chip
is unreachable or the link fails (R450, R454). -/
def askSlot (chip : Nat) (acc : Access) : Exec (Option Word) := do
  let e ← get
  let r ← observe do
    if !e.s.reachable chip then return .err 0x21#8
    ensureNext
    match e.th.twin with
    | some _ => toPair (.access (Word.ofNat chip) acc (Word.ofNat chip))
    | none =>
      let (n, _) ← ctx
      let own := chip == e.s.ownChip
      modKeep fun s =>
        let r : Req := { src := .thread e.core e.slot, ctx := n, addr := Word.ofNat chip, acc := acc, st := if own then .queued else .sent (some chip) }
        let s := if own then s else s.emit (.fabric chip 1 (.access s.nextReq (Word.ofNat chip) acc) (s.sealed n))
        { s with reqs := Tab.set s.reqs s.nextReq r, nextReq := s.nextReq + 1 }
      park .answer
  match r with
  | .val v => return some (v.setWidth 64)
  | .err _ => return none

end Exec

def execLzres (g : Guard) (d a : Reg) (td : Td) : State → Host.Outcome State Fault Refusal := runThread g do
  let x ← src1 a [d]
  reserved x targetMask
  tdPass td
  let v := (← askSlot (tokenChip x) (.lzres x)).getD (BitVec.allOnes 64)
  -- Every failure code has its high bits set, a token has them zero (R449, R450).
  let (n, _) ← ctx
  if v.getLsbD 63 then pure () else modS fun s => s.updCtx n fun c => { c with tokens := c.tokens ++ [v] }
  tdSignal td
  write d v
  return .advance

def execLzrel (g : Guard) (d a : Reg) (td : Td) : State → Host.Outcome State Fault Refusal := runThread g do
  let x ← src1 a [d]
  reserved x tokenMask
  tdPass td
  let v := (← askSlot (tokenChip x) (.lzrel x)).getD 2
  let (n, _) ← ctx
  if v = 0 then modS fun s => s.updCtx n fun c => { c with tokens := c.tokens.erase x } else pure ()
  tdSignal td
  write d v
  return .advance

/-- lzcpy (R451). -/
def execLzcpy (g : Guard) (d a b c : Reg) (quiet : Bool) (off : BitVec 8) (td : Td) : State → Host.Outcome State Fault Refusal :=
  runThread g do
    let (x, y, z) ← src3 a b c [d]
    checkTile x z.toNat off.toNat 0
    align y 8
    spanRuns [((y.toNat : Int), z.toNat)] rR
    mailbox d (← lzCopy .lz [{ token := x, src := y, len := z.toNat, off := off.toNat }] quiet none td)

/-! ### Signals (R455, R456) -/

/-- The chip a request of a thread goes to, by its address as a context of a tenant forms it; none for the host (R227, R243). -/
def State.chipOf (s : State) (tenant : Nat) (a : Word) : Option Nat :=
  match region tenant a with
  | .paged p => match (s.translate p).1 with
    | .chip c _ => some c
    | .host _ => none
    | _ => some s.ownChip
  | _ => some s.ownChip

/-- What a sigupd to a chip waits for (R455): requests of the thread to other chips, and its lzcpy to that chip. -/
def State.sigupdWaits (s : State) (core slot : Nat) (chip : Nat) : Bool :=
  (s.inflight.any fun p => p.2.core == core && p.2.slot == slot && (match s.chipOf ((s.ctx (s.ctxOf core)).getD {}).tenant p.2.addr with
    | some c => c != chip
    | none => false))
  || ((s.core core).copyRegs ++ (s.cluster (clusterOf core)).ce.copies).any fun (c : Copy) =>
      c.core == core && c.tag == slot && c.form == .lz && tokenChip c.dst == chip

/-- sigupd (R455): the update is sent as one outstanding request; SIGUPD_ARRIVAL performs it. -/
def execSigupd (g : Guard) (a b : Reg) (op : SigOp) (td : Td) : State → Host.Outcome State Fault Refusal := runThread g do
  let (x, y) ← src2 a b []
  align x 8
  let p ← access x rRWA
  tdPass td
  drained
  let addr ← match p with
    | .sram _ => pure x
    | .paged q => pure q
    | .mgmt _ => trap 0x10#8 x
  let e ← get
  if e.s.sigupdWaits e.core e.slot ((e.s.chipOf 0 addr).getD e.s.ownChip) then park .outst else
  outRoom
  match e.th.twin with
  | some _ =>
    let _ ← observe do
      ensureNext
      toPair (.access addr (.signal op y) x)
  | none => modS fun s =>
    let n := s.nextReq
    let s := s.sendCounted e.core e.slot e.th.seq x none
    { s with reqs := Tab.set s.reqs n { src := .store e.core e.slot e.th.seq, ctx := s.ctxOf e.core, addr := addr, acc := .signal op y } }
  modTh fun t => { t with outst := t.outst + 1, seq := t.seq + 1 }
  tdSignal td
  return .advance

/-- sigwait (R456): evaluated at issue and in each own cycle; a page that is not present is read through its home. Each evaluation
reads the word afresh. -/
def execSigwait (g : Guard) (a b : Reg) (cmp : Cmp) (td : Td) : State → Host.Outcome State Fault Refusal := runThread g do
  let (x, y) ← src2 a b []
  align x 8
  let p ← access x rR
  tdPass td
  let e ← get
  let (_, k) ← ctx
  let key := plbKey k.tenant x
  let mem := fun (q : Nat) => if e.s.fencedAt q then return Reply.err 0x72#8 else return .val ((e.s.word q).zeroExtend 512)
  -- The thread's own buffered store to the word comes first (R30); a paired thread's read goes through the compare (R409).
  let word : Exec Reply := match e.th.sb.reverse.find? (fun s => (SbEntry.hits key 0xFF#64 s).1), p with
    | some s, _ => if (SbEntry.hits key 0xFF#64 s).2 && e.th.twin.isNone then return .val (SbEntry.from key s) else park .sbEmpty
    | none, .mgmt off => return .val ((e.s.reg true off).zeroExtend 512)
    | none, .sram q => if e.th.twin.isSome then send (Word.ofNat key) (.read 8) .request x else mem q
    | none, .paged q => match (e.s.translate q).1 with
      | .host _ | .chip _ _ => return .err 0x20#8
      | .dram d => if e.th.twin.isSome ∨ e.s.sleeps q then send q (.read 8) .request x else mem d
      | _ => send q (.read 8) .request x
  let w ← answer (← observe word) x
  let v : Word := w.setWidth 64
  if cmpHolds cmp v y then
    tdSignal td
    return .advance
  else
    modify fun e => { e with log := e.log.take 1 }
    park .sigwait true x

end Sys2Proof.Machine
end

