-- ==== Sys2Proof/Machine/Reissue.lean ====
section
/-! DEFINITION. Running an instruction by its form and its fields, for the threads' own cycles and for the events that
bring what a parked instruction waits for. Laws/Reissue.lean shows that it is exec of the decoded instruction. -/

namespace Sys2Proof.Machine

def runOp (o : Op) (r : Raw) (s : State) : Host.Outcome State Fault Refusal :=
  match o with
  | .nop => Sys2Proof.Machine.execNop r.g s
  | .brk => Sys2Proof.Machine.execBrk r.g s
  | .brkCode => Sys2Proof.Machine.execBrkCode r.g (r.x.extractLsb' 0 16) s
  | .trap => Sys2Proof.Machine.execTrap r.g (r.x.extractLsb' 0 16) s
  | .eret => Sys2Proof.Machine.execEret r.g s
  | .add => Sys2Proof.Machine.execAdd r.g r.rd r.ra r.rb s
  | .sub => Sys2Proof.Machine.execSub r.g r.rd r.ra r.rb s
  | .land => Sys2Proof.Machine.execLand r.g r.rd r.ra r.rb s
  | .lor => Sys2Proof.Machine.execLor r.g r.rd r.ra r.rb s
  | .lxor => Sys2Proof.Machine.execLxor r.g r.rd r.ra r.rb s
  | .andn => Sys2Proof.Machine.execAndn r.g r.rd r.ra r.rb s
  | .shl => Sys2Proof.Machine.execShl r.g r.rd r.ra r.rb s
  | .shr => Sys2Proof.Machine.execShr r.g r.rd r.ra r.rb s
  | .sar => Sys2Proof.Machine.execSar r.g r.rd r.ra r.rb s
  | .rol => Sys2Proof.Machine.execRol r.g r.rd r.ra r.rb s
  | .min => Sys2Proof.Machine.execMin r.g r.rd r.ra r.rb s
  | .max => Sys2Proof.Machine.execMax r.g r.rd r.ra r.rb s
  | .minu => Sys2Proof.Machine.execMinu r.g r.rd r.ra r.rb s
  | .maxu => Sys2Proof.Machine.execMaxu r.g r.rd r.ra r.rb s
  | .addSat => Sys2Proof.Machine.execAddSat r.g r.rd r.ra r.rb s
  | .subSat => Sys2Proof.Machine.execSubSat r.g r.rd r.ra r.rb s
  | .addSatu => Sys2Proof.Machine.execAddSatu r.g r.rd r.ra r.rb s
  | .subSatu => Sys2Proof.Machine.execSubSatu r.g r.rd r.ra r.rb s
  | .sel => Sys2Proof.Machine.execSel r.g r.rd r.ra r.rb r.vc s
  | .addImm => Sys2Proof.Machine.execAddImm r.g r.rd r.ra r.imm21 s
  | .landImm => Sys2Proof.Machine.execLandImm r.g r.rd r.ra r.imm21 s
  | .lorImm => Sys2Proof.Machine.execLorImm r.g r.rd r.ra r.imm21 s
  | .lxorImm => Sys2Proof.Machine.execLxorImm r.g r.rd r.ra r.imm21 s
  | .andnImm => Sys2Proof.Machine.execAndnImm r.g r.rd r.ra r.imm21 s
  | .minImm => Sys2Proof.Machine.execMinImm r.g r.rd r.ra r.imm21 s
  | .maxImm => Sys2Proof.Machine.execMaxImm r.g r.rd r.ra r.imm21 s
  | .minuImm => Sys2Proof.Machine.execMinuImm r.g r.rd r.ra r.imm21 s
  | .maxuImm => Sys2Proof.Machine.execMaxuImm r.g r.rd r.ra r.imm21 s
  | .addSatImm => Sys2Proof.Machine.execAddSatImm r.g r.rd r.ra r.imm21 s
  | .addSatuImm => Sys2Proof.Machine.execAddSatuImm r.g r.rd r.ra r.imm21 s
  | .shlImm => Sys2Proof.Machine.execShlImm r.g r.rd r.ra (r.x.extractLsb' 0 6) s
  | .shrImm => Sys2Proof.Machine.execShrImm r.g r.rd r.ra (r.x.extractLsb' 0 6) s
  | .sarImm => Sys2Proof.Machine.execSarImm r.g r.rd r.ra (r.x.extractLsb' 0 6) s
  | .rolImm => Sys2Proof.Machine.execRolImm r.g r.rd r.ra (r.x.extractLsb' 0 6) s
  | .li => Sys2Proof.Machine.execLi r.g r.rd (r.x.extractLsb' 0 16) s
  | .liI32 => Sys2Proof.Machine.execLiI32 r.g r.rd (r.x.extractLsb' 0 32) s
  | .liTe => Sys2Proof.Machine.execLiTe r.g r.rd r.x s
  | .mul => Sys2Proof.Machine.execMul r.g r.rd r.ra r.rb s
  | .mulh => Sys2Proof.Machine.execMulh r.g r.rd r.ra r.rb s
  | .mulhu => Sys2Proof.Machine.execMulhu r.g r.rd r.ra r.rb s
  | .div => Sys2Proof.Machine.execDiv r.g r.rd r.ra r.rb s
  | .divu => Sys2Proof.Machine.execDivu r.g r.rd r.ra r.rb s
  | .rem => Sys2Proof.Machine.execRem r.g r.rd r.ra r.rb s
  | .remu => Sys2Proof.Machine.execRemu r.g r.rd r.ra r.rb s
  | .clz => Sys2Proof.Machine.execClz r.g r.rd r.ra s
  | .ctz => Sys2Proof.Machine.execCtz r.g r.rd r.ra s
  | .popc => Sys2Proof.Machine.execPopc r.g r.rd r.ra s
  | .bswap => Sys2Proof.Machine.execBswap r.g r.rd r.ra s
  | .sextB => Sys2Proof.Machine.execSextB r.g r.rd r.ra s
  | .sextH => Sys2Proof.Machine.execSextH r.g r.rd r.ra s
  | .sextW => Sys2Proof.Machine.execSextW r.g r.rd r.ra s
  | .zextB => Sys2Proof.Machine.execZextB r.g r.rd r.ra s
  | .zextH => Sys2Proof.Machine.execZextH r.g r.rd r.ra s
  | .zextW => Sys2Proof.Machine.execZextW r.g r.rd r.ra s
  | .bext => Sys2Proof.Machine.execBext r.g r.rd r.ra (r.x.extractLsb' 0 6) (r.x.extractLsb' 6 6) s
  | .bins => Sys2Proof.Machine.execBins r.g r.rd r.ra (r.x.extractLsb' 0 6) (r.x.extractLsb' 6 6) s
  | .lea => Sys2Proof.Machine.execLea r.g r.rd r.ra r.rb (r.f.extractLsb' 0 2) r.disp s
  | .cmpEq => Sys2Proof.Machine.execCmpEq r.g r.vd r.ra r.rb s
  | .cmpNe => Sys2Proof.Machine.execCmpNe r.g r.vd r.ra r.rb s
  | .cmpLt => Sys2Proof.Machine.execCmpLt r.g r.vd r.ra r.rb s
  | .cmpGe => Sys2Proof.Machine.execCmpGe r.g r.vd r.ra r.rb s
  | .cmpLtu => Sys2Proof.Machine.execCmpLtu r.g r.vd r.ra r.rb s
  | .cmpGeu => Sys2Proof.Machine.execCmpGeu r.g r.vd r.ra r.rb s
  | .cmpGt => Sys2Proof.Machine.execCmpGt r.g r.vd r.ra r.rb s
  | .cmpLe => Sys2Proof.Machine.execCmpLe r.g r.vd r.ra r.rb s
  | .cmpGtu => Sys2Proof.Machine.execCmpGtu r.g r.vd r.ra r.rb s
  | .cmpLeu => Sys2Proof.Machine.execCmpLeu r.g r.vd r.ra r.rb s
  | .cmpTst => Sys2Proof.Machine.execCmpTst r.g r.vd r.ra r.rb s
  | .cmpNtst => Sys2Proof.Machine.execCmpNtst r.g r.vd r.ra r.rb s
  | .cmpEqImm => Sys2Proof.Machine.execCmpEqImm r.g r.vd r.ra r.imm21 s
  | .cmpNeImm => Sys2Proof.Machine.execCmpNeImm r.g r.vd r.ra r.imm21 s
  | .cmpLtImm => Sys2Proof.Machine.execCmpLtImm r.g r.vd r.ra r.imm21 s
  | .cmpGeImm => Sys2Proof.Machine.execCmpGeImm r.g r.vd r.ra r.imm21 s
  | .cmpLtuImm => Sys2Proof.Machine.execCmpLtuImm r.g r.vd r.ra r.imm21 s
  | .cmpGeuImm => Sys2Proof.Machine.execCmpGeuImm r.g r.vd r.ra r.imm21 s
  | .cmpGtImm => Sys2Proof.Machine.execCmpGtImm r.g r.vd r.ra r.imm21 s
  | .cmpLeImm => Sys2Proof.Machine.execCmpLeImm r.g r.vd r.ra r.imm21 s
  | .cmpGtuImm => Sys2Proof.Machine.execCmpGtuImm r.g r.vd r.ra r.imm21 s
  | .cmpLeuImm => Sys2Proof.Machine.execCmpLeuImm r.g r.vd r.ra r.imm21 s
  | .cmpTstImm => Sys2Proof.Machine.execCmpTstImm r.g r.vd r.ra r.imm21 s
  | .cmpNtstImm => Sys2Proof.Machine.execCmpNtstImm r.g r.vd r.ra r.imm21 s
  | .pand => Sys2Proof.Machine.execPand r.g r.vd r.va r.vb s
  | .por => Sys2Proof.Machine.execPor r.g r.vd r.va r.vb s
  | .pxor => Sys2Proof.Machine.execPxor r.g r.vd r.va r.vb s
  | .pnot => Sys2Proof.Machine.execPnot r.g r.vd r.va s
  | .fadd => Sys2Proof.Machine.execFadd r.g r.rd r.ra r.rb r.t r.rm s
  | .fsub => Sys2Proof.Machine.execFsub r.g r.rd r.ra r.rb r.t r.rm s
  | .fmul => Sys2Proof.Machine.execFmul r.g r.rd r.ra r.rb r.t r.rm s
  | .fdiv => Sys2Proof.Machine.execFdiv r.g r.rd r.ra r.rb r.t r.rm s
  | .fsqrt => Sys2Proof.Machine.execFsqrt r.g r.rd r.ra r.t r.rm s
  | .fmin => Sys2Proof.Machine.execFmin r.g r.rd r.ra r.rb r.t s
  | .fmax => Sys2Proof.Machine.execFmax r.g r.rd r.ra r.rb r.t s
  | .fcmpEq => Sys2Proof.Machine.execFcmpEq r.g r.vd r.ra r.rb r.t s
  | .fcmpNe => Sys2Proof.Machine.execFcmpNe r.g r.vd r.ra r.rb r.t s
  | .fcmpLt => Sys2Proof.Machine.execFcmpLt r.g r.vd r.ra r.rb r.t s
  | .fcmpLe => Sys2Proof.Machine.execFcmpLe r.g r.vd r.ra r.rb r.t s
  | .fcmpUn => Sys2Proof.Machine.execFcmpUn r.g r.vd r.ra r.rb r.t s
  | .fcvt => Sys2Proof.Machine.execFcvt r.g r.rd r.ra r.t r.t2 r.rm s
  | .fclass => Sys2Proof.Machine.execFclass r.g r.rd r.ra r.t s
  | .fma => Sys2Proof.Machine.execFma r.g r.rd r.ra r.rb r.rc r.t r.rm s
  | .fmaNa => Sys2Proof.Machine.execFmaNa r.g r.rd r.ra r.rb r.rc r.t r.rm s
  | .fmaNc => Sys2Proof.Machine.execFmaNc r.g r.rd r.ra r.rb r.rc r.t r.rm s
  | .fmaNaNc => Sys2Proof.Machine.execFmaNaNc r.g r.rd r.ra r.rb r.rc r.t r.rm s
  | .mov => Sys2Proof.Machine.execMov r.g r.rd r.ra s
  | .movF => Sys2Proof.Machine.execMovF r.g r.rd r.ra s
  | .mfs => Sys2Proof.Machine.execMfs r.g r.rd (r.x.extractLsb' 0 8) s
  | .mts => Sys2Proof.Machine.execMts r.g r.ra (r.x.extractLsb' 0 8) s
  | .pwdogWrite => Sys2Proof.Machine.execPwdogWrite r.g r.ra s
  | .bootcntWrite => Sys2Proof.Machine.execBootcntWrite r.g r.ra s
  | .br => Sys2Proof.Machine.execBr r.g (r.x.extractLsb' 5 22) (r.x.extractLsb' 0 5) s
  | .jmp => Sys2Proof.Machine.execJmp r.g r.rd s
  | .call => Sys2Proof.Machine.execCall r.g r.rd (r.x.extractLsb' 5 22) (r.x.extractLsb' 0 5) s
  | .callReg => Sys2Proof.Machine.execCallReg r.g r.rd r.ra s
  | .ret => Sys2Proof.Machine.execRet r.g r.rd s
  | .loop => Sys2Proof.Machine.execLoop r.g r.rd (r.x.extractLsb' 5 22) (r.x.extractLsb' 0 5) s
  | .ldB => Sys2Proof.Machine.execLdB r.g r.rd r.ra r.rb r.disp s
  | .ldH => Sys2Proof.Machine.execLdH r.g r.rd r.ra r.rb r.disp s
  | .ldW => Sys2Proof.Machine.execLdW r.g r.rd r.ra r.rb r.disp s
  | .ldD => Sys2Proof.Machine.execLdD r.g r.rd r.ra r.rb r.disp s
  | .ldsB => Sys2Proof.Machine.execLdsB r.g r.rd r.ra r.rb r.disp s
  | .ldsH => Sys2Proof.Machine.execLdsH r.g r.rd r.ra r.rb r.disp s
  | .ldsW => Sys2Proof.Machine.execLdsW r.g r.rd r.ra r.rb r.disp s
  | .ldBS => Sys2Proof.Machine.execLdBS r.g r.rd r.ra r.rb r.disp s
  | .ldHS => Sys2Proof.Machine.execLdHS r.g r.rd r.ra r.rb r.disp s
  | .ldWS => Sys2Proof.Machine.execLdWS r.g r.rd r.ra r.rb r.disp s
  | .ldDS => Sys2Proof.Machine.execLdDS r.g r.rd r.ra r.rb r.disp s
  | .ldsBS => Sys2Proof.Machine.execLdsBS r.g r.rd r.ra r.rb r.disp s
  | .ldsHS => Sys2Proof.Machine.execLdsHS r.g r.rd r.ra r.rb r.disp s
  | .ldsWS => Sys2Proof.Machine.execLdsWS r.g r.rd r.ra r.rb r.disp s
  | .stB => Sys2Proof.Machine.execStB r.g r.rd r.ra r.rb r.disp s
  | .stH => Sys2Proof.Machine.execStH r.g r.rd r.ra r.rb r.disp s
  | .stW => Sys2Proof.Machine.execStW r.g r.rd r.ra r.rb r.disp s
  | .stD => Sys2Proof.Machine.execStD r.g r.rd r.ra r.rb r.disp s
  | .stBS => Sys2Proof.Machine.execStBS r.g r.rd r.ra r.rb r.disp s
  | .stHS => Sys2Proof.Machine.execStHS r.g r.rd r.ra r.rb r.disp s
  | .stWS => Sys2Proof.Machine.execStWS r.g r.rd r.ra r.rb r.disp s
  | .stDS => Sys2Proof.Machine.execStDS r.g r.rd r.ra r.rb r.disp s
  | .vld => Sys2Proof.Machine.execVld r.g r.vd r.ra r.rb r.t r.m s
  | .vldS => Sys2Proof.Machine.execVldS r.g r.vd r.ra r.rb r.t r.m s
  | .vgather => Sys2Proof.Machine.execVgather r.g r.vd r.ra r.vb r.t r.m s
  | .vst => Sys2Proof.Machine.execVst r.g r.vd r.ra r.rb r.t r.m s
  | .vscatter => Sys2Proof.Machine.execVscatter r.g r.vd r.ra r.vb r.t r.m s
  | .ldsync => Sys2Proof.Machine.execLdsync r.g r.rd r.ra r.disp s
  | .ldsyncKeep => Sys2Proof.Machine.execLdsyncKeep r.g r.rd r.ra r.disp s
  | .stsync => Sys2Proof.Machine.execStsync r.g r.rd r.ra r.disp s
  | .stfill => Sys2Proof.Machine.execStfill r.g r.rd r.ra r.disp s
  | .feset => Sys2Proof.Machine.execFeset r.g r.ra r.disp s
  | .feclr => Sys2Proof.Machine.execFeclr r.g r.ra r.disp s
  | .feread => Sys2Proof.Machine.execFeread r.g r.rd r.ra r.disp s
  | .amoAdd => Sys2Proof.Machine.execAmoAdd r.g r.rd r.ra r.rb r.t (Ord.ofCode (r.x.extractLsb' 9 2)) (Scope.ofCode (r.x.extractLsb' 7 2)) s
  | .amoAnd => Sys2Proof.Machine.execAmoAnd r.g r.rd r.ra r.rb r.t (Ord.ofCode (r.x.extractLsb' 9 2)) (Scope.ofCode (r.x.extractLsb' 7 2)) s
  | .amoOr => Sys2Proof.Machine.execAmoOr r.g r.rd r.ra r.rb r.t (Ord.ofCode (r.x.extractLsb' 9 2)) (Scope.ofCode (r.x.extractLsb' 7 2)) s
  | .amoXor => Sys2Proof.Machine.execAmoXor r.g r.rd r.ra r.rb r.t (Ord.ofCode (r.x.extractLsb' 9 2)) (Scope.ofCode (r.x.extractLsb' 7 2)) s
  | .amoMin => Sys2Proof.Machine.execAmoMin r.g r.rd r.ra r.rb r.t (Ord.ofCode (r.x.extractLsb' 9 2)) (Scope.ofCode (r.x.extractLsb' 7 2)) s
  | .amoMax => Sys2Proof.Machine.execAmoMax r.g r.rd r.ra r.rb r.t (Ord.ofCode (r.x.extractLsb' 9 2)) (Scope.ofCode (r.x.extractLsb' 7 2)) s
  | .amoSwap => Sys2Proof.Machine.execAmoSwap r.g r.rd r.ra r.rb r.t (Ord.ofCode (r.x.extractLsb' 9 2)) (Scope.ofCode (r.x.extractLsb' 7 2)) s
  | .amoCas => Sys2Proof.Machine.execAmoCas r.g r.rd r.ra r.rb r.rc r.t (Ord.ofCode (r.x.extractLsb' 9 2)) (Scope.ofCode (r.x.extractLsb' 7 2)) s
  | .fence => Sys2Proof.Machine.execFence r.g (Ord.ofCode (r.x.extractLsb' 9 2)) (Scope.ofCode (r.x.extractLsb' 7 2)) s
  | .plbload => Sys2Proof.Machine.execPlbload r.g r.rd r.ra s
  | .plbinval => Sys2Proof.Machine.execPlbinval r.g (if r.x.getLsbD 0 then none else some r.ra) (if r.x.getLsbD 1 then some r.rb else none) s
  | .scflush => Sys2Proof.Machine.execScflush r.g r.ra r.rb s
  | .scinval => Sys2Proof.Machine.execScinval r.g r.ra s
  | .prefetch => Sys2Proof.Machine.execPrefetch r.g r.ra s
  | .prefetchW => Sys2Proof.Machine.execPrefetchW r.g r.ra s
  | .vaddInt => Sys2Proof.Machine.execVaddInt r.g r.vd r.va r.vb r.t r.sat r.m s
  | .vsubInt => Sys2Proof.Machine.execVsubInt r.g r.vd r.va r.vb r.t r.sat r.m s
  | .vmulInt => Sys2Proof.Machine.execVmulInt r.g r.vd r.va r.vb r.t r.sat r.m s
  | .vminInt => Sys2Proof.Machine.execVminInt r.g r.vd r.va r.vb r.t r.m s
  | .vmaxInt => Sys2Proof.Machine.execVmaxInt r.g r.vd r.va r.vb r.t r.m s
  | .vabsInt => Sys2Proof.Machine.execVabsInt r.g r.vd r.va r.t r.sat r.m s
  | .vnegInt => Sys2Proof.Machine.execVnegInt r.g r.vd r.va r.t r.sat r.m s
  | .vshl => Sys2Proof.Machine.execVshl r.g r.vd r.va r.vb r.t r.sat r.m s
  | .vshr => Sys2Proof.Machine.execVshr r.g r.vd r.va r.vb r.t r.m s
  | .vsar => Sys2Proof.Machine.execVsar r.g r.vd r.va r.vb r.t r.m s
  | .vrand => Sys2Proof.Machine.execVrand r.g r.vd r.ra r.rb r.t r.m s
  | .vaddIntScalar => Sys2Proof.Machine.execVaddIntScalar r.g r.vd r.va r.rb r.t r.sat r.m s
  | .vsubIntScalar => Sys2Proof.Machine.execVsubIntScalar r.g r.vd r.va r.rb r.t r.sat r.m s
  | .vmulIntScalar => Sys2Proof.Machine.execVmulIntScalar r.g r.vd r.va r.rb r.t r.sat r.m s
  | .vminIntScalar => Sys2Proof.Machine.execVminIntScalar r.g r.vd r.va r.rb r.t r.m s
  | .vmaxIntScalar => Sys2Proof.Machine.execVmaxIntScalar r.g r.vd r.va r.rb r.t r.m s
  | .vshlScalar => Sys2Proof.Machine.execVshlScalar r.g r.vd r.va r.rb r.t r.sat r.m s
  | .vshrScalar => Sys2Proof.Machine.execVshrScalar r.g r.vd r.va r.rb r.t r.m s
  | .vsarScalar => Sys2Proof.Machine.execVsarScalar r.g r.vd r.va r.rb r.t r.m s
  | .vaddFp => Sys2Proof.Machine.execVaddFp r.g r.vd r.va r.vb r.t r.rm r.m s
  | .vsubFp => Sys2Proof.Machine.execVsubFp r.g r.vd r.va r.vb r.t r.rm r.m s
  | .vmulFp => Sys2Proof.Machine.execVmulFp r.g r.vd r.va r.vb r.t r.rm r.m s
  | .vminFp => Sys2Proof.Machine.execVminFp r.g r.vd r.va r.vb r.t r.m s
  | .vmaxFp => Sys2Proof.Machine.execVmaxFp r.g r.vd r.va r.vb r.t r.m s
  | .vabsFp => Sys2Proof.Machine.execVabsFp r.g r.vd r.va r.t r.m s
  | .vnegFp => Sys2Proof.Machine.execVnegFp r.g r.vd r.va r.t r.m s
  | .vaddFpScalar => Sys2Proof.Machine.execVaddFpScalar r.g r.vd r.va r.rb r.t r.rm r.m s
  | .vsubFpScalar => Sys2Proof.Machine.execVsubFpScalar r.g r.vd r.va r.rb r.t r.rm r.m s
  | .vmulFpScalar => Sys2Proof.Machine.execVmulFpScalar r.g r.vd r.va r.rb r.t r.rm r.m s
  | .vminFpScalar => Sys2Proof.Machine.execVminFpScalar r.g r.vd r.va r.rb r.t r.m s
  | .vmaxFpScalar => Sys2Proof.Machine.execVmaxFpScalar r.g r.vd r.va r.rb r.t r.m s
  | .vfma => Sys2Proof.Machine.execVfma r.g r.vd r.va r.vb r.vc r.t r.rm r.m s
  | .vfmaNa => Sys2Proof.Machine.execVfmaNa r.g r.vd r.va r.vb r.vc r.t r.rm r.m s
  | .vfmaNc => Sys2Proof.Machine.execVfmaNc r.g r.vd r.va r.vb r.vc r.t r.rm r.m s
  | .vfmaNaNc => Sys2Proof.Machine.execVfmaNaNc r.g r.vd r.va r.vb r.vc r.t r.rm r.m s
  | .vcmpEq => Sys2Proof.Machine.execVcmpEq r.g r.md r.va r.vb r.t r.m s
  | .vcmpNe => Sys2Proof.Machine.execVcmpNe r.g r.md r.va r.vb r.t r.m s
  | .vcmpLt => Sys2Proof.Machine.execVcmpLt r.g r.md r.va r.vb r.t r.m s
  | .vcmpLe => Sys2Proof.Machine.execVcmpLe r.g r.md r.va r.vb r.t r.m s
  | .vcmpGt => Sys2Proof.Machine.execVcmpGt r.g r.md r.va r.vb r.t r.m s
  | .vcmpGe => Sys2Proof.Machine.execVcmpGe r.g r.md r.va r.vb r.t r.m s
  | .vcmpUn => Sys2Proof.Machine.execVcmpUn r.g r.md r.va r.vb r.t r.m s
  | .vcmpEqScalar => Sys2Proof.Machine.execVcmpEqScalar r.g r.md r.va r.rb r.t r.m s
  | .vcmpNeScalar => Sys2Proof.Machine.execVcmpNeScalar r.g r.md r.va r.rb r.t r.m s
  | .vcmpLtScalar => Sys2Proof.Machine.execVcmpLtScalar r.g r.md r.va r.rb r.t r.m s
  | .vcmpLeScalar => Sys2Proof.Machine.execVcmpLeScalar r.g r.md r.va r.rb r.t r.m s
  | .vcmpGtScalar => Sys2Proof.Machine.execVcmpGtScalar r.g r.md r.va r.rb r.t r.m s
  | .vcmpGeScalar => Sys2Proof.Machine.execVcmpGeScalar r.g r.md r.va r.rb r.t r.m s
  | .vcmpUnScalar => Sys2Proof.Machine.execVcmpUnScalar r.g r.md r.va r.rb r.t r.m s
  | .vsel => Sys2Proof.Machine.execVsel r.g r.vd r.va r.vb r.t (r.x.extractLsb' 7 2) s
  | .vcompress => Sys2Proof.Machine.execVcompress r.g r.vd r.va r.rc r.t r.m s
  | .vexpand => Sys2Proof.Machine.execVexpand r.g r.vd r.va r.t r.m s
  | .vperm => Sys2Proof.Machine.execVperm r.g r.vd r.va r.vb r.t r.m s
  | .vbcast => Sys2Proof.Machine.execVbcast r.g r.vd r.ra r.t r.m s
  | .vredAdd => Sys2Proof.Machine.execVredAdd r.g r.rd r.va r.t r.sat r.rm r.m s
  | .vredMax => Sys2Proof.Machine.execVredMax r.g r.rd r.va r.t r.m s
  | .vredMin => Sys2Proof.Machine.execVredMin r.g r.rd r.va r.t r.m s
  | .vredmaxIdx => Sys2Proof.Machine.execVredmaxIdx r.g r.rd r.va r.rc r.t r.m s
  | .vredminIdx => Sys2Proof.Machine.execVredminIdx r.g r.rd r.va r.rc r.t r.m s
  | .vscanAdd => Sys2Proof.Machine.execVscanAdd r.g r.vd r.va r.t r.sat r.rm r.m s
  | .vcvt => Sys2Proof.Machine.execVcvt r.g r.vd r.va (r.b.extractLsb' 0 3) r.t r.t2 r.rm s
  | .vlog2 => Sys2Proof.Machine.execVlog2 r.g r.vd r.va r.rm r.m s
  | .vexp2 => Sys2Proof.Machine.execVexp2 r.g r.vd r.va r.rm r.m s
  | .vrcp => Sys2Proof.Machine.execVrcp r.g r.vd r.va r.rm r.m s
  | .vrsqrt => Sys2Proof.Machine.execVrsqrt r.g r.vd r.va r.rm r.m s
  | .vsqrt => Sys2Proof.Machine.execVsqrt r.g r.vd r.va r.rm r.m s
  | .vsin => Sys2Proof.Machine.execVsin r.g r.vd r.va r.rm r.m s
  | .vcos => Sys2Proof.Machine.execVcos r.g r.vd r.va r.rm r.m s
  | .vdiv => Sys2Proof.Machine.execVdiv r.g r.vd r.va r.vb r.t r.rm r.m s
  | .vrem => Sys2Proof.Machine.execVrem r.g r.vd r.va r.vb r.t r.m s
  | .vdivScalar => Sys2Proof.Machine.execVdivScalar r.g r.vd r.va r.rb r.t r.rm r.m s
  | .vremScalar => Sys2Proof.Machine.execVremScalar r.g r.vd r.va r.rb r.t r.m s
  | .sbind => Sys2Proof.Machine.execSbind r.g (r.d.extractLsb' 0 2) r.ra r.rb r.rc s
  | .sunbind => Sys2Proof.Machine.execSunbind r.g (r.d.extractLsb' 0 2) s
  | .stest => Sys2Proof.Machine.execStest r.g r.rd (r.a.extractLsb' 0 2) s
  | .vmovg => Sys2Proof.Machine.execVmovg r.g r.rd r.va r.rb r.t s
  | .gmovv => Sys2Proof.Machine.execGmovv r.g r.vd r.ra r.rb r.t s
  | .vand => Sys2Proof.Machine.execVand r.g r.vd r.va r.vb r.t r.m s
  | .vor => Sys2Proof.Machine.execVor r.g r.vd r.va r.vb r.t r.m s
  | .vxor => Sys2Proof.Machine.execVxor r.g r.vd r.va r.vb r.t r.m s
  | .vnot => Sys2Proof.Machine.execVnot r.g r.vd r.va r.t r.m s
  | .vandScalar => Sys2Proof.Machine.execVandScalar r.g r.vd r.va r.rb r.t r.m s
  | .vorScalar => Sys2Proof.Machine.execVorScalar r.g r.vd r.va r.rb r.t r.m s
  | .vxorScalar => Sys2Proof.Machine.execVxorScalar r.g r.vd r.va r.rb r.t r.m s
  | .fork => Sys2Proof.Machine.execFork r.g r.rd r.ra r.rb (r.x.getLsbD 7) (r.x.getLsbD 6) (r.x.extractLsb' 4 2) (r.x.extractLsb' 0 4) s
  | .join => Sys2Proof.Machine.execJoin r.g r.ra s
  | .spawn => Sys2Proof.Machine.execSpawn r.g r.rd r.ra r.rb s
  | .halt => Sys2Proof.Machine.execHalt r.g s
  | .yield => Sys2Proof.Machine.execYield r.g r.rd s
  | .lend => Sys2Proof.Machine.execLend r.g (r.x.getLsbD 0) s
  | .pin => Sys2Proof.Machine.execPin r.g r.rd (r.x.getLsbD 0) s
  | .callat => Sys2Proof.Machine.execCallat r.g r.rd r.ra r.rb s
  | .retm => Sys2Proof.Machine.execRetm r.g r.ra s
  | .msend => Sys2Proof.Machine.execMsend r.g r.ra r.rb (r.x.extractLsb' 0 8) s
  | .mrecv => Sys2Proof.Machine.execMrecv r.g r.rd r.rc s
  | .mwait => Sys2Proof.Machine.execMwait r.g r.rd s
  | .mtry => Sys2Proof.Machine.execMtry r.g r.rd r.rc (r.x.extractLsb' 0 3) s
  | .ksig => Sys2Proof.Machine.execKsig r.g r.ra (r.x.extractLsb' 0 8) s
  | .ksub => Sys2Proof.Machine.execKsub r.g r.ra (r.x.extractLsb' 0 8) s
  | .kwait => Sys2Proof.Machine.execKwait r.g r.ra (r.x.extractLsb' 0 8) s
  | .kset => Sys2Proof.Machine.execKset r.g r.ra (r.x.extractLsb' 0 8) s
  | .kread => Sys2Proof.Machine.execKread r.g r.rd (r.x.extractLsb' 0 8) s
  | .ttarm => Sys2Proof.Machine.execTtarm r.g r.rd r.ra r.rb (r.x.extractLsb' 0 8) s
  | .ttcancel => Sys2Proof.Machine.execTtcancel r.g r.rd r.ra s
  | .qbind => Sys2Proof.Machine.execQbind r.g ((r.d - 24#5).extractLsb' 0 2) (PortMode.ofX r.disp) s
  | .qstat => Sys2Proof.Machine.execQstat r.g r.rd (r.x.extractLsb' 0 4) s
  | .roam => Sys2Proof.Machine.execRoam r.g r.ra s
  | .mma => Sys2Proof.Machine.execMma r.g r.rd r.ra r.rb r.rc (r.yb 7) (r.yb 6) (r.yb 5) (r.yb 4) (r.y.extractLsb' 0 4) r.td s
  | .accld => Sys2Proof.Machine.execAccld r.g r.rd r.ra r.rc (r.yb 7) (r.y.extractLsb' 0 4) r.td s
  | .accst => Sys2Proof.Machine.execAccst r.g r.rd r.ra r.rb r.rc (r.yb 7) (r.yb 6) (r.y.extractLsb' 4 2) (r.y.extractLsb' 0 4) r.td s
  | .acczero => Sys2Proof.Machine.execAcczero r.g r.rd r.rc (r.yb 7) (r.y.extractLsb' 0 4) r.td s
  | .mpack => Sys2Proof.Machine.execMpack r.g r.rd r.ra r.rb (r.yb 7) r.td s
  | .munpack => Sys2Proof.Machine.execMunpack r.g r.rd r.ra r.rb (r.yb 7) r.td s
  | .mwaitj => Sys2Proof.Machine.execMwaitj r.g r.rd r.ra s
  | .mpoll => Sys2Proof.Machine.execMpoll r.g r.rd r.ra s
  | .mwake => Sys2Proof.Machine.execMwake r.g s
  | .cpy => Sys2Proof.Machine.execCpy r.g r.rd r.ra r.rb r.rc (r.yb 6) (Dim.ofCode (r.y.extractLsb' 0 2)) r.td s
  | .cpyMc => Sys2Proof.Machine.execCpyMc r.g r.rd r.ra r.rb r.rc (r.y.extractLsb' 7 8) (r.yb 6) (Dim.ofCode (r.y.extractLsb' 0 2)) r.td s
  | .cpyLb => Sys2Proof.Machine.execCpyLb r.g r.rd r.ra r.rb r.rc (r.yb 6) (r.yb 5) (r.y.extractLsb' 3 2) r.td s
  | .cpyRing => Sys2Proof.Machine.execCpyRing r.g r.rd r.ra r.rb r.rc (r.yb 6) (Dim.ofCode (r.y.extractLsb' 0 2)) r.td s
  | .ksproj => Sys2Proof.Machine.execKsproj r.g r.ra (r.y.extractLsb' 0 5) r.td s
  | .kstore => Sys2Proof.Machine.execKstore r.g r.ra r.rb r.rc (r.y.extractLsb' 0 5) r.td s
  | .kgather => Sys2Proof.Machine.execKgather r.g r.rd r.ra r.rb r.rc (r.yb 8) (r.y.extractLsb' 6 2) (r.y.extractLsb' 0 5) r.td s
  | .kfence => Sys2Proof.Machine.execKfence r.g r.td s
  | .kstat => Sys2Proof.Machine.execKstat r.g r.rd r.td s
  | .kbuild => Sys2Proof.Machine.execKbuild r.g r.ra (r.y.extractLsb' 0 5) r.td s
  | .rinv => Sys2Proof.Machine.execRinv r.g r.rd r.ra r.td s
  | .rinvT => Sys2Proof.Machine.execRinvT r.g r.rd r.ra r.td s
  | .rinvCard => Sys2Proof.Machine.execRinvCard r.g r.rd r.ra r.rb r.td s
  | .lzcfg => Sys2Proof.Machine.execLzcfg r.g r.rd r.ra (r.y.extractLsb' 0 4) r.td s
  | .lzres => Sys2Proof.Machine.execLzres r.g r.rd r.ra r.td s
  | .lzrel => Sys2Proof.Machine.execLzrel r.g r.rd r.ra r.td s
  | .lzcpy => Sys2Proof.Machine.execLzcpy r.g r.rd r.ra r.rb r.rc (r.yb 8) (r.y.extractLsb' 0 8) r.td s
  | .sigupd => Sys2Proof.Machine.execSigupd r.g r.ra r.rb (SigOp.ofCode (r.y.extractLsb' 0 2)) r.td s
  | .sigwait => Sys2Proof.Machine.execSigwait r.g r.ra r.rb (Cmp.ofCode (r.y.extractLsb' 0 2)) r.td s
  | .migpt => Sys2Proof.Machine.execMigpt r.g s
  | .trig => Sys2Proof.Machine.execTrig r.g r.rd r.ra (r.x.extractLsb' 0 4) s
  | .wakeGo => Sys2Proof.Machine.execWakeGo r.g r.rd r.ra s
  | .wakeHold => Sys2Proof.Machine.execWakeHold r.g r.rd r.ra s
  | .wakeDrop => Sys2Proof.Machine.execWakeDrop r.g r.rd r.ra s
  | .pair => Sys2Proof.Machine.execPair r.g r.rd r.ra r.rb s
  | .heelack => Sys2Proof.Machine.execHeelack r.g r.ra s
  | .eresume => Sys2Proof.Machine.execEresume r.g r.rd r.ra s
  | .ekill => Sys2Proof.Machine.execEkill r.g r.rd r.ra s

end Sys2Proof.Machine
end

