-- ==== Sys2Proof/Machine/Issue.lean ====
section
/-! DEFINITION. A thread's own cycle: the decoding of the head it stands at (01 R32, 02 R58), the first line entry of a
launched thread (R31), the reissue of a parked instruction, and the form of an event. -/

namespace Sys2Proof.Machine

/-- An event: its next state, or a refusal by name where its occasion is not present. -/
def event (name : String) (o : Option State) : Host.Outcome State Fault Refusal :=
  match o with
  | some s => .next s
  | none => .refused (.cannotOccur name)

/-- The head a thread stands at, decoded, when its line is entered (R43, R58). -/
def Thread.decoded (t : Thread) : Option (Except DecodeError (Op × Raw)) :=
  match t.line with
  | some l =>
    if l.num = Exec.lineNum t.pc then
      let w := Exec.headTail l.bytes (Exec.headIdx t.pc)
      some (decodeForm w.1 w.2)
    else none
  | none => none

/-- The trap of a head that is no instruction (R58). -/
def decodeFault : DecodeError → Byte
  | .illegal => 0x01#8
  | .malformed => 0x02#8

/-- Execute the instruction a thread stands at, in a line it has entered. -/
def State.runHead (s : State) (core slot : Nat) : Host.Outcome State Fault Refusal :=
  match s.thread core slot with
  | none => .next s
  | some t => match t.decoded with
    | some (.ok (o, r)) => runOp o r s
    | some (.error e) => .next (s.takeTrap core slot { code := decodeFault e, pc := t.pc, rpc := t.pc })
    | none => .next s

/-- The line of the pc is entered before the first instruction of a launch or a resume (R31, R32). -/
def State.enterHere (s : State) (core slot : Nat) (t : Thread) : State :=
  let e : Env := { core := core, slot := slot, s := s, keep := s, th := t }
  let body : Exec Unit := do
    let l ← Exec.enter t.pc
    Exec.modS fun s => s.setThread core slot { t with line := some l, fetched := none, filled := [], lineParked := false, run := .ready }
  match body e with
  | .ok _ e => e.s
  | .error (.trap st) e => e.keep.takeTrap core slot st
  | .error (.park w c a) e => Exec.parked e w c a
  | .error _ e => e.keep

/-- A late refusal stops a thread at an instruction boundary (R377): the record is imprecise and names the request. -/
def State.takeRefusal (s : State) (core slot : Nat) (t : Thread) : State :=
  match t.refusal with
  | some (code, seq, addr) =>
    (s.setThread core slot { t with refusal := none }).takeTrap core slot
      { code := code, pc := t.pc, rpc := t.pc, addr := addr, imp := true, seq := seq }
  | none => s

/-- The waits whose request another unit has accepted: such an instruction completes before its thread stops (R168, R377). -/
def Wait.accepted : Wait → Bool
  | .request | .sync true | .unit | .kse | .answer | .pair | .elem _ | .due true => true
  | _ => false

/-- An accepted wait whose request may wait for a page while its thread is evicted (R168, R170, R244); a scattered store that has begun
goes on in its slot (R124). -/
def Wait.leaves : Wait → Bool
  | .elem _ => false
  | _ => true

/-- The accepted waits that end in the thread's own cycles, in which an instruction that is to be saved comes to its end (R168). -/
def Wait.ending : Wait → Bool
  | .elem true | .due true => true
  | _ => false

/-- A noted refusal stops its thread now: at an instruction boundary, or in a park that no unit has accepted, which it abandons
(R168, R377). -/
def Thread.refusalDue (t : Thread) : Bool :=
  t.refusal.isSome && (match t.run with
    | .ready => true
    | .parked w _ _ => !w.accepted
    | _ => false)

/-- A heel has frozen the threads of a core; the plinth keeps running (R405). -/
def State.frozen (s : State) (core : Nat) : Bool := s.heel.freeze == .frozen && !s.isPlinth core

/-- A cycle of a thread: it issues its instruction, or tries a parked one again. A launch from a poisoned entry traps first
(R186). -/
def State.runAt (s : State) (core slot : Nat) : Host.Outcome State Fault Refusal :=
  let s := { s with cur := some (core, slot) }
  match s.thread core slot with
  | none => .next s
  | some t =>
    if t.refusalDue then .next (s.takeRefusal core slot t)
    else if t.poisoned then
      .next ((s.setThread core slot { t with poisoned := false }).takeTrap core slot { code := 0x27#8, pc := t.pc, rpc := t.pc })
    else if t.decoded.isSome then s.runHead core slot
    else (s.enterHere core slot t).runHead core slot

/-- The state after a cycle of a thread. -/
def State.reissue (s : State) (core slot : Nat) : State :=
  match s.runAt core slot with
  | .next s => s
  | _ => s

/-- The thread is parked on a wait that a test accepts. -/
def State.parkedOn (s : State) (core slot : Nat) (ok : Wait → Bool) : Bool :=
  match s.thread core slot with
  | some t => match t.run with
    | .parked w _ _ => ok w
    | _ => false
  | none => false

/-- The instructions that act on the semaphore file or the waiting-task table in step 1 of a cycle of their own (R219-R222). -/
def Op.ownStep (o : Op) : Bool := [Op.ksig, .ksub, .kwait, .kset, .kread, .ttarm, .ttcancel].contains o

/-- The thread goes on in a cycle of its own: its instruction is one of these, or the first of a launch or a resume, whose line it
has yet to enter (R187). -/
def Thread.ownStep (t : Thread) : Bool :=
  match t.decoded with
  | some (.ok (o, _)) => Op.ownStep o
  | some (.error _) => false
  | none => true

/-- What a parked thread waited for has come. Its instruction goes on at once, or in the thread's next own cycle, which steps 2 and 3
of R219 follow. -/
def State.comeBack (s : State) (core slot : Nat) : State :=
  match s.thread core slot with
  | some t => match t.run with
    | .parked w lim wc =>
      if t.ownStep then s.setThread core slot { t with run := .parked (.due w.accepted) lim wc } else s.reissue core slot
    | _ => s.reissue core slot
  | none => s

/-- Give a parked thread an answer, with which its instruction goes on. -/
def State.answerThread (s : State) (core slot : Nat) (r : Reply) : State :=
  (s.updThread core slot fun t => { t with replies := t.replies ++ [r] }).comeBack core slot

/-- Run again every resident parked instruction whose wait passes a test, on the cores that pass. -/
def State.reissueAll (s : State) (cores : Nat → Bool) (ok : Thread → Wait → Bool) : State :=
  (s.cores.filter fun c => cores c.1).foldl (fun s c =>
    c.2.slots.foldl (fun s p => match p.2.run with
      | .parked w _ _ => if ok p.2 w then s.reissue c.1 p.1 else s
      | _ => s) s) s

/-- Make eligible the saved threads of a core whose wait passes a test (R170). -/
def Core.wakeSaved (c : Core) (ok : Thread → Wait → Bool) : Core :=
  c.saved.foldl (fun (c : Core) p => match p.2.th.run with
    | .parked w _ _ => if ok p.2.th w then c.makeEligible p.1 else c
    | _ => c) c

/-- The same on the cores that pass. -/
def State.wakeSaved (s : State) (cores : Nat → Bool) (ok : Thread → Wait → Bool) : State :=
  { s with cores := Tab.mapV s.cores fun n c => if cores n then c.wakeSaved ok else c }

/-- The same everywhere, the cores of contexts that the plinth has saved among them (R170, R383). -/
def State.wakeAllSaved (s : State) (ok : Thread → Wait → Bool) : State :=
  { s.wakeSaved (fun _ => true) ok with
    ctxs := Tab.mapV s.ctxs fun _ x => { x with package := { x.package with cores := x.package.cores.map (·.wakeSaved ok) } } }

/-- The waits that the thread tries again in its own cycles. -/
def Wait.polls : Wait → Bool
  | .port | .sbRoom | .sbEmpty | .outst | .sync false | .mail | .sem | .inbox | .binding | .callerMail | .copyReg | .meQueue
  | .kseQueue | .kfence | .wakeGo _ _ | .sigwait | .inval | .elem true | .due _ => true
  | _ => false

/-- wake.go or wake.hold waits for a state of an island that is reached at `st` (R170, R395). -/
def Wait.onIsland (island : Nat) (st : PState) : Wait → Bool
  | .wakeGo n target => n == island && decide (st.depth ≤ target.depth)
  | _ => false

def Wait.isJoin : Wait → Bool
  | .join _ => true
  | _ => false

/-- The waits whose rotations wlim bounds (R24). -/
def Wait.counted : Wait → Bool
  | .port | .sync _ | .sem | .inbox | .binding | .callerMail | .sigwait => true
  | _ => false

end Sys2Proof.Machine
end

