-- ==== Sys2Proof/Machine/EvMem.lean ====
section
/-! DEFINITION. Events of the memory system: home agents (08 R243-R246), atomic units (09 R266), responses, rights fills
(R236), line fetches (06 R187), acknowledgements and late refusals (13 R377), host atomics (R271-R273), releases (R255). -/

namespace Sys2Proof.Machine

/-! ### Serving an access at its place (R243, R266, R270) -/

/-- The new value of a signal word (R455). -/
def signalNew (op : SigOp) (old v : Word) : Word :=
  match op with
  | .st => v
  | .add => old + v
  | .or => old ||| v

/-- The answer that a synchronising attempt which failed brings back (R264). -/
def failedAttempt : Reply := .err 0#8

/-- An access performed on die memory as one step (R243, R266, R269). -/
def State.serve (s : State) (a : Nat) (acc : Access) : Reply × State :=
  if s.fencedAt a then (.err 0x72#8, s) else
  match acc with
  | .read n => (.val (BitVec.ofNat 512 (s.read a n)), s)
  | .write d en => (.val 0, s.writeEn a d en)
  | .amo op wide signed _ b c =>
    let r := s.amoStep a op wide signed b c
    (.val (BitVec.ofNat 512 r.1), r.2)
  | .sync op data => match s.syncStep a op data with
    | some (v, s) => (.val (v.zeroExtend 512), s)
    | none => (failedAttempt, s)
  | .signal op v => (.val 0, s.write a 8 (signalNew op (s.word a) v).toNat)
  | _ => (.err 0x20#8, s)

/-- A refusal or a link failure outside (R245). -/
def extReply : ExtReply → Reply
  | .data l => .val (ofBytes l)
  | .err link => .err (if link then 0x21#8 else 0x20#8)

/-- An access to DRAM in self-refresh starts the exit and waits for it (R394). -/
def State.dramExit? (s : State) (k : Option State) : Option State :=
  if s.selfRefresh then (if s.dramExit then none else some { s with dramExit := true }) else k.map State.touchDram

/-- An access at a canonical address that reaches DRAM unless its line is in the bank (R243, R394). -/
def State.dramExits (s : State) (p : Word) (k : Option State) : Option State :=
  if (s.bankLine p).isSome then k else s.dramExit? k

/-! ### Requests and their answers -/

def State.req (s : State) (n : Nat) : Option Req := s.reqs.get? n
def State.setReq (s : State) (n : Nat) (r : Req) : State := { s with reqs := Tab.set s.reqs n r }
def State.dropReq (s : State) (n : Nat) : State := { s with reqs := Tab.erase s.reqs n }

/-- The other thread of a pair. -/
def State.twinOf (s : State) (core slot : Nat) : Option (Nat × Nat) :=
  match s.thread core slot with
  | some t => t.twin.map fun w => (w.1, w.2.1)
  | none => none

/-- An answer for a saved thread: it becomes eligible and issues its instruction afresh; a join only once its counter reads
zero, or cannot be read (R170). -/
def State.answerSaved (s : State) (core n : Nat) (r : Reply) : State :=
  match (s.core core).saved.get? n, r with
  | some { th := { run := .parked (.join _) _ _, .. }, .. }, .val v => if v.setWidth 64 = 0#64 then s.updCore core fun c => c.makeEligible n else s
  | _, _ => s.updCore core fun c => c.makeEligible n

/-- Bring an answer to the thread that waits for it, and to its twin (R122, R409). -/
def State.deliverTo (s : State) (core slot : Nat) (r : Reply) : State :=
  if 16 ≤ slot then s.answerSaved core (slot - 16) r
  else
    let s1 := s.answerThread core slot r
    match s.twinOf core slot with
    | some (c, k) => s1.answerThread c k r
    | none => s1

/-- Record the answer of a request: a counted request keeps its outcome for its acknowledgement (R377), another waits for
its response. -/
def State.answered (s : State) (n : Nat) (r : Req) (a : Reply) : State :=
  match r.src with
  | .store _ _ _ =>
    let o : Option Byte := match a with
      | .val _ => none
      | .err c => some c
    { s.dropReq n with inflight := Tab.update s.inflight n fun i => { i with outcome := some o } }
  | .nobody => s.dropReq n
  | _ => s.setReq n { r with st := .answered a }

/-! ### Host memory: posted writes, reads, atomics (R256, R271-R273, R429) -/

/-- The enabled bytes of a store as runs of consecutive bytes. -/
def runsOf (d : Vec) (en : BitVec 64) : List (Nat × List Byte) :=
  ((List.range 64).filter fun i => en.getLsbD i).foldl (fun (l : List (Nat × List Byte)) i =>
    let b : Byte := d.extractLsb' (8 * i) 8
    match l.getLast? with
    | some (o, bs) => if o + bs.length = i then l.dropLast ++ [(o, bs ++ [b])] else l ++ [(i, [b])]
    | none => [(i, [b])]) []

/-- Posted writes of a context to host memory at `a`, the canonical address `p`: ordinary ones have Relaxed Ordering (R256). -/
def State.hostStore (s : State) (n : Nat) (p : Word) (a : Nat) (d : Vec) (en : BitVec 64) (relaxed : Bool) : State :=
  (runsOf d en).foldl (fun s r => s.hostWrite n (p + Word.ofNat r.1) (a + r.1) r.2 relaxed) s

/-- Enter a range as mediated, most recently used (R271). -/
def State.enterRoute (s : State) (a : Word) : State :=
  { s with routes := (routeRange a :: s.routes.filter (· != routeRange a)).take 256 }

/-- A store that writes no byte asks only for its page (R124). -/
def isProbe : Access → Bool
  | .write _ 0 => true
  | _ => false

def isAmo : Access → Bool
  | .amo _ _ _ _ _ _ => true
  | _ => false

/-- Direct AtomicOps to a range that have been sent and not answered; mediated requests posted for it (R271). -/
def State.directBusy (s : State) (a : Word) : Bool :=
  s.reqs.any fun p => p.2.st == .sent none && isAmo p.2.acc && routeRange p.2.addr == routeRange a
def State.mediatedBusy (s : State) (a : Word) : Bool :=
  s.reqs.any fun p => (match p.2.st with
    | .mediated _ => true
    | _ => false) && routeRange p.2.addr == routeRange a

/-- The F of an atomic (R56) and its type code (R268). -/
def amoF : AmoOp → Nat
  | .add => 0
  | .and => 1
  | .or => 2
  | .xor => 3
  | .min => 4
  | .max => 5
  | .swap => 6
  | .cas => 7
def amoT (wide signed : Bool) : Nat := if signed then (if wide then 7 else 6) else (if wide then 0xB else 0xA)

/-- Post a mediated request under the lowest free tag (R429). -/
def State.postMediated (s : State) (n : Nat) (r : Req) (host : Nat) : Option State :=
  let h := s.host
  match r.acc, h.tags.free 0 256 with
  | .amo op wide signed _ b c, some tag =>
    if ringFull h.mqlog h.mqwr h.mqrd then none else
    let i := h.mqwr.toNat
    let at_ := h.mqbase.toNat + 32 * (i % 2 ^ h.mqlog)
    let w0 := fields [(i / 2 ^ h.mqlog % 2, 63), (r.ctx, 40), (tag, 32), (amoT wide signed, 16), (if wide then 8 else 4, 8), (amoF op, 0)]
    let s := s.emit (.hostWrite (at_ + 8) (wordBytes (Word.ofNat host) ++ wordBytes b ++ wordBytes (if op = .cas then c else 0)) false)
    let s := s.emit (.hostWrite at_ (wordBytes w0) false)
    let s : State := { s with host := { s.host with mqwr := h.mqwr + 1, tags := Tab.set h.tags tag { req := n, hostAddr := host } } }
    let s := s.setReq n { r with st := .mediated tag }
    some (if h.mqwr = h.mqrd then s.raiseModerated 257 else s)
  | _, _ => none

/-- An atomic on host memory at the PCI Express home (R271, R273): sent, posted, refused, or held there. -/
def State.hostAmo (s : State) (n : Nat) (r : Req) (host : Nat) : Option State :=
  match r.acc with
  | .amo op _ _ sys _ _ =>
    let held := some (s.setReq n { r with st := .fenced })
    let fresh := fun (o : Option State) => if r.st = .fenced then o else o <|> held
    let isSealed := ((s.ctx r.ctx).getD {}).sealed
    let direct : Bool := match op with
      | .add | .swap | .cas => !s.routes.contains (routeRange r.addr)
      | _ => false
    -- A sealed context's atomics on host memory are refused: 0x20 on the direct route, 0x31 on the mediated one (R273, R476). With
    -- AtomicOps disabled the scope decides first: .sys is 0x31 by R273, another scope takes the mediated route (log entry 52).
    if direct && s.host.atomicEnable then
      if isSealed then some (s.answered n r (.err 0x20#8))
      else if s.mediatedBusy r.addr then fresh none
      else some ((s.setReq n { r with st := .sent none }).emit (.hostAtomic host r.acc))
    else if direct && sys then some (s.answered n r (.err 0x31#8))
    else if !s.host.meden ∨ s.host.mqlog = 0 ∨ isSealed then some (s.answered n r (.err 0x31#8))
    else
      let s1 := s.enterRoute r.addr
      if s1.directBusy r.addr then (if r.st = .fenced then none else some (s1.setReq n { r with st := .fenced }))
      else match s1.postMediated n r host with
        | some s2 => some s2
        | none => if r.st = .fenced then none else some (s1.setReq n { r with st := .fenced })
  | _ => none

/-! ### The home agent (R243-R245) -/

/-- The virtual channel of a request (R435). -/
def vcOf : Access → Nat
  | .write _ _ | .signal _ _ => 0
  | _ => 1

/-- Which accesses write, for the fault record of a page (R428). -/
def accWrites : Access → Bool
  | .read _ => false
  | _ => true

/-- A queue of the QS sent it. -/
def Sender.ofQs : Sender → Bool
  | .queue _ => true
  | _ => false

def senderCore : Sender → Nat
  | .thread c _ | .fetch c _ | .store c _ _ => c
  | .copy _ c _ => c
  | _ => 0

/-- A table walk reads DRAM (R394). -/
def State.walkExits (s : State) (p : Word) (amo : Bool) (k : Option State) : Option State :=
  if s.walks p amo then s.dramExit? k else k

/-- A thread that has written a host path must read behind it at its next release at .sys (R255), and so its twin, and so the QS. -/
def State.wroteHost (s : State) : Sender → State
  | .queue _ => { s with qs := { s.qs with hostWrites := true } }
  | .thread c k =>
    let mark := fun (t : Thread) => { t with hostWrites := true }
    let s1 := s.updThread c k mark
    match s.twinOf c k with
    | some (c2, k2) => s1.updThread c2 k2 mark
    | none => s1
  | _ => s

/-- A request of the own chip reaches its home agent (R243): the bank serves it where it holds the line and the access is no
atomic; else the entry decides. -/
def State.homeOwn (s : State) (n : Nat) : Option State :=
  match s.req n with
  | none => none
  | some r =>
    if r.st ≠ .queued ∧ r.st ≠ .fenced then none else
    match region 0 r.addr with
    | .paged p => s.walkExits p (isAmo r.acc) <|
      let (t, s) := if isAmo r.acc then s.translateEntry p else s.translate p
      if isProbe r.acc ∧ t ≠ .absent then some (s.answered n r (.val 0)) else
      match t with
      | .dram d => (if isAmo r.acc then s.dramExit? else s.dramExits p) (some (
          let x := (s.fillLine p d (accWrites r.acc)).serve d r.acc
          x.2.answered n r x.1))
      | .refused m level w0 =>
        let s := if m then s.postMalformed p r.ctx level w0 else s
        some (s.answered n r (.err 0x20#8))
      | .absent => some ((s.postPage p r.ctx (senderCore r.src) (accWrites r.acc) false).setReq n { r with st := .parked })
      | .host h => match r.acc with
        | .read k => some ((s.setReq n { r with st := .sent none }).hostRead r.ctx p h k)
        | .write d en => some (((s.hostStore r.ctx p h d en !r.src.ofQs).wroteHost r.src).answered n r (.val 0))
        | .amo _ _ _ _ _ _ => s.hostAmo n r h
        | _ => some (s.answered n r (.err 0x20#8))
      | .chip c a =>
        if (s.portTo c).isNone then some (s.answered n r (.err 0x21#8))
        else some ((s.setReq n { r with st := .sent (some c) }).emit (.fabric c (vcOf r.acc) (.access n (Word.ofNat a) r.acc) (s.sealed r.ctx)))
    | _ => none

/-- An access of another chip to local DRAM (R243, R435): its answer leaves on VC 2, sealed as the request was (R476). -/
def State.homeOther (s : State) (chip tag a : Nat) (acc : Access) (isSealed : Bool) : Option State :=
  if s.heel.freeze ≠ .none then none else
  s.dramExit? (some (
    let x := s.serve (dramBase + a) acc
    x.2.emit (.fabric chip 2 (.answer tag x.1) isSealed)))

def execHomeAgentRequest (src : HomeSource) (s : State) : Host.Outcome State Fault Refusal :=
  event "HOME_AGENT_REQUEST" (match src with
    | .own n => s.homeOwn n
    | .chip c tag a acc isSealed => s.homeOther c tag a acc isSealed)

/-- A response arrives (R122): the answer of the die, or that of the host or another chip. -/
def execHomeResponse (n : Nat) (ext : Option ExtReply) (s : State) : Host.Outcome State Fault Refusal :=
  event "HOME_RESPONSE" (match s.req n with
    | none => none
    | some r => match r.src with
      | .thread c k =>
        (match r.acc, r.st, ext with
          | .sync _ _, .answered _, _ => none
          | .amo _ _ _ _ _ _, .sent none, _ => none
          | _, .answered a, _ => some ((s.dropReq n).deliverTo c k a)
          | _, .sent _, some e => some ((s.dropReq n).deliverTo c k (extReply e))
          | _, _, _ => none)
      | .nobody => (match r.st with
          | .sent _ => some (s.dropReq n)
          | _ => none)
      | .report _ => (match r.st, ext with
          | .sent _, some e => some (s.answered n r (extReply e))
          | _, _ => none)
      | _ => none)

/-! ### Atomic units (R264-R266) -/

/-- Where a request for the SRAM window lies. -/
def State.sramOf (s : State) (r : Req) : Option Nat :=
  match s.ctx r.ctx with
  | some x => match region x.tenant r.addr with
    | .sram c o => x.phys c o
    | _ => none
  | none => none

/-- A slice's atomic unit performs one arriving step (R266). -/
def execAtomicUnitStep (n : Nat) (s : State) : Host.Outcome State Fault Refusal :=
  event "ATOMIC_UNIT_STEP" (match s.req n with
    | none => none
    | some r => match r.st, s.sramOf r with
      | .queued, some p =>
        let x := s.serve p r.acc
        some (x.2.answered n r x.1)
      | _, _ => none)

/-- The synchronising request of a thread. -/
def State.syncReq (s : State) (core slot : Nat) : Option (Nat × Req) :=
  (s.reqs.find? fun p => match p.2.acc with
    | .sync _ _ => p.2.src == .thread core slot
    | _ => false)

/-- An attempt executes at the atomic unit (R264). -/
def execSyncAttempt (core slot : Nat) (s : State) : Host.Outcome State Fault Refusal :=
  event "SYNC_ATTEMPT" (match s.syncReq core slot with
    | none => none
    | some (n, r) => match r.st, s.sramOf r with
      | .queued, some p =>
        let x := s.serve p r.acc
        some (x.2.answered n r x.1)
      | _, _ => none)

/-- A failed attempt leaves its thread to try again in its own cycle (R264). -/
def Thread.attemptFailed (t : Thread) : Thread :=
  match t.run with
  | .parked (.sync _) lim wc => { t with run := .parked (.sync false) lim wc }
  | _ => t

/-- The result of an attempt returns (R264). -/
def execSyncAttemptResult (core slot : Nat) (s : State) : Host.Outcome State Fault Refusal :=
  event "SYNC_ATTEMPT_RESULT" (match s.syncReq core slot with
    | none => none
    | some (n, r) => match r.st with
      | .answered a =>
        let s := s.dropReq n
        if a = failedAttempt then
          let s1 := s.updThread core slot (·.attemptFailed)
          some (match s.twinOf core slot with
            | some (c, k) => s1.updThread c k (·.attemptFailed)
            | none => s1)
        else some (s.deliverTo core slot a)
      | _ => none)

/-! ### Rights fills and line fetches (R187, R236) -/

/-- A rights fill ends (R236); it reads DRAM (R394). -/
def execPlbFillComplete (core slot : Nat) (s : State) : Host.Outcome State Fault Refusal :=
  event "PLB_FILL_COMPLETE" (match s.thread core slot with
    | none => none
    | some t => match t.run, s.ctx (s.ctxOf core) with
      | .parked (.plb a) _ _, some x => s.dramExit? <|
        let e := s.fill x a
        let s := s.setThread core slot { t with filled := (plbKey x.tenant a / 2 ^ 17, e) :: t.filled }
        let s := match e with
          | some e => s.updCore core fun c => { c with plb := plbTouch c.plb e }
          | none => s
        some (s.comeBack core slot)
      | _, _ => none)

/-- A fetched line arrives, or its refusal, which the entry of the line raises (R37, R187, R245). -/
def State.lineArrives (s : State) (core slot : Nat) (t : Thread) (num : Nat) (r : Reply) : State :=
  match r with
  | .val v =>
    let s := s.setThread core slot { t with fetched := some (.line ⟨num, v⟩) }
    let s := s.updCore core fun c => { c with ilb := (num :: c.ilb.filter (· != num)).take 64 }
    s.comeBack core slot
  | .err c => (s.setThread core slot { t with fetched := some (.refused num c) }).comeBack core slot

/-- A line that the line buffers do not hold arrives (R187). Outside the die `ext` brings it; a page that is not present
posts its record and the fetch goes on waiting (R244, R382). -/
def execLineFetchComplete (core slot : Nat) (ext : Option ExtReply) (s : State) : Host.Outcome State Fault Refusal :=
  event "LINE_FETCH_COMPLETE" (match s.thread core slot with
    | none => none
    | some t => match t.run, s.ctx (s.ctxOf core) with
      | .parked (.line num) _ _, some x =>
        let a := Word.ofNat (64 * num)
        let arrive := fun (s : State) (d : Nat) => s.lineArrives core slot t num (s.serve d (.read 64)).1
        match region x.tenant a with
        | .sram c o => (x.phys c o).map (arrive s)
        | .mgmt off => some (s.lineArrives core slot t num (.val (s.regBytes true off 64)))
        | .paged p =>
          if t.lineParked then none else s.walkExits p false <|
          let (w, s) := s.translate p
          (match w, ext with
            | .dram d, _ => s.dramExits p (some (arrive (s.fillLine p d false) d))
            | .refused m level w0, _ =>
              let s := if m then s.postMalformed p (s.ctxOf core) level w0 else s
              some (s.lineArrives core slot t num (.err 0x20#8))
            | .absent, _ =>
              some ((s.postPage p (s.ctxOf core) core false false).updThread core slot fun t => { t with lineParked := true })
            | _, ext =>
              if !s.reaches w then some (s.lineArrives core slot t num (.err 0x21#8)) else
              ext.map fun e => (s.readOutside (s.ctxOf core) p 64 w).lineArrives core slot t num (extReply e))
        | .none => none
      | _, _ => none)

/-- A read stream reads its next vector ahead (R156): at most 4, and never with a fault. A paired thread's reads are made when both
twins have issued them, and so never ahead (R409). -/
def execStreamReadAhead (core slot sreg : Nat) (ext : Option ExtReply) (s : State) : Host.Outcome State Fault Refusal :=
  event "STREAM_READ_AHEAD" (match s.thread core slot, s.ctx (s.ctxOf core) with
    | some t, some x => match (t.streams[sreg]?).getD none with
      | none => none
      | some st =>
        let j := st.pos + st.ahead.length
        let a := st.addr j
        let ok := match s.fill x a with
          | some e => e.rights &&& rR == rR
          | none => false
        if t.twin.isSome ∨ st.wr ∨ 4 ≤ st.ahead.length ∨ st.total ≤ j ∨ a.toNat % 64 ≠ 0 ∨ !ok then none else
        let take := fun (s : State) (r : Reply) => match r with
          | .val v => some (s.setThread core slot { t with streams := t.streams.setIfInBounds sreg (some { st with ahead := st.ahead ++ [v] }) })
          | .err _ => none
        match s.mapCheck core x a with
        | .ok (.sram p) => take s (s.serve p (.read 64)).1
        | .ok (.paged p) => s.walkExits p false <|
          let (w, s) := s.translate p
          (match w, ext with
            | .dram d, _ => s.dramExits p (take (s.fillLine p d false) (s.serve d (.read 64)).1)
            | .absent, _ | .refused _ _ _, _ => none
            | w, some e => if s.reaches w then take (s.readOutside (s.ctxOf core) p 64 w) (extReply e) else none
            | _, none => none)
        | _ => none
    | _, _ => none)

/-! ### Outstanding requests (R377-R379) -/

/-- A record's MORE count rises (R379). -/
def State.moreRefusals (s : State) (core i : Nat) : State :=
  match s.ctx (s.ctxOf core) with
  | some x => match s.recordAddr x i with
    | some a =>
      let w := s.word a
      s.write a 8 ((w &&& ~~~0xFF000000#64) ||| Word.ofNat (min 255 (bits w 31 24 + 1) * 2 ^ 24)).toNat
    | none => s
  | none => s

/-- A late refusal reaches its thread (R377, R379): it stops at once when no accepted request of it runs, and otherwise at
its next instruction boundary; a thread that a heel has frozen stops when the freeze ends. -/
def State.refuseLate (s : State) (core tag : Nat) (code : Byte) (seq : BitVec 16) (addr : Word) : State :=
  match s.tagged core tag with
  | none => s
  | some t =>
    let noted := { t with refusal := t.refusal <|> some (code, seq, addr) }
    if 16 ≤ tag then s.setTagged core tag noted else
    match t.run with
    | .trapped _ (some i) => s.moreRefusals core i
    | .trapped _ none => s
    | .stopped _ _ => s.setThread core tag noted
    | _ => if noted.refusalDue && !s.frozen core then s.takeRefusal core tag noted else s.setThread core tag noted

/-- Decrement the join counter of a thread that ends: at once on the die, as a request elsewhere (R204, R375). -/
def State.decrementJoin (s : State) (core : Nat) (t : Thread) : State :=
  let n := s.ctxOf core
  let x := (s.ctx n).getD {}
  let amo : Access := .amo .add true false false (BitVec.allOnes 64) 0
  if t.join = 0 then s else
  match region x.tenant t.join with
  | .sram c o => match x.phys c o with
    | some p => (s.serve p amo).2
    | none => s
  | .paged p =>
    let k := s.nextReq
    let s : State := { s with nextReq := k + 1, reqs := Tab.set s.reqs k { src := .nobody, ctx := n, addr := p, acc := amo } }
    (s.homeOwn k).getD s
  | _ => s

/-- A thread ends by its tag as ekill ends it: its counter falls, and its caller learns the code (R375). -/
def State.endKilled (s : State) (core tag : Nat) (t : Thread) (code : Byte) : State :=
  let n := s.ctxOf core
  let s := (s.decrementJoin core t).endTagged core tag
  match if t.cv then s.reach n t.ccore else none with
  | some c => (s.passed n t.ccore).post c { value := 0, status := code.zeroExtend 16, src := core, kind := 0, tag := t.cslot }
  | none => s

/-- A thread of a core whose state does not read back ends, with a 0x72 record of its state, once its count is zero (R375, R412). -/
def State.endLost (s : State) (core tag : Nat) : State :=
  match s.tagged core tag with
  | some t =>
    if !(s.core core).lost ∨ t.outst ≠ 0 then s
    else (s.notice core tag (s.ctxOf core) { code := 0x72#8, pc := t.pc, rpc := t.pc }).endKilled core tag t 0x72#8
  | none => s

/-- A kill the debugger has decided runs to its end once the thread's count is zero (R375, R483). -/
def State.debugKillEnds (s : State) (p : Nat × Nat) : State :=
  let ended := fun (s : State) => ({ s with mgmt := { s.mgmt with dbgKill := s.mgmt.dbgKill.erase p } } : State)
  match (s.ctx p.1).bind fun x => x.recs.get? p.2 with
  | none => ended s
  | some r => match s.tagged r.core r.slot with
    | none => ended (s.freeRecord p.1 p.2)
    | some t => if t.outst ≠ 0 then s else ended ((s.endKilled r.core r.slot t 0#8).freeRecord p.1 p.2)

/-- The threads that were to end when a thread's count had fallen to zero (R375, R412, R483). -/
def State.endDue (s : State) (core tag : Nat) : State := (s.mgmt.dbgKill.foldl (·.debugKillEnds ·) s).endLost core tag

/-- A counted request ends: the count falls (R377), for the twin of a pair as well. -/
def State.endCounted (s : State) (n : Nat) (i : Inflight) (refused : Option Byte) : State :=
  let s : State := { s.dropReq n with inflight := Tab.erase s.inflight n }
  let one := fun (s : State) (core tag : Nat) =>
    let s := match s.tagged core tag with
      | some t => s.setTagged core tag { t with outst := t.outst - 1 }
      | none => s
    (match refused with
    | some code => s.refuseLate core tag code i.seq i.addr
    | none => s).endDue core tag
  let twin := s.twinOf i.core i.slot
  let s := one s i.core i.slot
  match twin with
  | some (c, k) => one s c k
  | none => s

/-- The acknowledgement of a counted request arrives (R377). -/
def execStoreAck (n : Nat) (s : State) : Host.Outcome State Fault Refusal :=
  event "STORE_ACK" (match s.inflight.get? n with
    | none => none
    | some i => match i.outcome, s.req n with
      | some none, _ => some (s.endCounted n i none)
      | none, some { st := .sent _, .. } => some (s.endCounted n i none)
      | _, _ => none)

/-- The refusal of a counted request arrives (R377): 0x21 for a link failure. -/
def execLateRefusal (n : Nat) (link : Bool) (s : State) : Host.Outcome State Fault Refusal :=
  event "LATE_REFUSAL" (match s.inflight.get? n with
    | none => none
    | some i => match i.outcome, s.req n with
      | some (some c), _ => some (s.endCounted n i (some c))
      | none, some { st := .sent _, .. } => some (s.endCounted n i (some (if link then 0x21#8 else 0x20#8)))
      | _, _ => none)

/-- A direct AtomicOp completes (R272): a refusal enters the range as mediated. -/
def execHostAtomicopCompletion (n : Nat) (reply : AtomicReply) (s : State) : Host.Outcome State Fault Refusal :=
  event "HOST_ATOMICOP_COMPLETION" (match s.req n with
    | none => none
    | some r =>
      if r.st ≠ .sent none ∨ !isAmo r.acc then none else
      let s := s.dropReq n
      let (a, s) := match reply with
        | .old v => (Reply.val (v.zeroExtend 512), s)
        | .refused => (.err 0x30#8, s.enterRoute r.addr)
        | .noPath => (.err 0x31#8, s)
      match r.src with
      | .thread c k => some (s.deliverTo c k a)
      -- Nothing has been performed for a queue's SIGNAL that is refused: it goes on by the mediated route.
      | .queue _ => some (if reply = .refused then s.setReq n { r with st := .queued } else s.answered n r a)
      | _ => some s)

/-- A thread is released for its eviction, its move or its save, which are releases at .sys (R260). -/
def State.leaving (s : State) (core slot : Nat) : Bool :=
  (s.core core).evicting == some slot || (s.core core).held || (match s.ctx (s.ctxOf core) with
    | some x => x.migrating
    | none => false)

/-- The accesses a release orders have reached its scope (R255): at .sys a zero-length Memory Read goes out behind the
thread's last posted write and completes; the address it names is log entry 58. -/
def execReleaseComplete (core slot : Nat) (s : State) : Host.Outcome State Fault Refusal :=
  event "RELEASE_COMPLETE" (match s.thread core slot with
    | none => none
    | some t =>
      let t1 := { t with hostWrites := false }
      let s1 := if t.hostWrites then s.emit (.hostRead 0 0) else s
      if t.outst ≠ 0 ∨ !t.cmpq.isEmpty then none else
      match t.run, t.sb with
      | .parked .release _ _, _ => some ((s1.setThread core slot t1).comeBack core slot)
      | _, .marker .fab :: _ => some (s.popSb core slot)
      | _, .marker .sys :: _ => some ((s1.setThread core slot t1).popSb core slot)
      | _, [] => if t.hostWrites && s.leaving core slot then some (s1.setThread core slot t1) else none
      | _, _ => none)

end Sys2Proof.Machine
end

