-- ==== Sys2Proof/Machine/EvThread.lean ====
section
/-! DEFINITION. Events of threads: the divider and the SFU (03 R96, 05 R152), joins, messages, semaphores, links and waits
(06 R174-R188, 07 R206-R219), redundant pairs and deferred records (13 R369-R372, R408-R410). -/

namespace Sys2Proof.Machine

/-! ### The divider and the SFU (R96, R152) -/

/-- A unit writes its result: the words are popped and pushed, and the instruction completes (R20, R96, R152). -/
def State.install (s : State) (core slot : Nat) (t : Thread) (r : Result) : State :=
  let s := r.pops.foldl (fun s c => Exec.popChan s core c) s
  let s := r.pushes.foldl (fun s p => Exec.pushChan s core p.1 p.2) s
  let t1 : Thread := { t with g := r.g, pred := r.pred, v := r.v, m := r.m, fpctl := r.fpctl, streams := r.streams,
                              sb := t.sb ++ r.sb, pending := none }
  let t2 := match r.line with
    | some l => Exec.Thread.done t1 r.pc l r.done
    | none => t1
  Exec.stepStop { core := core, slot := slot, s := s, keep := s, th := t } r.pc (s.setThread core slot t2)

/-- The SFU starts its oldest request at the later of its acceptance + 1 and the previous start + 4; it completes 19 cycles
after (R152). A request keeps acceptance + 20 until it starts. -/
def execSfuRequestStart (core : Nat) (s : State) : Host.Outcome State Fault Refusal :=
  event "SFU_REQUEST_START" (
    let c := s.core core
    match c.sfuFifo with
    | [] => none
    | k :: rest => match (s.thread core k).bind (·.pending) with
      | some r =>
        let start := max (r.done - 19) (match c.sfuLast with
          | some l => l + 4
          | none => 0)
        if c.cycle < start then none else
        let s := s.updThread core k fun t => { t with pending := some { r with started := true, done := start + 19 } }
        some (s.updCore core fun c => { c with sfuFifo := rest, sfuLast := some start })
      | none => some (s.updCore core fun c => { c with sfuFifo := rest }))

/-- The started SFU request that completes first. -/
def Core.sfuFirst (c : Core) : Option (Nat × Result) :=
  c.slots.foldl (fun b p => match p.2.pending with
    | some r => if !(r.sfu && r.started) then b else (match b with
        | some y => if r.done < y.2.done then some (p.1, r) else b
        | none => some (p.1, r))
    | none => b) none

def execSfuRequestComplete (core : Nat) (s : State) : Host.Outcome State Fault Refusal :=
  event "SFU_REQUEST_COMPLETE" (match (s.core core).sfuFirst with
    | some (k, r) => match s.thread core k with
      | some t => if (s.core core).cycle < r.done then none else some (s.install core k t r)
      | none => none
    | none => none)

def execDividerComplete (core slot : Nat) (s : State) : Host.Outcome State Fault Refusal :=
  event "DIVIDER_COMPLETE" (match s.thread core slot with
    | some t => match t.pending with
      | some r => if r.sfu ∨ (s.core core).cycle < r.done then none else some (s.install core slot t r)
      | none => none
    | none => none)

/-! ### Waits (R24, R170, R176, R206, R456) -/

/-- A thread is quiescent (R390): TRAPPED, by a trap or a debugger stop (R163), or parked at one of the points the rule lists; a
TD wait of another instruction is none of them. -/
def Thread.quiescent (t : Thread) : Bool :=
  match t.run with
  | .trapped _ _ | .stopped _ _ => true
  | .parked w _ _ => (match w with
      | .migpt _ | .join _ | .mail | .kfence | .sync false => true
      | .sem => (match t.decoded with
          | some (.ok (o, _)) => o == .ksub || o == .kwait
          | _ => false)
      | _ => false)
  | .ready => false

/-- A core issues: its island is ACTIVE, the plinth has not frozen it, and no heel has, which the plinth's own cores outlast
(R383, R386, R393, R405). -/
def State.coreOn (s : State) (core : Nat) : Bool :=
  (s.island (islandOf core)).st == .active && !(s.core core).held && (s.heel.freeze == .none || s.isPlinth core)

/-- A context of a core is being moved (R389). -/
def State.moving (s : State) (core : Nat) : Bool :=
  match s.ctx (s.ctxOf core) with
  | some x => x.migrating
  | none => false

/-- A thread may issue or try again, from the cycle on in which it is ready, after a restore as after an instruction (R101, R170): in
PARK a quiescent one of a moving context stays where it is, and from DRAIN to RESUME
none issues (R389, R390). -/
def State.mayRun (s : State) (core slot : Nat) : Bool :=
  s.coreOn core && (match s.thread core slot with
    | some t => decide (t.readyAt ≤ (s.core core).cycle) && (!s.moving core || (s.inPark (s.ctxOf core) && !t.quiescent))
    | none => false)

/-- The counter of a saved join is read again (R170, R206): one in die memory here, another by a request in the name of the
save record, whose answer decides. -/
def State.readSavedJoin (s : State) (core n : Nat) (a : Word) : State :=
  let x := (s.ctx (s.ctxOf core)).getD {}
  let elsewhere := match region x.tenant a with
    | .paged p => (match (s.translate p).1 with
      | .dram _ => false
      | _ => true)
    | _ => false
  if s.joinZero core a then s.updCore core fun c => c.makeEligible n
  else if elsewhere && !(s.reqs.any fun p => p.2.src == .thread core (16 + n)) then
    { s with reqs := Tab.set s.reqs s.nextReq { src := .thread core (16 + n), ctx := s.ctxOf core, addr := a, acc := .read 8 },
             nextReq := s.nextReq + 1 }
  else s

/-! ### Messages (R188, R215) -/

/-- A message enters its mailbox queue; it waits for room among the queue's 64 (R188). -/
def execMessageDelivery (n : Nat) (s : State) : Host.Outcome State Fault Refusal :=
  event "MESSAGE_DELIVERY" (match s.messages[n]? with
    | some (core, m) =>
      let c := (s.core core).deliver m
      if 64 < c.mail.length ∧ (s.core core).mail.length < c.mail.length then none
      else some (({ s with messages := s.messages.eraseIdx n } : State).setCore core c |>.stir core)
    | none => none)

/-- The owner core, or the one its forwarding entry names, writes the word, adds to the semaphore and acknowledges, or refuses
(R215, R387). -/
def execMsendArrival (n : Nat) (s : State) : Host.Outcome State Fault Refusal :=
  event "MSEND_ARRIVAL" (match s.inflight.get? n with
    | some i => match i.msend, i.outcome with
      | some (owner, a, w, k), none =>
        let done := fun (s : State) (o : Option Byte) =>
          ({ s with inflight := Tab.set s.inflight n { i with outcome := some o } } : State)
        let n := s.ctxOf i.core
        (match (s.reach n owner).filter fun c => !s.closed n c with
          | none => some (done s (some 0x20#8))
          | some c =>
            if s.fencedAt a then some (done s (some 0x72#8))
            else some (done (((s.passed n owner).write a 8 w.toNat).addSem c k 1) none))
      | _, _ => none
    | none => none)

/-! ### Semaphores (R186, R218, R219) -/

/-- Additions and poison of a cycle reach the file (R219, step 2): each semaphore's additions summed, and saturated once. -/
def Core.applyAdds (c : Core) : Core :=
  let sums := c.adds.foldl (fun (t : Tab Nat) p => Tab.set t p.1 (t.getD p.1 0 + p.2)) []
  let sems := sums.foldl (fun (t : Tab Sem) p => Tab.set t p.1 ((Tab.getD t p.1 {}).add p.2)) c.sems
  let sems := c.poisons.foldl (fun (t : Tab Sem) p => Tab.set t p.1 { Tab.getD t p.1 {} with p := true, code := p.2 }) sems
  { c with sems := sems, adds := [], poisons := [] }

/-- One armed entry of the waiting-task table (R186). -/
def Core.evalEntry (c : Core) (i : Nat) : Core :=
  match c.table.get? i with
  | some (.armed r n t) =>
    let k := c.sem n
    if k.p then { c with table := Tab.erase c.table i, hits := c.hits ++ [{ r with poisoned := true }] }
    else if t ≤ k.v then { c with table := Tab.erase c.table i, hits := c.hits ++ [r], sems := Tab.set c.sems n { k with v := k.v - t } }
    else c
  | _ => c

/-- The armed entries, in ascending index (R186). -/
def Core.evalTable (c : Core) : Core := (c.table.map (·.1)).foldl (fun c i => c.evalEntry i) c

/-- Steps 2 and 3 of a cycle (R219). -/
def Core.semUpdate (c : Core) : Core := c.applyAdds.evalTable

/-- There is something to update. -/
def Core.semDue (c : Core) : Bool := !c.adds.isEmpty || !c.poisons.isEmpty || c.evalTable != c

/-- The condition of a semaphore entry of the trigger table (R398). -/
def State.semMet (s : State) (t : Trigger) : Bool :=
  bits t.w0 59 58 == 0 && decide (bits t.value 31 0 ≤ ((s.core (bits t.src 9 0)).sem (bits t.src 17 10)).v)

/-- After step 3 the ARMED semaphore entries that name a core are compared, and fire in ascending index (R398). -/
def State.fireSems (s : State) (core : Nat) : State :=
  let met := (List.range 16).filter fun k =>
    let t := s.trigger k
    t.en && t.st == .armed && bits t.src 9 0 == core && s.semMet t
  met.foldl (fun s k => s.fireTrigger k) s

def execSemaphoreCycleUpdate (core : Nat) (s : State) : Host.Outcome State Fault Refusal :=
  event "SEMAPHORE_CYCLE_UPDATE" (some ((s.updCore core (·.semUpdate)).fireSems core))

/-! ### Links (R177) -/

/-- A word pushed into a link can be popped (R177). -/
def execLinkWordArrival (core : Nat) (east : Bool) (s : State) : Host.Outcome State Fault Refusal :=
  event "LINK_WORD_ARRIVAL" (
    let c := s.core core
    match if east then c.eastWay else c.westWay with
    | (w, at_) :: rest =>
      if c.cycle < at_ then none
      else if east then some (s.setCore core { c with east := c.east ++ [w], eastWay := rest })
      else some (s.setCore core { c with west := c.west ++ [w], westWay := rest })
    | [] => none)

/-- The links of a core at the end of a cycle: words whose cycle has come can be popped from the next one on (R177). -/
def Core.linkUpdate (c : Core) : Core :=
  let due := fun (l : List (Word × Nat)) => l.takeWhile fun p => decide (p.2 ≤ c.cycle + 1)
  { c with west := c.west ++ (due c.westWay).map (·.1), westWay := c.westWay.drop (due c.westWay).length,
           east := c.east ++ (due c.eastWay).map (·.1), eastWay := c.eastWay.drop (due c.eastWay).length }

/-- A core has a record that waits for a slot. -/
def Core.pending (c : Core) : Bool := !c.inbox.isEmpty || !c.candidates.isEmpty

/-- The thread waits for an event that the rest of the chip brings, or stands stopped; a unit of the core, the memory, a home or another
chip may end any other wait (R394). -/
def Thread.asleep (t : Thread) : Bool :=
  match t.run with
  | .ready => false
  | .parked w _ _ => (match w with
    | .port | .mail | .sem | .inbox | .binding | .callerMail | .job _ | .kfence | .kse | .migpt _ | .wakeGo _ _ => true
    | _ => false)
  | _ => true

/-- A core keeps its island from its shallowest low-power state: on the burst island by a thread or a record, on the watch island by a
user thread or a unit that goes on (R394). -/
def State.keepsAwake (s : State) (core : Nat) (c : Core) : Bool :=
  if core < 512 then !c.slots.isEmpty || c.pending
  else !s.isPlinth core && (c.slots.any (fun p => !p.2.asleep) || (c.emptySlot.isSome && c.pending) || c.semDue)

/-- The end of a cycle of a core: its semaphores (R219, steps 2 and 3) and the trigger entries that name them, its links, and its
count of cycles. -/
def State.endCycle (s : State) (core : Nat) : State :=
  let s := (s.updCore core fun c => { c.semUpdate.linkUpdate with cycle := c.cycle + 1 }).fireSems core
  if s.keepsAwake core (s.core core) then s.useIsland (islandOf core) else s

/-! ### A parked instruction's own cycle (R24, R176) -/

/-- It is the slot's own cycle (R162). -/
def State.ownCycle (s : State) (core slot : Nat) : Bool := (s.core core).cycle % 16 == slot

/-- The thread's wait has reached the limit it read (R24). -/
def State.atLimit (s : State) (core slot : Nat) : Bool :=
  match s.thread core slot with
  | some t => match t.run with
    | .parked w lim wc => w.counted && decide (lim ≤ wc + 1)
    | _ => false
  | none => false

/-- The cycle in which a parked instruction tries again (R176, R219). -/
def execParkedInstructionRetry (core slot : Nat) (s : State) : Host.Outcome State Fault Refusal :=
  event "PARKED_INSTRUCTION_RETRY" (
    if s.ownCycle core slot && s.mayRun core slot && s.parkedOn core slot Wait.polls && !s.atLimit core slot then some ((s.reissue core slot).endCycle core) else none)

/-- The last rotation of a counted wait: the instruction completes in it or traps with 0x12 (R24, R176, R220, R264). A
synchronising attempt in flight does not end it. -/
def execWaitLimitExpiry (core slot : Nat) (s : State) : Host.Outcome State Fault Refusal :=
  event "WAIT_LIMIT_EXPIRY" (
    if s.ownCycle core slot && s.mayRun core slot && s.parkedOn core slot Wait.polls && s.atLimit core slot then some ((s.reissue core slot).endCycle core) else none)

/-- A parked join reads its counter again, in the thread's own cycle (R206). A slot from 16 on is a save record: its join
becomes eligible once the counter reads zero (R170). -/
def execJoinReevaluate (core slot : Nat) (s : State) : Host.Outcome State Fault Refusal :=
  event "JOIN_REEVALUATE" (
    if 16 ≤ slot then match (s.core core).saved.get? (slot - 16) with
      | some v => match v.th.run with
        | .parked (.join a) _ _ => some (s.readSavedJoin core (slot - 16) a)
        | _ => none
      | none => none
    else if s.ownCycle core slot && s.mayRun core slot && s.parkedOn core slot Wait.isJoin then some ((s.reissue core slot).endCycle core)
    else none)

/-- A parked sigwait reads its word again, in the thread's own cycle (R456). -/
def execSigwaitReevaluate (core slot : Nat) (s : State) : Host.Outcome State Fault Refusal :=
  event "SIGWAIT_REEVALUATE" (
    if s.ownCycle core slot && s.mayRun core slot && s.parkedOn core slot (· == .sigwait) then some ((s.reissue core slot).endCycle core)
    else none)

/-! ### Redundant pairs (R409, R410) -/

/-- A command as the compare sees it: what the program gave, without what names one of the two cores. -/
def CmpEntry.view : CmpEntry → CmpEntry
  | .access a acc _ => .access a acc 0
  | .store a d en _ => .store a d en 0
  | .copy c => .copy { c with core := c.core % 8, slot := 0, tag := 0, id := 0, progress := [], scount := c.scount % 8 }
  | .kse k => .kse { k with core := k.core % 8, slot := 0, tag := 0 }
  | e => e

/-- The address of an access for the record of a mismatch, as it was formed (R227, R410). -/
def CmpEntry.addr : CmpEntry → Word
  | .access _ _ a => a
  | .store _ _ _ a => a
  | .copy c => c.src
  | .kse k => k.a
  | .command (.resume a) | .command (.kill a) => a
  | .command _ | .invoke _ _ _ => 0

/-- A store, which its thread has gone on behind. -/
def CmpEntry.isStore : CmpEntry → Bool
  | .store _ _ _ _ => true
  | _ => false

/-- The stop of a thread at a mismatch: at the instruction that made the access, or, for a store or a job that its thread has gone on
behind, at its next head, with IMP (R378, R410; DEDUCED, log entry 60). -/
def mismatchStop (t : Thread) (addr : Word) (late : Bool) : Stop :=
  { code := 0x70#8, pc := t.pc, rpc := t.pc, addr := addr, imp := late }

/-- A thread of a mismatched pair traps, and the safety core receives a copy of its record (R410). -/
def State.trapPaired (s : State) (p : Nat × Nat) (st : Stop) : State :=
  match s.thread p.1 p.2 with
  | some t => (s.takeTrap p.1 p.2 st).emit (.scRecord p.1 p.2 (s.recordWords p.1 p.2 (s.ctxOf p.1) st (some t)))
  | none => s

/-- The heads of both compare queues do not match: neither is performed, and both threads trap with 0x70; stores behind them stay
(R410). -/
def State.mismatch (s : State) (a b : Nat × Nat) (x y : CmpEntry) : State :=
  let one := fun (s : State) (p : Nat × Nat) (e : CmpEntry) =>
    match s.thread p.1 p.2 with
    | some t => (s.setThread p.1 p.2 { t with cmpq := (t.cmpq.drop 1).filter CmpEntry.isStore, sbParked := false }).trapPaired p
        (mismatchStop t e.addr e.isStore)
    | none => s
  one (one s a x) b y

/-- Give both threads of a pair an answer. -/
def State.answerBoth (s : State) (a b : Nat × Nat) (r : Reply) : State :=
  (s.answerThread a.1 a.2 r).answerThread b.1 b.2 r

/-- Perform once, for the primary, what both threads of a pair have issued (R409); none while a queue it needs is full
(DEDUCED, log entry 60). -/
def State.performPair (s : State) (p q : Nat × Nat) (t : Thread) (e : CmpEntry) : Option State :=
  let (core, slot) := p
  let n := s.nextReq
  let ctx := s.ctxOf core
  let r := fun (acc : Access) (addr : Word) (st : ReqState) =>
    ({ src := .thread core slot, ctx := ctx, addr := addr, acc := acc, st := st } : Req)
  match e with
  | .access addr (.signal op v) formed =>
    let s := s.sendCounted core slot t.seq formed none
    let s : State := { s with reqs := Tab.set s.reqs n { src := .store core slot t.seq, ctx := ctx, addr := addr, acc := .signal op v } }
    some (s.answerBoth p q (.val 0))
  | .access addr acc _ =>
    let own := match acc with
      | .lzres _ | .lzrel _ => addr.toNat == s.ownChip
      | _ => true
    let s : State := { s with reqs := Tab.set s.reqs n (r acc addr (if own then .queued else .sent (some addr.toNat))), nextReq := n + 1 }
    some (if own then s else s.emit (.fabric addr.toNat 1 (.access n addr acc) (s.sealed ctx)))
  | .store _ _ _ _ => none
  | .command c => (s.devCmd ctx c).map fun r => r.2.answerBoth p q (.val (r.1.zeroExtend 512))
  | .copy c =>
    let k := s.core core
    if 4 ≤ k.copyRegs.length then none else
    some ((s.updCore core fun k => { k with copyRegs := k.copyRegs ++ [{ c with id := k.cn }], cn := k.cn + 1 }).answerBoth p q
      (.val (k.cn.zeroExtend 512)))
  | .kse k =>
    let cl := clusterOf core
    if 4 ≤ ((s.cluster cl).kse.queue.filter fun x => x.core == core).length then none else
    let s := s.updKse cl fun x => { x with queue := x.queue ++ [k] }
    (match k.form with
      | .kgather _ _ _ => some s
      | _ => some (s.answerBoth p q (.val 0)))
  | .invoke h args tiles =>
    let chip := bits h 3 0
    let pkt : InvPacket := { chip := s.ownChip, ctx := ctx, tag := n, header := h, args := args,
                             sealedCtx := ((s.ctx ctx).getD {}).sealed, tiles := tiles }
    let held := fun (t : Thread) => ({ t with heldEntry := some n } : Thread)
    let s : State := ((({ s with nextReq := n + 1 } : State).updThread core slot held).updThread q.1 q.2 held)
    let s : State := { s with localInv := s.localInv ++ [(core, slot, pkt)] }
    some (if chip = s.ownChip then s else s.emit (.fabric chip 3 (.invoke pkt) pkt.sealedCtx))

/-- The primary and the secondary of the pair a thread belongs to. -/
def State.pairOf (s : State) (core slot : Nat) : Option ((Nat × Nat) × (Nat × Nat)) :=
  match s.thread core slot with
  | some t => match t.twin with
    | some (c, k, true) => some ((core, slot), (c, k))
    | some (c, k, false) => some ((c, k), (core, slot))
    | none => none
  | none => none

/-! ### Deferred records and the handler watchdog (R369, R371, R372) -/

/-- A slot of the trap area, or an inbox, has become free: the oldest stop without a record gets it, or the oldest notice, or
the oldest handler task that waits for an inbox entry starts (R369, R371). -/
def execTrapRecordDeferred (ctx : Nat) (s : State) : Host.Outcome State Fault Refusal :=
  event "TRAP_RECORD_DEFERRED" (match s.ctx ctx with
    | none => none
    | some x =>
      match x.handlersDue, x.waiting, x.notices, (x.recs.free 0 (2 ^ x.trlog)).isSome with
      | h :: rest, _, _, _ =>
        let s1 := (s.setCtx ctx { x with handlersDue := [] }).launchHandler ctx none h
        (match s1.ctx ctx with
          | some y => if y.handlersDue.isEmpty then some (s1.setCtx ctx { y with handlersDue := rest }) else none
          | none => none)
      | [], (c, k) :: rest, _, true => some ((s.setCtx ctx { x with waiting := rest }).withPackage ctx fun s => s.giveRecord c k)
      | [], [], (c, k, st, t) :: rest, true => some ((s.setCtx ctx { x with notices := rest }).noticeOf c k ctx st t)
      | _, _, _, _ => none)

/-- A record has stood undecided for HWDT: its context is killed with 0x7F (R372); HWDT 0 disables it (R367). -/
def execHandlerWatchdogExpiry (ctx rec_ : Nat) (s : State) : Host.Outcome State Fault Refusal :=
  event "HANDLER_WATCHDOG_EXPIRY" (match s.ctx ctx with
    | none => none
    | some x => match x.recs.get? rec_ with
      | some r => if x.hwdt = 0 ∨ r.dec ∨ (s.time - r.since).toNat < x.hwdt then none else some (s.killContext ctx 0x7F#8)
      | none => none)

end Sys2Proof.Machine
end

