-- ==== Sys2Proof/Machine/EvFabric.lean ====
section
/-! DEFINITION. Events of the fabric's services (15 R441-R456): invocations, landing slots and signal updates. -/

namespace Sys2Proof.Machine

/-! ### Invocations (R441, R442, R446) -/

/-- How many virtual cores a context has, saved or placed (R383). -/
def Ctx.width (x : Ctx) : Nat := if x.saved then x.package.cores.length else x.cores.length

/-- The priority an invocation is queued at (R442). -/
def invPrio (h : Handler) (p : InvPacket) : Nat := min (bits p.header 27 24) h.pmax

/-- The answer to a packet, and the state with the packet queued (R442). -/
def State.receive (s : State) (p : InvPacket) : Nat × State :=
  let h := s.qs.handlers.getD (bits p.header 15 4) {}
  let prio := invPrio h p
  let q := s.qs.inv.getD prio []
  match s.ctx h.ctx with
  | none => (2, s)
  | some x =>
    if !h.en ∨ x.dead ∨ x.width ≤ h.vca then (2, s)
    else if !h.srcm.getLsbD p.chip ∨ p.sealedCtx ≠ x.sealed then (3, s)
    else if 64 ≤ q.length then (1, s)
    else (0, { s with qs := { s.qs with inv := Tab.set s.qs.inv prio (q ++ [{ key := p.tag, pkt := p, waiting := List.range p.tiles }]) } })

/-- An invocation of a thread of this chip is answered; the answer for a thread that has ended is discarded (R372). -/
def State.answerInv (s : State) (e : Nat × Nat × InvPacket) (r : Reply) : State :=
  let s : State := { s with localInv := s.localInv.filter (· != e) }
  if e.2.1 = noTag then s else s.deliverTo e.1 e.2.1 r

/-- A packet arrives (R442). The answer to a thread of the own chip reaches it in the same step. A freeze holds the packets of
other chips (R405). -/
def execInvocationArrival (pkt : InvPacket) (s : State) : Host.Outcome State Fault Refusal :=
  event "INVOCATION_ARRIVAL" (
    if pkt.chip = s.ownChip then
      match s.localInv.find? fun e => e.2.2 == pkt && bits pkt.header 3 0 == s.ownChip with
      | some e =>
        let r := s.receive e.2.2
        some (r.2.answerInv e (.val (BitVec.ofNat 512 r.1)))
      | none => none
    else if s.heel.freeze ≠ .none then none
    else
      let r := s.receive pkt
      some (r.2.emit (.fabric pkt.chip 2 (.invAnswer pkt.tag r.1) pkt.sealedCtx)))

/-- The answer of another chip: its status, or 5 for a link that failed (R441, R442). -/
def execRinvAnswer (core slot answer : Nat) (s : State) : Host.Outcome State Fault Refusal :=
  event "RINV_ANSWER" (match s.localInv.find? fun e => e.1 == core && e.2.1 == slot && bits e.2.2.header 3 0 != s.ownChip with
    | some e =>
      if !(answer ≤ 3 ∨ answer = 5) then none
      else some (s.answerInv e (if answer = 5 then .err 0x21#8 else .val (BitVec.ofNat 512 answer)))
    | none => none)

/-- The record of a discarded invocation (R428, R443, R446). -/
def State.postDiscarded (s : State) (sub : Byte) (p : InvPacket) (prio : Nat) : State :=
  let idx := bits p.header 15 4
  s.postFault { kind := 7, sub := sub, arg := BitVec.ofNat 16 idx, ctx := (s.qs.handlers.getD idx {}).ctx, addr := 0,
                info := fields [(p.chip, 0), (prio, 8)] }

/-- A WAITING entry loses a tile it waits for, or is discarded when a tile is refused or torn (R446). -/
def State.cardTile (s : State) (chip key tile : Nat) (ok : Bool) : State :=
  let mine := fun (i : Invocation) => i.pkt.chip == chip && i.key == key && !i.waiting.isEmpty
  if ok then
    let landed := fun (i : Invocation) => if mine i then ({ i with waiting := i.waiting.filter (· != tile) } : Invocation) else i
    { s with qs := { s.qs with inv := Tab.mapV s.qs.inv (fun _ l => l.map landed) } }
  else
    let gone := s.qs.inv.flatMap fun p => (p.2.filter mine).map fun i => (p.1, i)
    let s : State := { s with qs := { s.qs with inv := Tab.mapV s.qs.inv (fun _ l => l.filter fun i => !mine i) } }
    gone.foldl (fun s p => s.postDiscarded 2 p.2.pkt p.1) s

/-! ### Landing slots (R449-R454) -/

/-- A token of a reservation (R449). -/
def tokenOf (chip core slot log : Nat) (check : BitVec 16) : Word :=
  fields [(check.toNat, 32), (log, 20), (slot, 16), (core, 4), (chip, 0)]

/-- A slot by its number in a token or a target. -/
def slotNum (w : Word) : Nat := 16 * tokenCore w + tokenSlot w

/-- lzres at the receiver (R450): the check of a token is a free value (R449). -/
def State.lzReserve (s : State) (chip : Nat) (target : Word) : Word × State :=
  let core := tokenCore target
  let c := s.core core
  if 528 ≤ core ∨ c.fenced ∨ s.isPlinth core ∨ c.ctx.isNone then (0xFFFFFFFFFFFFFFFC#64, s)
  else match s.lz.get? (slotNum target) with
    | none => (0xFFFFFFFFFFFFFFFD#64, s)
    | some z =>
      if !z.srcm.getLsbD chip then (0xFFFFFFFFFFFFFFFD#64, s)
      else if z.st ≠ .free then (0xFFFFFFFFFFFFFFFE#64, s)
      else
        let (w, s) := s.freeWord
        let check : BitVec 16 := w.setWidth 16
        let z := { z with st := .reserved chip check, counted := 0, streams := [] }
        (tokenOf s.ownChip core (tokenSlot target) z.log check, { s with lz := Tab.set s.lz (slotNum target) z })

/-- lzrel at the receiver (R454): 0 and FREE for a current token of the requesting chip, else 1. -/
def State.lzRelease (s : State) (chip : Nat) (token : Word) : Word × State :=
  match s.lz.get? (slotNum token) with
  | none => (1, s)
  | some z =>
    let ok := match z.st with
      | .reserved c k | .torn c k _ => c == chip && token == tokenOf s.ownChip (tokenCore token) (tokenSlot token) z.log k
      | .free => false
    if ok then (0, { s with lz := Tab.set s.lz (slotNum token) { z with st := .free, counted := 0, streams := [] } }) else (1, s)

/-- Answer a request to a landing slot (R450, R454); a freeze holds those of other chips (R405). -/
def State.lzServe (s : State) (src : FabSource) (own : Access → Option Word) (arg : Word)
    (f : State → Nat → Word → Word × State) : Option State :=
  match src with
  | .own n => match s.req n with
    | some r => match own r.acc, r.st with
      | some w, .queued =>
        let x := f s s.ownChip w
        some (x.2.answered n r (.val (x.1.zeroExtend 512)))
      | _, _ => none
    | none => none
  | .chip c tag =>
    if s.heel.freeze ≠ .none then none else
    let x := f s c arg
    some (x.2.emit (.fabric c 2 (.lzAnswer tag x.1) (s.sealed (s.ctxOf (tokenCore arg)))))

def execLzresArrival (src : FabSource) (target : Word) (s : State) : Host.Outcome State Fault Refusal :=
  event "LZRES_ARRIVAL" (s.lzServe src (fun a => match a with
    | .lzres w => some w
    | _ => none) target State.lzReserve)

def execLzrelArrival (src : FabSource) (token : Word) (s : State) : Host.Outcome State Fault Refusal :=
  event "LZREL_ARRIVAL" (s.lzServe src (fun a => match a with
    | .lzrel w => some w
    | _ => none) token State.lzRelease)

/-- Unit `u` of a stream has arrived; the prefix without a gap grows (R332, R452). -/
def Prog.mark (p : Prog) (u : Nat) : Prog :=
  if u < p.done ∨ p.ahead.contains u then p else
  let all := NatSet.insert p.ahead u
  let d := all.foldl (fun d x => if x = d then d + 1 else d) p.done
  { p with done := d, ahead := all.filter fun x => decide (d ≤ x) }

/-- The progress of one lzcpy or tile into a slot. -/
def LzSlot.progress (z : LzSlot) (chip stream : Nat) : Prog :=
  match z.streams.find? fun e => e.1 == chip && e.2.1 == stream with
  | some e => e.2.2
  | none => { target := 0 }

/-- A segment arrives (R451, R452): the code of its refusal, or its bytes written and its prefix counted. -/
def State.segmentArrives (s : State) (g : LzSegment) : Option Byte × State :=
  let n := slotNum g.token
  let core := tokenCore g.token
  let refuse := fun (code : Byte) => (some code, match g.card with
    | some key => s.cardTile g.chip key (g.stream % 8) false
    | none => s)
  match s.lz.get? n, s.ctx (s.ctxOf core) with
  | some z, some x =>
    let current := match z.st with
      | .reserved c k => c == g.chip && g.token == tokenOf s.ownChip core (tokenSlot g.token) z.log k
      | _ => false
    let place := match region x.tenant (z.addr + Word.ofNat g.off) with
      | .sram c o => x.phys c o
      | _ => none
    (match place with
      | some p =>
        if !current ∨ 2 ^ z.log < g.off + g.data.length then refuse 0x20#8
        else if s.fencedAt p then refuse 0x72#8
        else
          let s := s.engineWrite p g.data
          -- A copy goes on past a page that is not present (R330), so any segment may come first; one that has come already is of
          -- another copy under the same number (log entry 63).
          let old := z.progress g.chip g.stream
          let old : Prog := if g.seg < old.done ∨ old.ahead.contains g.seg then { target := 0 } else old
          let new := old.mark g.seg
          let more := new.done - old.done
          let rest := z.streams.filter fun e => !(e.1 == g.chip && e.2.1 == g.stream)
          let streams := if new.done = g.total then rest else (g.chip, g.stream, new) :: rest
          let s : State := { s with lz := Tab.set s.lz n { z with counted := z.counted + more, streams := streams } }
          let s := if more = 0 then s else s.addSem core z.sem more
          (none, match g.card with
            | some key => if new.done = g.total then s.cardTile g.chip key (g.stream % 8) true else s
            | none => s)
      | none => refuse 0x20#8)
  | _, _ => refuse 0x20#8

/-- A segment of another chip arrives, and its acknowledgement or refusal leaves on VC 2 (R435, R452). -/
def execLzSegmentArrival (seg : LzSegment) (s : State) : Host.Outcome State Fault Refusal :=
  event "LZ_SEGMENT_ARRIVAL" (
    if seg.chip = s.ownChip ∨ s.heel.freeze ≠ .none then none else
    let x := s.segmentArrives seg
    some (x.2.emit (.fabric seg.chip 2 (.answer seg.stream (match x.1 with
      | none => .val 0
      | some c => .err c)) (s.sealed (s.ctxOf (tokenCore seg.token))))))

/-- Every slot a chip has reserved becomes TORN when the chip becomes unreachable (R453). -/
def State.tear (s : State) (chip : Nat) : State :=
  let hit := s.lz.filterMap fun (p : Nat × LzSlot) => match p.2.st with
    | .reserved c k => if c = chip then some (p.1, p.2, k) else none
    | _ => none
  hit.foldl (fun s (n, z, k) =>
    let core := n / 16
    let s : State := { s with lz := Tab.set s.lz n { z with st := .torn chip k s.time } }
    let s := s.poisonSem core z.sem 0x58#8
    let m : Msg := { value := tokenOf s.ownChip core (n % 16) z.log k, status := 0x58#16, seq := BitVec.ofNat 16 z.counted,
                     src := core, kind := 2, tag := z.tag }
    let s := s.updCore core fun c => { c with completions := c.completions ++ [m] }
    -- A card whose tile can no longer land is discarded (R446).
    (s.qs.inv.flatMap (·.2)).foldl (fun s i => if i.pkt.chip = chip ∧ !i.waiting.isEmpty then s.cardTile chip i.key 0 false else s) s) s

/-- The chip a sent request is on its way to, none for the host. -/
def ReqState.destination : ReqState → Option Nat
  | .sent c => c
  | _ => none

/-- A link goes down (R433, R436): its record is posted, requests and invocations in flight over it fail, and the slots that
chips beyond it have reserved tear (R453). -/
def State.linkDown (s : State) (port : Nat) : State :=
  let p := s.ports.getD port {}
  let beyond := (List.range 16).filter fun n => s.routing.getD n 7 == port
  let fails := s.reqs.filter fun r => r.2.st.destination.any beyond.contains
  let lost := s.localInv.filter fun e => beyond.contains (bits e.2.2.header 3 0)
  let s : State := { s with ports := Tab.set s.ports port { p with up := false, replay := [], waiting := [] } }
  let s := fails.foldl (fun s r => s.answered r.1 r.2 (.err 0x21#8)) s
  let s := lost.foldl (fun s e => s.answerInv e (.err 0x21#8)) s
  let s := s.postFault { kind := 6, sub := 1, arg := BitVec.ofNat 16 port, ctx := 0, addr := 0, info := Word.ofNat (p.neighbour.getD 0) }
  beyond.foldl (fun s c => s.tear c) s

/-- A TORN slot is FREE again 1 ms after it tore (R449). -/
def execLzTornTimeout (core lz : Nat) (s : State) : Host.Outcome State Fault Refusal :=
  event "LZ_TORN_TIMEOUT" (match s.lz.get? (16 * core + lz) with
    | some z => match z.st with
      | .torn _ _ since =>
        if (s.time - since).toNat < 1000000 then none
        else some { s with lz := Tab.set s.lz (16 * core + lz) { z with st := .free, counted := 0, streams := [] } }
      | _ => none
    | none => none)

/-! ### Signal updates (R455) -/

/-- A signal update takes effect at the word's home, in one step (R455). -/
def execSigupdArrival (src : SigSource) (s : State) : Host.Outcome State Fault Refusal :=
  event "SIGUPD_ARRIVAL" (match src with
    | .own n => match s.req n with
      | some r => match r.acc, r.st with
        | .signal _ _, .queued =>
          let go := fun (s : State) (p : Nat) =>
            let x := s.serve p r.acc
            some (x.2.answered n r x.1)
          (match s.sramOf r with
            | some p => go s p
            | none => match region 0 r.addr with
              | .paged p => (match s.translate p with
                | (.dram d, s) => s.dramExits p (go (s.fillLine p d true) d)
                | _ => none)
              | _ => none)
        | _, _ => none
      | none => none
    | .chip c tag a op v isSealed => s.homeOther c tag a (.signal op v) isSealed)

end Sys2Proof.Machine
end

