-- ==== Sys2Proof/Machine/EngineOps.lean ====
section
/-! DEFINITION. What the engines share: their accesses to memory (08 R243, 11 R330, R350), the results of matrix jobs (10 R305,
R316-R320), and the commands of the KSE as programs over memory (11 R343-R357). -/

namespace Sys2Proof.Machine

/-! ### Accesses of engines -/

/-- The engines of a cluster run: the island is ACTIVE and nothing is frozen (R393, R405). -/
def State.engineOn (s : State) (cluster : Nat) : Bool :=
  (s.island (if cluster < 64 then 0 else 1)).st == .active && s.heel.freeze == .none

/-- Where an engine's access goes. -/
inductive EngAddr where
  | die (p : Nat)
  | host (h : Nat)
  | chip (c a : Nat)
  | absent (p : Word)
  | fault (code : Byte)
deriving DecidableEq, Repr

/-- An engine's access at a context address: the rights fill of R236, then the translation of R243; a chip that cannot be
reached fails it at once (R436). An SRAM span a copy has
checked at issue is not checked again (R329). -/
def State.engineAddr (s : State) (ctx : Nat) (x : Ctx) (a : Word) (need : Byte) (checkSram : Bool) : EngAddr × State :=
  let allowed := match s.fill x a with
    | some e => some (e.rights &&& need == need)
    | none => none
  let die := fun (p : Nat) => if s.fencedAt p then EngAddr.fault 0x72#8 else .die p
  match region x.tenant a with
  | .sram c o => match x.phys c o with
    | none => (.fault 0x11#8, s)
    | some p => if checkSram ∧ (inSpill p ∨ allowed ≠ some true) then (.fault 0x10#8, s) else (die p, s)
  | .paged q => match allowed with
    | none => (.fault 0x11#8, s)
    | some false => (.fault 0x10#8, s)
    | some true =>
      let (t, s) := s.translate q
      (match t with
        | .dram d => (die d, if s.selfRefresh then s else s.fillLine q d (need == rW))
        | .host h => (.host h, s)
        | .chip c b => (if (s.portTo c).isNone then .fault 0x21#8 else .chip c b, s)
        | .absent => (.absent q, s)
        | .refused m level w0 => (.fault 0x20#8, if m then s.postMalformed q ctx level w0 else s))
  | _ => (.fault 0x11#8, s)

/-! ### Results of matrix jobs (R305, R316-R320) -/

/-- What a job writes: tile elements by 64·row + column, bits of memory, flags. -/
structure JobResult where
  cells : List (Nat × Word) := []
  writes : List BitWrite := []
  flags : JFlags := {}
  /-- The free values its writes use. -/
  free : Nat := 0
deriving DecidableEq, Repr

def Me.elem (m : Me) (t i j : Nat) : Word := (m.tiles.getD t []).getD (64 * i + j) 0

/-- The byte a job reads at an address of its context. -/
def State.jobByte (s : State) (x : Ctx) (a : Word) : Byte :=
  match region x.tenant a with
  | .sram c o => match x.phys c o with
    | some p => s.byte p
    | none => 0
  | _ => 0

/-- Elements of a window with their flags joined. -/
def windowResult (w : Window) (f : Nat → Nat → Word × JFlags) : JobResult :=
  let l := (cellsOf w.rows w.cols).map fun p => (64 * (w.row0 + p.1) + (w.col0 + p.2), f p.1 p.2)
  { cells := l.map fun p => (p.1, p.2.1), flags := l.foldl (fun fl p => fl.or p.2.2) {} }

def rmOf (rm : BitVec 2) : RMode :=
  match rm.toNat with
  | 0 => .rne
  | 1 => .rtz
  | 2 => .rup
  | _ => .rdn

/-- The spans of a job's source and destination share a byte (R293). -/
def Job.overlaps (j : Job) : Bool :=
  let p := j.a.span 0
  let q := j.b.span 0
  decide (p.1 ≤ q.2) && decide (q.1 ≤ p.2)

/-- Write bits at a bit address of the context; the words touched become full, other bits of them stay (R307). -/
def State.bitWrite (x : Ctx) (s : State) (w : BitWrite) : State :=
  let (t, n, v) := w
  let at_ := fun (a : Word) => match region x.tenant a with
    | .sram c o => x.phys c o
    | _ => none
  match at_ (Word.ofInt (t / 8)) with
  | none => s
  | some p =>
    if n < 8 then
      let k := (t % 8).toNat
      let mask : Byte := BitVec.ofNat 8 ((2 ^ n - 1) * 2 ^ k)
      s.engineWrite p [(s.byte p &&& ~~~mask) ||| (BitVec.ofNat 8 (v % 2 ^ n * 2 ^ k))]
    else s.engineWrite p (leBytes (n / 8) v)

/-- The writes of mpack or munpack, `f` of the bytes it reads. Over its own source it leaves old and new data in any mixture
(R320): each bit comes from the source as it was or as the job has written it, as a free value says. -/
def State.packed (s : State) (j : Job) (x : Ctx) (f : (Word → Byte) → List BitWrite) : JobResult :=
  let old := f (s.jobByte x)
  if !j.overlaps then { writes := old } else
  let new := f ((old.foldl (fun s w => s.bitWrite x w) s).jobByte x)
  { writes := ((old.zip new).zip (List.range old.length)).map fun p =>
      let v := (Config.freeWord (s.freeCtr + p.2)).toNat
      (p.1.1.1, p.1.1.2.1, p.1.1.2.2 ^^^ ((p.1.1.2.2 ^^^ p.1.2.2.2) &&& v)), free := old.length }

/-- The result of a job, a function of its operands and its incoming tile window alone (R301). -/
def State.jobResult (s : State) (j : Job) (x : Ctx) : JobResult :=
  let m := (s.cluster (clusterOf j.core)).me
  let rd := s.jobByte x
  let w := j.win
  match mfmt j.a.fmt, mfmt j.b.fmt with
  | some fa, some fb =>
    (match j.form with
      | .mma => windowResult w fun r c =>
          mmaElem ⟨j.a, j.b, j.ad, j.na, j.nb⟩ fa fb rd (m.elem j.tile (w.row0 + r) (w.col0 + c)) r c
      | .accld => windowResult w fun r c => accldElem fa (j.a.elem fa rd r c)
      | .acczero => windowResult w fun _ _ => (0, {})
      | .accst =>
        let l := (cellsOf w.rows w.cols).map fun p =>
          (p, accstElem fa j.int (rmOf j.rm) (m.elem j.tile (w.row0 + p.1) (w.col0 + p.2)) j.scale)
        { writes := l.map fun p => (j.a.bitAddr fa.sw p.1.1 p.1.2, fa.sw, p.2.1), flags := l.foldl (fun fl p => fl.or p.2.2) {} }
      | .mpack => s.packed j x (mpackWrites j.a j.b fa)
      | .munpack => s.packed j x (munpackWrites j.a j.b fa))
  | _, _ => {}

/-- A digest of a window, in row-major order (R409). -/
def JobResult.digest (r : JobResult) : Word := r.cells.foldl (fun h p => mix64 (h ^^^ p.2)) 0

/-- A fenced block lies in a span of the context's SRAM window (R412). -/
def State.spanFenced (s : State) (x : Ctx) (lo hi : Int) : Bool :=
  s.fencedBlocks.any fun b => match x.slices.idxOf? (b / 512) with
    | some i =>
      let first : Int := sramBase + i * 2 ^ 21 + b % 512 * 4096
      decide (lo ≤ first + 4095) && decide (first ≤ hi)
    | none => false

/-- A job meets a lasting error: it would touch a fenced block (R305, R412). -/
def State.jobBlocked (s : State) (j : Job) (x : Ctx) : Bool :=
  (jobSpans j.form j.a j.b).any fun p => s.spanFenced x p.1.1 p.1.2

/-- Operations of the ME on a tile (R306). -/
def MeForm.usesTile : MeForm → Bool
  | .mpack | .munpack => false
  | _ => true

/-- A command has ended: the record of a stepped thread that still waits for its place shows how (R369, R381). -/
def State.commandEnded (s : State) (ctx core unit : Nat) (id : BitVec 16) (code : Byte) : State :=
  -- The core may have gone to another context since (R372).
  if (s.core core).ctx ≠ some ctx then s else
  let note := fun (t : Thread) => match t.run with
    | .stopped st none =>
      if st.junit = unit ∧ st.jobid = id ∧ st.jstate = 1 then
        { t with run := .stopped { st with jstate := if code = 0 then 2 else 3, ecode := code } none }
      else t
    | _ => t
  s.updCore core fun c =>
    { c with slots := Tab.mapV c.slots (fun _ t => note t), saved := Tab.mapV c.saved fun _ v => { v with th := note v.th } }

/-- The entry of a job frees (R305). -/
def State.freeJob (s : State) (j : Job) : State :=
  s.updMe (clusterOf j.core) fun m =>
    { m with
      jobs := m.jobs.filter fun k => !(k.core == j.core && k.id == j.id && k.ctx == j.ctx)
      idleSince := s.time
      running := match m.running with
        | some (c, i, n) => if c = j.core ∧ i = j.id then none else some (c, i, n)
        | none => none }

/-- The end of a job (R305, R306): its entry frees, its latch, status and signal follow, and its waiters go on. `signals` is
false for the secondary of a pair, whose signal the primary's reaches (R409). A job of a killed context, whose core may have gone to
another, leaves nothing but its entry (R372). -/
def State.endJob (s : State) (j : Job) (fault : Byte) (flags : JFlags) (signals : Bool) : State :=
  let s := s.freeJob j
  if !s.live j.ctx then s else
  let s := s.updMe (clusterOf j.core) fun m =>
    { m with
      latch := if !j.form.usesTile then m.latch else if fault ≠ 0 then Tab.set m.latch j.tile fault
        else if j.form = .accld ∨ j.form = .acczero then Tab.erase m.latch j.tile else m.latch }
  let st := statusWord j.id fault true flags
  let s := s.commandEnded j.ctx j.core 1 j.id fault
  let s := s.updCore j.core fun c => { c with jobs := c.jobs.map fun p => if p.1 = j.id then (p.1, st) else p }
  let s := if !signals then s else if fault ≠ 0 then s.signalFault j.core j.td fault else s.signal j.core j.td
  let s := if fault ≠ 0 ∧ j.asy then
      s.notice j.core 15 j.ctx { code := fault, pc := j.pc, rpc := 0, type := 2, jobid := j.id, junit := 1, tile := j.tile }
    else s
  -- A thread saved on the job keeps its status (R312).
  let keep := fun (_ : Nat) (v : Saved) =>
    if v.th.heldEntry = some j.id.toNat ∧ v.th.onJob then { v with th := { v.th with replies := [.val (st.zeroExtend 512)] } } else v
  let s := s.updCore j.core fun c => { c with saved := Tab.mapV c.saved keep }
  let s := s.wakeSaved (· == j.core) fun _ w => w == .job j.id.toNat
  s.reissueAll (· == j.core) fun _ w => match w with
    | .job _ => true
    | _ => false

/-- Write the results of a job into its own engine's tile, and into memory when `memory` says so; of destination elements that
share bytes the last in row-major order stays (DESIGN CHOICE, log entry 58). Its free values are used. -/
def State.putJob (s : State) (j : Job) (x : Ctx) (r : JobResult) (memory : Bool) : State :=
  let s : State := { s with freeCtr := s.freeCtr + r.free }
  let s := s.updMe (clusterOf j.core) fun m =>
    if r.cells.isEmpty then m else
    { m with tiles := Tab.set m.tiles j.tile (r.cells.foldl (fun (t : Tab Word) p => if p.2 = 0 then Tab.erase t p.1 else Tab.set t p.1 p.2)
        (m.tiles.getD j.tile [])) }
  if memory then r.writes.foldl (fun s w => s.bitWrite x w) s else s

/-! ### Commands of the KSE (R343-R357) -/

/-- How a command stops before its end: a page that is not present, or a fault with its address and, for a dense fallback, its
reason (R354, R376). -/
inductive KseStop where
  | absent (page : Word) (write : Bool)
  /-- DRAM is in self-refresh (R394). -/
  | refresh
  | fault (code : Byte) (addr : Word) (reason : Nat)

/-- A command in execution: the values it read before it was set aside come first, and what it did then is not done again
(R348). -/
structure KseEnv where
  s : State
  x : Ctx
  cmd : KseCmd
  cluster : Nat
  replay : List Word
  skip : Nat
  got : Option Projection
  log : List Word := []
  wrote : Nat := 0

abbrev KseM := EStateM KseStop KseEnv

namespace KseM

def fail {α : Type} (code : Byte) (addr : Word) (reason : Nat := 0) : KseM α := throw (.fault code addr reason)

/-- The place of an access; a page with LOC 0b01 or 0b10 is refused, wherever its chip is (R350). -/
def place (a : Word) (need : Byte) : KseM Nat := do
  let e ← get
  let (p, s) := e.s.engineAddr e.cmd.ctx e.x a need true
  set { e with s := s }
  let off := match region e.x.tenant a with
    | .paged q => (s.bankLine q).isNone && s.outsidePage q
    | _ => false
  match p with
  | .absent q => throw (.absent q (need == rW))
  | .fault 0x10#8 => fail 0x10#8 a
  | .fault 0x11#8 => fail 0x11#8 a
  | p => if off then fail 0x20#8 a else
  match p with
  | .die p => if e.s.selfRefresh ∧ dramBase ≤ p then throw .refresh else return p
  | .fault c => fail c a
  | _ => fail 0x20#8 a

/-- Read `n` bytes within an aligned word. -/
def read (a : Word) (n : Nat) : KseM Word := do
  match (← get).replay with
  | w :: l =>
    modify fun e => { e with replay := l, log := e.log ++ [w] }
    return w
  | [] =>
    let p ← place a rR
    let e ← get
    let w := Word.ofNat (e.s.read p n)
    set { e with log := e.log ++ [w] }
    return w

/-- Read `n` bytes, up to 8, that may cross a word. -/
def readAny (a : Word) (n : Nat) : KseM Word := do
  let o := a.toNat % 8
  if o + n ≤ 8 then read a n
  else
    let lo ← read a (8 - o)
    let hi ← read (a + Word.ofNat (8 - o)) (n - (8 - o))
    return lo ||| (hi <<< (8 * (8 - o)))

/-- A step made once: a command that was set aside after it goes on behind it (R348). -/
def once (x : KseM Unit) : KseM Unit := do
  let e ← get
  if e.wrote < e.skip then pure () else x
  modify fun e => { e with wrote := e.wrote + 1 }

/-- Write `n` bytes within an aligned word; the word becomes full (R350). -/
def write (a : Word) (n : Nat) (v : Word) : KseM Unit := once do
  let p ← place a rW
  modify fun e => { e with s := e.s.engineWrite p (leBytes n v.toNat) }

/-- Write bytes from an address on, word by word. -/
def writeBytes (a : Word) : List Byte → Nat → KseM Unit
  | _, 0 => pure ()
  | [], _ => pure ()
  | b :: l, fuel + 1 => do
    let n := 8 - a.toNat % 8
    let bytes := b :: l
    let now := bytes.take n
    write a now.length (BitVec.ofNat 64 (now.foldr (fun b n => b.toNat + 256 * n) 0))
    writeBytes (a + Word.ofNat now.length) (bytes.drop n) fuel

/-- Check a whole span for R, as the issue checks operands (R350): map row, slices and rights. -/
def span (a : Word) (n : Nat) : KseM Unit := once do
  let e ← get
  let last := a + Word.ofNat (n - 1)
  if spanRow a ≠ spanRow last ∨ (spanRow a).isNone then fail 0x11#8 last else
  if spanRow a ≠ some 3 then pure () else
  for g in List.range (last.toNat / 2 ^ 17 - a.toNat / 2 ^ 17 + 1) do
    let b := if g = 0 then a else Word.ofNat ((a.toNat / 2 ^ 17 + g) * 2 ^ 17)
    match (e.s.engineAddr e.cmd.ctx e.x b rR true).1 with
    | .fault 0x72#8 => pure ()
    | .fault c => fail c b
    | _ => pure ()

/-- The projection of the named entry; an empty one, or one of another context, is fault 0x40 (R341). -/
def entry (addr : Word) : KseM Projection := do
  let e ← get
  match e.got with
  | some p => return p
  | none =>
    match (e.s.cluster e.cluster).kse.bank.get? e.cmd.entry with
    | some { ctx := n, proj := some p } =>
      if n = e.cmd.ctx then
        set { e with got := some p }
        return p
      else fail 0x40#8 addr
    | _ => fail 0x40#8 addr

/-- A page header (R345). -/
structure Page where
  at_ : Word
  phash : Word
  w1 : Word
  w2 : Word
  keys : Word
  btab : Word
  pool : Word

def Page.cap (p : Page) : Nat := bits p.w1 63 48
def Page.kfmt (p : Page) : Nat := bits p.w1 41 40
def Page.b (p : Page) : Nat := bits p.w1 36 32
def Page.d (p : Page) : Nat := bits p.w1 24 16
def Page.busy (p : Page) : Bool := p.w1.getLsbD 13
def Page.linker (p : Page) : Nat := bits p.w1 6 0
def Page.count (p : Page) : Nat := bits p.w2 63 32
def Page.tbase (p : Page) : Nat := bits p.w2 31 0
/-- Bytes of a key element. -/
def Page.es (p : Page) : Nat := if p.kfmt = 2 then 4 else if p.kfmt = 3 then 1 else 2

def page (a : Word) : KseM Page := do
  let phash ← read a 8
  let w1 ← read (a + 8) 8
  let w2 ← read (a + 16) 8
  let keys ← read (a + 24) 8
  let btab ← read (a + 32) 8
  let pool ← read (a + 40) 8
  return ⟨a, phash, w1, w2, keys, btab, pool⟩

/-- The value of a key element (R344, R345). -/
def keyValue (kfmt bits_ : Nat) : FVal :=
  if kfmt = 0 then FVal.ofBits .f16 bits_ else if kfmt = 1 then FVal.ofBits .bf16 bits_
  else if kfmt = 2 then FVal.ofBits .f32 bits_ else numOf (sintOf 8 bits_) 0

/-- A value with its sign changed. -/
def flip (neg : Bool) (v : FVal) : FVal :=
  match v with
  | .num n m e => .num (n != neg) m e
  | .inf n => .inf (n != neg)
  | v => v

/-- The signature of a key under a projection (R344). -/
def signature (p : Projection) (key : List FVal) : Nat :=
  if key.any (·.isNan) then 0 else
  let bit : BitVec 256 → Bool := fun row =>
    let ts := (key.zip (List.range key.length)).map fun (x : FVal × Nat) => flip (row.getLsbD x.2) x.1
    let infs := ts.filterMap fun t => match t with
      | .inf n => some n
      | _ => none
    match infs with
    | n :: l => if (n :: l).all (· == n) then n else false
    | [] => decide ((sumExact ts).1 < 0)
  (p.rows.zip (List.range p.rows.length)).foldl (fun acc x => if bit x.1 then acc + 2 ^ x.2 else acc) 0

/-- Read the elements of a key. -/
def readKey (p : Page) (a : Word) : KseM (List Word) :=
  (List.range p.d).mapM fun i => readAny (a + Word.ofNat (i * p.es)) p.es

def keyVals (p : Page) (l : List Word) : List FVal := l.map fun w => keyValue p.kfmt w.toNat

/-- Note an address the engine has used for the context, for the renaming of R385: up to 256; bit 0 marks a pool. -/
def note (a : Word) : KseM Unit := modify fun e =>
  let f := fun (q : Kse) => match q.used.getD e.cmd.ctx (some []) with
    | some l => if l.contains a then q else
      { q with used := Tab.set q.used e.cmd.ctx (if l.length < 256 then some (l ++ [a]) else none) }
    | none => q
  { e with s := e.s.updKse e.cluster f }

/-- The pool of a page, whose OWNER must be this cluster (R347): its base and its free word. -/
def pool (p : Page) : KseM (Word × Word × Word) := do
  let base ← read p.pool 8
  let w1 ← read (p.pool + 8) 8
  if bits w1 38 32 ≠ (← get).cluster then fail 0x40#8 p.pool else
  note (p.pool ||| 1)
  let free ← read (p.pool + 16) 8
  return (base, w1, free)

/-- The address of block x, named by x ≠ 0 (R346). -/
def block (base : Word) (x : Nat) : Word := base + Word.ofNat (64 * (x - 1))

/-- Link a token in the bucket of its signature (R353). -/
def link (p : Page) (sig t : Nat) : KseM Unit := do
  let at_ := p.btab + Word.ofNat (8 * sig)
  let x ← read at_ 8
  if x.getLsbD 63 then pure () else
  let (base, _, free) ← pool p
  let head := bits x 31 0
  let fill := bits x 35 32
  if head ≠ 0 ∧ fill < 15 then
    write (block base head + Word.ofNat (4 * fill)) 4 (Word.ofNat t)
    write at_ 8 (fields [(fill + 1, 32), (head, 0)])
  else
    let f := bits free 31 0
    if f ≠ 0 then
      let next ← read (block base f + 60) 4
      write (p.pool + 16) 8 (fields [((bits free 63 32 + 2 ^ 32 - 1) % 2 ^ 32, 32), (bits next 31 0, 0)])
      write (block base f) 4 (Word.ofNat t)
      write (block base f + 60) 4 (Word.ofNat head)
      write at_ 8 (fields [(1, 32), (f, 0)])
    else
      once (modify fun e => { e with s := e.s.updCore e.cmd.core fun c => { c with satn := min (c.satn + 1) 65535 } })
      write at_ 8 (x ||| (1#64 <<< 63))

/-- The checks kstore and kbuild share (R353, R357). -/
def linkable (p : Page) (e : Projection) : KseM Unit := do
  if p.linker ≠ (← get).cluster ∨ p.d ≠ e.d ∨ p.b ≠ e.b then fail 0x40#8 p.at_ else
  note p.at_

/-- ksproj (R342, R343, R352). -/
def ksproj (a : Word) : KseM Unit := do
  let w0 ← read a 8
  let z1 ← read (a + 8) 8
  let z2 ← read (a + 16) 8
  let z3 ← read (a + 24) 8
  let d := bits w0 8 0
  let b := bits w0 20 16
  if bits w0 63 21 ≠ 0 ∨ bits w0 15 9 ≠ 0 ∨ z1 ≠ 0 ∨ z2 ≠ 0 ∨ z3 ≠ 0 ∨ d < 1 ∨ 256 < d ∨ b < 4 ∨ 16 < b then fail 0x40#8 a else
  let rows ← (List.range b).mapM fun j => do
    let ws ← (List.range 4).mapM fun w => read (a + Word.ofNat (32 + 32 * j + 8 * w)) 8
    return BitVec.ofNat 256 (ws.foldr (fun w n => w.toNat + 2 ^ 64 * n) 0 % 2 ^ d)
  let hash := rows.foldl (fun h r => (List.range 4).foldl (fun h w => mix64 (h ^^^ r.extractLsb' (64 * w) 64)) h)
    (mix64 (Word.ofNat (b * 2 ^ 16 + d)))
  let e ← get
  match (e.s.cluster e.cluster).kse.bank.get? e.cmd.entry with
  | some k =>
    if k.ctx ≠ e.cmd.ctx then fail 0x40#8 a else
    set { e with s := e.s.updKse e.cluster fun q =>
      { q with bank := Tab.set q.bank e.cmd.entry { k with proj := some ⟨d, b, rows, hash⟩ } } }
  | none => fail 0x40#8 a

/-- kstore (R353). That the bank entry is taken before the first read of the header, so that an empty entry's 0x40 comes before a fault
or an absent page of the header, and that the entry so taken is kept while the command is set aside, is the model's choice: R341 and
R353 give no moment (DESIGN CHOICE, log entry 61). -/
def kstore (key hdr tok : Word) : KseM Unit := do
  let e ← entry hdr
  let p ← page hdr
  linkable p e
  if p.phash ≠ e.hash then fail 0x49#8 hdr else
  let t := bits tok 31 0
  let n := (t + 2 ^ 32 - p.tbase) % 2 ^ 32
  if p.cap ≤ n then fail 0x40#8 hdr else
  span key (p.d * p.es)
  let l ← readKey p key
  writeBytes (p.keys + Word.ofNat (n * p.d * p.es)) (l.flatMap fun w => leBytes p.es w.toNat) (p.d * p.es)
  write (hdr + 16) 8 (fields [(max p.count (n + 1), 32), (p.tbase, 0)])
  link p (signature e (keyVals p l)) t

/-- Return a chain of blocks to the front of the free list (R357): the free word after it. The fuel is the number of blocks
of the pool, so it lasts for every chain that is not circular. -/
def freeChain (p : Page) (base : Word) : Nat → Nat → Word → KseM Word
  | _, 0, free => return free
  | 0, _, free => return free
  | fuel + 1, b, free => do
    let nb ← read (block base b + 60) 4
    write (block base b + 60) 4 (Word.ofNat (bits free 31 0))
    let free := fields [((bits free 63 32 + 1) % 2 ^ 32, 32), (b, 0)]
    write (p.pool + 16) 8 free
    freeChain p base fuel (bits nb 31 0) free

/-- kbuild (R357). -/
def kbuild (hdr : Word) : KseM Unit := do
  let e ← entry hdr
  let p ← page hdr
  linkable p e
  let (base, w1, free) ← pool p
  write (hdr + 8) 8 (p.w1 ||| (1#64 <<< 13))
  let mut f := free
  for i in List.range (2 ^ p.b) do
    let at_ := p.btab + Word.ofNat (8 * i)
    let x ← read at_ 8
    f ← freeChain p base (bits w1 31 0) (bits x 31 0) f
    write at_ 8 0
  for n in List.range p.count do
    let l ← readKey p (p.keys + Word.ofNat (n * p.d * p.es))
    link p (signature e (keyVals p l)) ((p.tbase + n) % 2 ^ 32)
  write hdr 8 e.hash
  write (hdr + 8) 8 (p.w1 &&& ~~~(1#64 <<< 13))

/-- The buckets within a radius of a signature, in the order of R354. -/
def probes (q b rad : Nat) : List Nat :=
  [q] ++ (if rad = 0 then [] else (List.range b).map fun j => q ^^^ 2 ^ j) ++
    (if rad = 2 then (List.range b).flatMap fun j => (List.range b).filterMap fun i => if j < i then some (q ^^^ 2 ^ j ^^^ 2 ^ i) else none else [])

/-- The last reason of a dense fallback, kept by the core (R356). -/
def denseFallback {α : Type} (hdr : Word) (reason : Nat) : KseM α := do
  modify fun e => { e with s := e.s.updCore e.cmd.core fun c => { c with lastfb := reason } }
  fail 0x48#8 hdr reason

/-- Write the tokens of one block from slot `n - 1` down (R354): the count so far. -/
def gatherBlock (hdr blk dst : Word) (cap : Nat) : Nat → Nat → KseM Nat
  | 0, m => return m
  | n + 1, m => do
    if m = cap then denseFallback hdr 2 else
    let t ← read (blk + Word.ofNat (4 * n)) 4
    write (dst + Word.ofNat (4 * m)) 4 t
    gatherBlock hdr blk dst cap n (m + 1)

/-- Walk the blocks of a bucket, newest first (R354). -/
def gatherChain (hdr base dst : Word) (cap : Nat) : Nat → Nat → Nat → Nat → KseM Nat
  | 0, _, _, m => return m
  | _, 0, _, m => return m
  | fuel + 1, b, fill, m => do
    let m ← gatherBlock hdr (block base b) dst cap fill m
    let next ← read (block base b + 60) 4
    gatherChain hdr base dst cap fuel (bits next 31 0) 15 m

/-- kgather (R354): the count. -/
def kgather (qv : Bool) (rad cap : Nat) (hdr qry dst : Word) : KseM Nat := do
  let e ← entry hdr
  let p ← page hdr
  if p.d ≠ e.d ∨ p.b ≠ e.b then fail 0x40#8 hdr else
  if p.phash ≠ e.hash then fail 0x49#8 hdr else
  if p.busy then denseFallback hdr 3 else
  let q ← if qv then do
      span qry (p.d * p.es)
      let l ← readKey p qry
      pure (signature e (keyVals p l))
    else pure (qry.toNat % 2 ^ p.b)
  let l := probes q p.b rad
  let xs ← l.mapM fun b => read (p.btab + Word.ofNat (8 * b)) 8
  if xs.any (·.getLsbD 63) then denseFallback hdr 1 else
  -- The walk reads the pool at the first block it comes to, and none when it ends before.
  let base ← match xs.find? fun x => bits x 31 0 ≠ 0 with
    | none => pure 0
    | some x => if cap = 0 ∧ bits x 35 32 ≠ 0 then denseFallback hdr 2 else read p.pool 8
  let mut m := 0
  for x in xs do
    m ← gatherChain hdr base dst cap (cap + 2) (bits x 31 0) (bits x 35 32) m
  return m

/-- A command: the count of a gather, 0 of another. -/
def run : KseM Nat := do
  let k := (← get).cmd
  match k.form with
  | .ksproj => do
    ksproj k.a
    return 0
  | .kstore => do
    kstore k.a k.b k.c
    return 0
  | .kbuild => do
    kbuild k.a
    return 0
  | .kgather qv rad cap => kgather qv rad cap k.a k.b k.c

end KseM

end Sys2Proof.Machine
end

