-- ==== Sys2Proof/Machine/EvEngine.lean ====
section
/-! DEFINITION. Events of the engines: the matrix engine (10 R304-R312), the copy engine (11 R325-R338, 15 R451) and the key
store engine (11 R348-R357). -/

namespace Sys2Proof.Machine

/-- A TD wait as an engine considers it: met, or poisoned with a code (R48, R305, R325, R348). -/
def State.tdState (s : State) (core : Nat) (td : Td) : Option (Option Byte) :=
  if td.wt = 0#8 then some none else
  let k := (s.core core).sem td.ws.toNat
  if k.p then some (some k.code) else if td.wt.toNat ≤ k.v then some none else none

/-- The engine commands of a core do not start while it is held for a core migration or its context moves (R386, R389, R391); a
save waits for them all, so they do start (R260, R339). -/
def State.mayStart (s : State) (core : Nat) : Bool :=
  match s.ctx (s.ctxOf core) with
  | some x => !((s.core core).held && !x.saving) && !(x.migrating && !s.inPark (s.ctxOf core))
  | none => !(s.core core).held

/-! ### The matrix engine -/

/-- The oldest job of each core, in the order of acceptance (R304). -/
def oldestJobs (l : List Job) : List Job :=
  l.foldl (fun acc j => if acc.any fun k => k.core == j.core then acc else acc ++ [j]) []

/-- The cycles of a job (R308). -/
def Job.cycles (j : Job) : Nat :=
  let fa := mfmt j.a.fmt
  let fb := mfmt j.b.fmt
  jobCycles (islandOf j.core == 1) (match j.form with
    | .mma => 0
    | .accld => 1
    | .accst => 2
    | .acczero => 3
    | _ => 4) j.win.rows (match j.form with
    | .mma => j.a.cols
    | .mpack => j.b.rows
    | _ => j.a.rows) ((fa.map (·.passes)).getD 1) ((fb.map (·.planes)).getD 1)

def execMeJobStart (cluster : Nat) (s : State) : Host.Outcome State Fault Refusal :=
  event "ME_JOB_START" (
    let m := (s.cluster cluster).me
    if m.running.isSome ∨ m.gated ∨ m.fenced ∨ !s.engineOn cluster then none else
    let ready := (oldestJobs m.jobs).filterMap fun j =>
      if s.mayStart j.core then (s.tdState j.core j.td).map fun p => (j, p) else none
    match ready with
    | [] => none
    | (j, some code) :: _ => some (s.endJob j code {} true)
    | (j, none) :: _ =>
      match if j.form = .mma ∨ j.form = .accst then m.latch.get? j.tile else none with
      | some code => some (s.endJob j code {} true)
      | none => some (s.updMe cluster fun m => { m with running := some (j.core, j.id, (s.core j.core).cycle + j.cycles) }))

/-- The twin's job, when it is the next its own engine may run (R409). -/
def State.twinJob (s : State) (j : Job) (core slot : Nat) : Option Job :=
  (oldestJobs (s.cluster (clusterOf core)).me.jobs).find? fun k =>
    k.core == core && k.slot == slot && k.form == j.form && s.tdState core k.td == some none

/-- Twin jobs whose digests or writes differ: both threads trap, and the safety core receives copies of their records (R410). -/
def State.jobMismatch (s : State) (j k : Job) : State :=
  let one := fun (s : State) (j : Job) =>
    let s := match s.thread j.core j.slot with
      | some t => s.trapPaired (j.core, j.slot) { mismatchStop t 0 j.asy with junit := 1, tile := j.tile, jobid := j.id }
      | none => s
    s.endJob { j with asy := false } 0x70#8 {} true
  one (one s j) k

/-- The end of the running job (R305). A paired job ends together with its twin, compared with it (R409). -/
def execMeJobComplete (cluster : Nat) (s : State) : Host.Outcome State Fault Refusal :=
  event "ME_JOB_COMPLETE" (
    let m := (s.cluster cluster).me
    match m.running with
    | none => none
    | some (core, id, at_) =>
      if !s.engineOn cluster ∨ (s.core core).cycle < at_ then none else
      match m.jobs.find? fun j => j.core == core && j.id == id with
      | none => none
      | some j => match s.ctx j.ctx with
        | none => none
        | some x =>
          if s.jobBlocked j x then some (s.endJob j 0x72#8 {} true) else
          let r := s.jobResult j x
          match j.twin with
          | none => some ((s.putJob j x r true).endJob j 0 r.flags true)
          | some (c, k, primary) => match s.twinJob j c k with
            | none => none
            | some j2 =>
              -- Twins take the same free values, so that two without a fault never mismatch (R301, R410).
              let r2 := s.jobResult j2 x
              if r.digest = r2.digest ∧ r.writes = r2.writes then
                let s := (s.putJob j x r true).putJob j2 x r2 false
                some ((s.endJob j 0 r.flags primary).endJob j2 0 r2.flags (!primary))
              else some (s.jobMismatch j j2))

/-- The nanoseconds of cycles of a cluster's clock (R308). -/
def State.clusterNs (s : State) (cluster n : Nat) : Nat := n * 1000 / max 1 (s.mhz (2 * cluster))

/-- MEIDLE cycles with an empty queue (R309). -/
def execMeIdleGate (cluster : Nat) (s : State) : Host.Outcome State Fault Refusal :=
  event "ME_IDLE_GATE" (
    let m := (s.cluster cluster).me
    if m.gated ∨ !m.jobs.isEmpty ∨ s.mgmt.meidle = 0 ∨ (s.time - m.idleSince).toNat < s.clusterNs cluster s.mgmt.meidle then none
    else some (s.updMe cluster fun m => { m with gated := true, waking := false }))

def execMeWakeComplete (cluster : Nat) (s : State) : Host.Outcome State Fault Refusal :=
  event "ME_WAKE_COMPLETE" (
    let m := (s.cluster cluster).me
    if m.gated && m.waking then
      let s := s.updMe cluster fun m => { m with gated := false, waking := false, wakeFor := none, idleSince := s.time }
      some (match m.wakeFor with
        | some n => s.charge n
        | none => s)
    else none)

/-! ### The copy engine -/

/-- The bytes of a copy's stream (R327, R446, R451). -/
def Copy.total (c : Copy) : Nat := c.len * c.n1 * c.n2

/-- The bytes the engine moves as one unit: a granule, a row of cpy.lb, a segment (R327, R335, R451). -/
def Copy.unit (c : Copy) : Nat :=
  match c.form with
  | .lb => c.len
  | .lz | .card => 4096
  | _ => 256

/-- Every landing-zone segment of a copy: tile, number in the tile, and the tile's move (R446, R451). -/
def Copy.segments (c : Copy) : List (Nat × Nat × LzMove) :=
  (c.moves.zip (List.range c.moves.length)).flatMap fun p => (List.range (p.1.len / 4096)).map fun s => (p.2, s, p.1)

/-- The address of a stream byte at given strides (R327). -/
def Copy.at (c : Copy) (base : Int) (s1 s2 : Int) (t : Nat) : Word :=
  let row := t / c.len
  Word.ofInt (base + (row / c.n1 : Nat) * s2 + (row % c.n1 : Nat) * s1 + (t % c.len : Nat))

/-- The source addresses of the aligned words of a unit. -/
def Copy.sources (c : Copy) (u : Nat) : List Word :=
  match c.form with
  | .lz | .card => match c.segments[u]? with
    | some (_, s, m) => (List.range 512).map fun i => m.src + Word.ofNat (4096 * s + 8 * i)
    | none => []
  | _ => (List.range ((min c.unit (c.total - c.unit * u)) / 8)).map fun i => c.at c.src.toNat c.ss1 c.ss2 (c.unit * u + 8 * i)

/-- The destination addresses of the words of a unit, for a form that writes by address (R327, R333). -/
def Copy.dests (c : Copy) (u n : Nat) : List Word :=
  (List.range n).map fun i =>
    let t := c.unit * u + 8 * i
    match c.form with
    | .ring => c.dst + Word.ofNat ((256 * c.rstart + t) % 2 ^ c.rlog)
    | _ => c.at c.dst.toNat c.ds1 c.ds2 t

/-- The bytes of the stream that a count of whole units from its start covers. -/
def Copy.prefixBytes (c : Copy) (units : Nat) : Nat := min (c.unit * units) c.total

def Copy.same (core id : Nat) (c : Copy) : Bool := c.core == core && c.id.toNat == id

/-- The same copy: a copy of a killed context may run beside one of the same core and ID of the context that has the core now (R372). -/
def Copy.is (a b : Copy) : Bool := Copy.same a.core a.id.toNat b && a.ctx == b.ctx

def State.copyOf (s : State) (cluster core id : Nat) : Option Copy := (s.cluster cluster).ce.copies.find? (Copy.same core id)
def State.setCopy (s : State) (cluster : Nat) (c : Copy) : State :=
  s.updCe cluster fun e => { e with copies := e.copies.map fun k => if c.is k then c else k }
def State.dropCopy (s : State) (cluster : Nat) (c : Copy) : State :=
  s.updCe cluster fun e => { e with copies := e.copies.filter fun k => !c.is k }

/-- The engine starts the oldest waiting copy of a core, or marks it with the code of its poisoned wait (R325, R337). A copy of
cpy.lb with INV empties its channel (R335). -/
def execCopyStart (cluster core : Nat) (s : State) : Host.Outcome State Fault Refusal :=
  event "COPY_START" (
    let e := (s.cluster cluster).ce
    if e.fenced ∨ !s.engineOn cluster ∨ !s.mayStart core then none else
    match e.copies.find? fun c => c.core == core && !c.started with
    | none => none
    | some c => match s.tdState core c.td with
      | none => none
      | some (some code) => some (s.setCopy cluster { c with started := true, fault := some (code, 0) })
      | some none =>
        let s := s.setCopy cluster { c with started := true }
        some (if c.form = .lb ∧ c.inv then s.updCe cluster fun e => { e with bufs := Tab.erase e.bufs c.ch } else s))

/-- Resolve the addresses of words. -/
def State.places (s : State) (ctx : Nat) (x : Ctx) (need : Byte) (l : List Word) : List (Word × EngAddr) × State :=
  l.foldl (fun (acc : List (Word × EngAddr) × State) a =>
    let (p, s) := acc.2.engineAddr ctx x a need false
    (acc.1 ++ [(a, p)], s)) ([], s)

/-- What stands in the way of a unit: a page that is not present, a fault, an answer from outside that is missing. -/
inductive Hitch where
  | none
  | absent (page : Word)
  | fault (code : Byte) (addr : Word)
  | outside
  | refresh
deriving DecidableEq, Repr

/-- An answer from outside the chip must come: a read of the host or of another chip, or a write to another chip. A write to
the host is posted and has none (R245, R256). -/
def EngAddr.awaits (write : Bool) : EngAddr → Bool
  | .host _ => !write
  | .chip _ _ => true
  | _ => false

/-- The hitch of a list of places, faults first in the order of the stream. -/
def hitchOf (s : State) (ext : Option ExtReply) (write : Bool) (l : List (Word × EngAddr)) : Hitch :=
  match l.findSome? fun p => match p.2 with
    | .fault c => some (Hitch.fault c p.1)
    | _ => Option.none with
  | some h => h
  | Option.none => match l.findSome? fun p => match p.2 with
    | .absent q => some (Hitch.absent q)
    | _ => Option.none with
    | some h => h
    | Option.none => match l.find? fun p => p.2.awaits write, ext with
      | some _, Option.none => .outside
      | some p, some (.err link) => .fault (if link then 0x21#8 else 0x20#8) p.1
      | _, _ => if s.selfRefresh && l.any (fun p => match p.2 with
          | .die d => decide (dramBase ≤ d)
          | _ => false) then .refresh else .none

/-- The bytes at resolved places, from memory and from the answer from outside. -/
def State.gatherBytes (s : State) (ext : Option ExtReply) (l : List (Word × EngAddr)) : List Byte :=
  let out := match ext with
    | some (.data b) => b
    | _ => []
  (l.zip (List.range l.length)).flatMap fun p => match p.1.2 with
    | .die d => Mem.bytes s.mem d 8
    | _ => (List.range 8).map fun i => (out[8 * p.2 + i]?).getD 0

/-- The words that lie outside the die are read, one request for each run of them in one line of 64 bytes (R256, R435). -/
def State.readWords (s : State) (n : Nat) (l : List (Word × EngAddr)) : State :=
  (l.zip ((l.map fun p => some (p.1.toNat / 64)).insertIdx 0 none)).foldl (fun s p =>
    let a := p.1.1
    if p.2 = some (a.toNat / 64) then s else
    let k := 8 * ((l.map (·.1)).filter fun b => b.toNat / 64 == a.toNat / 64).length
    match p.1.2 with
    | .host h => s.readOutside n (Word.ofNat (plbKey ((s.ctx n).getD {}).tenant a)) k (.host h)
    | .chip c q => s.readOutside n a k (.chip c q)
    | _ => s) s

/-- Write words of a context to resolved places. -/
def State.scatterBytes (s : State) (n : Nat) (l : List (Word × EngAddr)) (bytes : List Byte) : State :=
  (l.zip (List.range l.length)).foldl (fun s p =>
    let b := (bytes.drop (8 * p.2)).take 8
    match p.1.2 with
    | .die d => s.engineWrite d b
    | .host h => s.hostWrite n (Word.ofNat (plbKey ((s.ctx n).getD {}).tenant p.1.1)) h b true
    | .chip c a => ({ s with nextReq := s.nextReq + 1 } : State).emit
        (.fabric c 0 (.access s.nextReq (Word.ofNat a) (.write (ofBytes b) 0xFF#64)) (s.sealed n))
    | _ => s) s

/-- The bytes of the stream, by their offsets, that a strided span at `base` has at `a` (R327). -/
def Copy.rowsAt (c : Copy) (base : Int) (s1 s2 : Int) (a : Int) : List Nat :=
  (List.range c.n2).flatMap fun (i2 : Nat) => (List.range c.n1).filterMap fun (i1 : Nat) =>
    let first : Int := base + i2 * s2 + i1 * s1
    if first ≤ a ∧ a < first + c.len then some ((i2 * c.n1 + i1) * c.len + (a - first).toNat) else none

/-- An address as spans compare it: a translated one in its canonical form (R227). -/
def canonical (tenant : Nat) (a : Word) : Int :=
  match region tenant a with
  | .paged p => p.toNat
  | _ => a.toNat

/-- The scratchpad offset of a core at which an address lies, if any (R333). -/
def Ctx.inScratchpad (x : Ctx) (core : Nat) (a : Word) : Int :=
  let q := scratchpad core 0
  match region x.tenant a with
  | .sram c o => match x.phys c o with
    | some p => p - sramAt q.1 q.2
    | none => -1
  | _ => -1

/-- The other bytes of the stream, by their offsets, that the copy writes where its source word `a`, the word at byte `t`, lies
(R327, R330). -/
def Copy.overwrites (c : Copy) (x : Ctx) (a : Word) (t : Nat) : List Nat :=
  (match c.form with
  | .mc => c.progress.flatMap fun (p : Prog) => c.rowsAt c.dst.toNat c.ds1 c.ds2 (x.inScratchpad p.target a)
  | .lz | .card => []
  | .ring =>
      let off := canonical x.tenant a - canonical x.tenant c.dst
      let k := ((off - 256 * c.rstart) % 2 ^ c.rlog).toNat
      if 0 ≤ off ∧ off < 2 ^ c.rlog ∧ k < c.total then [k] else []
  | _ => c.rowsAt 0 c.ds1 c.ds2 (canonical x.tenant a - canonical x.tenant c.dst)).filter (· != t)

/-- The bytes that stand at the source of a word of the stream, none where it lies off the die. -/
def State.sourceNow (s : State) (c : Copy) (x : Ctx) (t : Nat) : Option (List Byte) :=
  match (s.engineAddr c.ctx x (c.at c.src.toNat c.ss1 c.ss2 t) rR false).1 with
  | .die p => some (Mem.bytes s.mem p 8)
  | _ => none

/-- Each byte old or new, as the bits of a free value say. -/
def mixBytes (old new : List Byte) (free : Word) : List Byte :=
  ((old.zip new).zip (List.range old.length)).map fun p => if free.getLsbD p.2 then p.1.2 else p.1.1

/-- The bytes a unit delivers: those read, but a word of the source that the copy also writes gives old and new bytes in any
mixture (R330): the old are those that stand there, the new those the copy puts there. -/
def State.mixed (s : State) (c : Copy) (x : Ctx) (u : Nat) (srcs : List Word) (data : List Byte) : List Byte × State :=
  (srcs.zip (List.range srcs.length)).foldl (fun (acc : List Byte × State) p =>
    let w := (data.drop (8 * p.2)).take 8
    let (w, s) := (c.overwrites x p.1 (c.unit * u + 8 * p.2)).foldl (fun (b : List Byte × State) t =>
      match b.2.sourceNow c x t with
      | some new =>
        let (v, s) := b.2.freeWord
        (mixBytes b.1 new v, s)
      -- A word whose own source is not at hand has not been written: the old bytes stand.
      | none => b) (w, acc.2)
    (acc.1 ++ w, s)) ([], s)

/-- The channel a cpy.lb uses, emptied when another core, context or LEN used it last (R335). -/
def State.lineBuf (s : State) (cluster : Nat) (c : Copy) : LineBuf :=
  match (s.cluster cluster).ce.bufs.get? c.ch with
  | some b => if b.core = c.core ∧ b.ctx = c.ctx ∧ b.len = c.len then b else ⟨c.core, c.ctx, c.len, []⟩
  | none => ⟨c.core, c.ctx, c.len, []⟩

/-- Enter a row in a channel: the oldest is replaced when ⌊16,384/LEN⌋ rows are held (R335). -/
def LineBuf.enter (b : LineBuf) (row : Word) (bytes : List Byte) : LineBuf :=
  let rows := b.rows ++ [(row, bytes)]
  { b with rows := rows.drop (rows.length - max 1 (16384 / b.len)) }

/-- The bytes a held row delivers: those the channel holds or, where the source has changed since, either those or the newer
ones (R335). -/
def State.heldRow (s : State) (ctx : Nat) (x : Ctx) (srcs : List Word) (d : List Byte) : List Byte × State :=
  let rs := (s.places ctx x rR srcs).1
  let now := s.gatherBytes none rs
  if now == d || rs.any (fun p => match p.2 with
      | .die _ => false
      | _ => true) then (d, s) else
  let (w, s) := s.freeWord
  (if w.getLsbD 0 then now else d, s)

/-- Mark a unit done at every target, or at the one named, and count the granules its prefix now covers (R332). -/
def State.markUnit (s : State) (cluster : Nat) (c : Copy) (u : Nat) (only : Option Nat) : State :=
  let step := fun (p : Prog) => if only.isNone ∨ only = some p.target then p.mark u else p
  let c2 := { c with progress := c.progress.map step }
  let s := s.setCopy cluster c2
  if !c.ac then s else
  (c.progress.zip c2.progress).foldl (fun s p =>
    let n := c.prefixBytes p.2.done / 256 - c.prefixBytes p.1.done / 256
    if n = 0 then s else s.addSem p.1.target c.ssem n) s

/-- Stop a unit at its hitch; one that meets a page that is not present parks there until the driver's wake (R330, R337, R394). -/
def State.hitched (s : State) (cluster : Nat) (c : Copy) (u : Nat) (write : Bool) (h : Hitch) : Option State :=
  match h with
  | .absent q => some ((s.postPage q c.ctx c.core write false).setCopy cluster { c with asked := c.asked ++ [(u, q)] })
  | .fault code a => some (s.setCopy cluster { c with fault := some (code, a) })
  | .refresh => s.dramExit? none
  | _ => none

/-- A segment of a landing-zone copy goes out; the answer of the receiver ends it (R446, R451). -/
def State.sendSegment (s : State) (cluster : Nat) (c : Copy) (u : Nat) (data : List Byte) (ext : Option ExtReply) : Option State :=
  match c.segments[u]? with
  | none => none
  | some (tile, seg, m) =>
    let chip := tokenChip m.token
    let a := m.src + Word.ofNat (4096 * seg)
    let g : LzSegment := { chip := s.ownChip, stream := (c.core * 65536 + c.id.toNat) * 8 + tile, token := m.token, seg := seg,
                           total := m.len / 4096, off := 4096 * (m.off + seg), card := c.card, data := data }
    let fail := fun (s : State) (code : Byte) => some (s.setCopy cluster { c with fault := some (code, a) })
    -- The unit numbers of a tile count from its first segment.
    if chip = s.ownChip then
      match s.segmentArrives g with
      | (none, s) => some (s.markUnit cluster c seg (some tile))
      | (some code, s) => fail s code
    else if (s.portTo chip).isNone then fail s 0x21#8
    else match ext with
      | none => none
      | some (.err link) => fail (s.emit (.fabric chip 0 (.segment g) (s.sealed c.ctx))) (if link then 0x21#8 else 0x20#8)
      | some (.data _) => some ((s.emit (.fabric chip 0 (.segment g) (s.sealed c.ctx))).markUnit cluster c seg (some tile))

/-- The unit has not moved yet, and is not parked at a home agent. -/
def Copy.unitDue (c : Copy) (u : Nat) : Bool :=
  !c.asked.any (·.1 == u) &&
  match c.form with
  | .lz | .card => match c.segments[u]? with
    | some (tile, seg, _) => c.progress.any fun p => p.target == tile && decide (p.done ≤ seg) && !p.ahead.contains seg
    | none => false
  | _ => decide (c.unit * u < c.total) && c.progress.any fun p => decide (p.done ≤ u) && !p.ahead.contains u

/-- The rows of cpy.lb move in order, but for those parked on a page that is not present (R330, R335). -/
def Copy.rowDue (c : Copy) (u : Nat) : Bool :=
  c.form != .lb || (List.range u).all fun v =>
    c.progress.all (fun p => decide (v < p.done) || p.ahead.contains v) || c.asked.any (·.1 == v)

/-- A unit of a started copy moves, and the arrival semaphores count its prefix (R327, R332). -/
def execCopyGranuleCount (cluster core id unit : Nat) (ext : Option ExtReply) (s : State) : Host.Outcome State Fault Refusal :=
  event "COPY_GRANULE_COUNT" (match s.copyOf cluster core id with
    | none => none
    | some c => match s.ctx c.ctx with
      | none => none
      | some x =>
        if !c.started ∨ c.fault.isSome ∨ !c.unitDue unit ∨ !c.rowDue unit ∨ !s.engineOn cluster ∨ (s.cluster cluster).ce.fenced then none else
        let srcs := c.sources unit
        let buf := s.lineBuf cluster c
        let held := if c.form = .lb then buf.rows.lookup (srcs.headD 0) else none
        let (rs, s) := match held with
          | some _ => ([], s)
          | none => s.places c.ctx x rR srcs
        match hitchOf s ext false rs with
        | .none =>
          let (data, s) := match held with
            | some d => s.heldRow c.ctx x srcs d
            | none => (s.readWords c.ctx rs).mixed c x unit srcs (s.gatherBytes ext rs)
          let s := if c.form = .lb then
              s.updCe cluster fun e => { e with bufs := Tab.set e.bufs c.ch (if held.isSome then buf else buf.enter (srcs.headD 0) data) }
            else s
          (match c.form with
            | .lz | .card => s.sendSegment cluster c unit data ext
            | .mc =>
              let ws := c.progress.flatMap fun p => (c.dests unit srcs.length).map fun d =>
                let q := scratchpad p.target d.toNat
                let phys := sramAt q.1 q.2
                (d, if s.fencedAt phys then EngAddr.fault 0x72#8 else .die phys)
              (match hitchOf s ext true ws with
                | .none => some ((s.scatterBytes c.ctx ws (c.progress.flatMap fun _ => data)).markUnit cluster c unit none)
                | h => s.hitched cluster c unit true h)
            | _ =>
              let (ws, s) := s.places c.ctx x rW (c.dests unit srcs.length)
              (match hitchOf s ext true ws with
                | .none => some ((s.scatterBytes c.ctx ws data).markUnit cluster c unit none)
                | h => s.hitched cluster c unit true h))
        | h => (match ext with
            | some (.err _) => s.readWords c.ctx rs
            | _ => s).hitched cluster c unit false h)

/-- Every unit has been written at every target. -/
def Copy.finished (c : Copy) : Bool :=
  match c.form with
  | .lz | .card => c.progress.all fun p => match c.moves[p.target]? with
    | some m => p.done == m.len / 4096
    | none => true
  | _ => c.progress.all fun p => decide (c.total ≤ c.unit * p.done)

/-- The stream bytes written without a gap at every target, or counted (R338). -/
def Copy.value (c : Copy) : Nat :=
  match c.form with
  | .lz | .card =>
    (c.progress.foldl (fun (acc : Nat × Bool) p =>
      let len := match c.moves[p.target]? with
        | some m => m.len
        | none => 0
      if acc.2 then (acc.1 + 4096 * p.done, p.done == len / 4096) else acc) (0, true)).1
  | _ =>
    let l := c.progress.map fun p => let n := c.prefixBytes p.done; if c.ac then n / 256 * 256 else n
    l.foldl min (l.headD 0)

/-- The completion message of a copy (R336, R338); one for a thread that has ended is discarded and counted (R189). -/
def State.copyMessage (s : State) (c : Copy) (value : Nat) (status : BitVec 16) : State :=
  s.updCore c.core fun k =>
    if c.tag = noTag then { k with discarded := k.discarded + 1 }
    else { k with completions := k.completions ++
      [{ value := Word.ofNat value, status := status, seq := c.id, src := c.core, kind := 1, tag := c.tag }] }

def execCopyComplete (cluster core id : Nat) (s : State) : Host.Outcome State Fault Refusal :=
  event "COPY_COMPLETE" (match s.copyOf cluster core id with
    | some c =>
      if !c.started ∨ c.fault.isSome ∨ !c.finished then none else
      let s := ((s.dropCopy cluster c).commandEnded c.ctx c.core 2 c.id 0).signal c.core c.td
      some (if c.quiet then s else s.copyMessage c c.total 0)
    | none => none)

/-- A copy that has met a fault ends once every request it has sent is answered, one parked on a page that is not present among
them (R337, R338). A copy of a killed context ends without its reports (R372). -/
def execCopyEndFault (cluster core id : Nat) (s : State) : Host.Outcome State Fault Refusal :=
  event "COPY_END_FAULT" (match s.copyOf cluster core id with
    | some c => match c.fault with
      | none => none
      | some (code, a) =>
        if !c.asked.isEmpty then none else
        let s := (s.dropCopy cluster c).commandEnded c.ctx c.core 2 c.id code
        if !s.live c.ctx then some s else
        let s := if c.ac then c.progress.foldl (fun s p => s.poisonSem p.target c.ssem code) s else s
        let s := s.signalFault c.core c.td code
        let s := s.copyMessage c c.value (code.zeroExtend 16)
        some (s.notice c.core 15 c.ctx { code := code, pc := c.pc, rpc := 0, addr := a, type := 2, jobid := c.id, junit := 2 })
    | none => none)

/-! ### The retriever (R174) -/

/-- Copies of a core in flight beyond its mailbox registers (R323). -/
def State.inFlight (s : State) (core : Nat) : Nat :=
  ((s.cluster (clusterOf core)).ce.copies.filter fun c => c.core == core).length + (s.core core).completions.length

/-- The oldest full mailbox register goes to the CE, which takes up to 64 copies of a core (R323). -/
def State.takeRequest (s : State) (core : Nat) (k : Core) : Option State :=
  match k.copyRegs with
  | c :: rest =>
    if 64 ≤ s.inFlight core ∨ (s.cluster (clusterOf core)).ce.fenced then none
    else some ((s.setCore core { k with copyRegs := rest }).updCe (clusterOf core) fun e => { e with copies := e.copies ++ [c] })
  | [] => none

/-- The one transfer of a slot-15 cycle, none when there is nothing to do (R174). -/
def State.retrieve (s : State) (core : Nat) : Option State :=
  let k := s.core core
  match k.completions with
  | m :: rest =>
    if s.mailRoom core then some ((s.setCore core (({ k with completions := rest } : Core).deliver m)).stir core) else s.takeRequest core k
  | [] => s.takeRequest core k

def execRetrieverCycle (core : Nat) (s : State) : Host.Outcome State Fault Refusal :=
  event "RETRIEVER_CYCLE" (if s.ownCycle core 15 then (s.retrieve core).map fun s => s.endCycle core else none)

/-! ### The key store engine -/

/-- The oldest command of each core, in the order the engine serves cores after the one served last (R348). -/
def Kse.order (q : Kse) (cluster : Nat) : List KseCmd :=
  (List.range 8).filterMap fun i =>
    let core := 8 * cluster + (q.last + 1 + i) % 8
    q.queue.find? fun k => k.core == core

/-- A command may go on: it was set aside and its page has arrived (page 0), or it has not begun and its wait is decided. -/
def State.kseReady (s : State) (k : KseCmd) : Option (Option Byte) :=
  if !s.mayStart k.core then none else
  match k.aside with
  | some 0#64 => some none
  | some _ => none
  | none => match k.form with
    -- kgather has passed its wait within the thread (R349).
    | .kgather _ _ _ => some none
    | _ => s.tdState k.core k.td

/-- The end of a command (R349): PEND falls, and the signal or the fault is delivered. -/
def State.endKse (s : State) (cluster : Nat) (k : KseCmd) (r : Nat × Byte × Word × Nat) : State :=
  let (count, code, addr, reason) := r
  let s := s.updKse cluster fun q =>
    { q with queue := q.queue.eraseIdx (q.queue.findIdx fun c => c.core == k.core), running := none }
  let pend := fun (s : State) (core tag : Nat) => match s.tagged core tag with
    | some t => s.setTagged core tag { t with pend := t.pend - 1 }
    | none => s
  match k.form with
  | .kgather _ _ _ =>
    s.deliverTo k.core k.tag (if code = 0 then gatherReply count else gatherFault code addr reason)
  | form =>
    let s := if form = .ksproj ∨ k.tag = noTag then s else
      let twin := s.twinOf k.core k.tag
      let s := pend s k.core k.tag
      (match twin with
        | some (c, t) => pend s c t
        | none => s)
    let s := s.wakeSaved (· == k.core) fun t w => w == .kfence && t.pend == 0
    let s := s.commandEnded k.ctx k.core 3 (k.pc.setWidth 16) code
    if code = 0 then s.signal k.core k.td
    else if !s.live k.ctx then s
    else (s.signalFault k.core k.td code).notice k.core 15 k.ctx
      { code := code, pc := k.pc, rpc := 0, addr := addr, type := 2, jobid := k.pc.setWidth 16, junit := 3 }

def execKseCommandStart (cluster : Nat) (s : State) : Host.Outcome State Fault Refusal :=
  event "KSE_COMMAND_START" (
    let q := (s.cluster cluster).kse
    if q.running.isSome ∨ q.fenced ∨ !s.engineOn cluster then none else
    match (q.order cluster).findSome? fun k => (s.kseReady k).map fun p => (k, p) with
    | none => none
    | some (k, some code) => some ((s.updKse cluster fun q => { q with last := k.core % 8 }).endKse cluster k (0, code, 0, 0))
    | some (k, none) => some (s.updKse cluster fun q => { q with running := some k.core, last := k.core % 8 }))

/-- The running command executes to its end, or to a page that is not present, where it is set aside (R348). -/
def execKseCommandComplete (cluster : Nat) (s : State) : Host.Outcome State Fault Refusal :=
  event "KSE_COMMAND_COMPLETE" (
    let q := (s.cluster cluster).kse
    -- A heel lets a running command come to its end (R405).
    if q.fenced ∨ s.heel.freeze = .frozen ∨ (s.island (if cluster < 64 then 0 else 1)).st ≠ .active then none else
    match q.running.bind fun c => q.queue.find? fun k => k.core == c with
    | none => none
    | some k => match s.ctx k.ctx with
      | none => none
      | some x =>
        let e : KseEnv := { s := s, x := x, cmd := k, cluster := cluster, replay := k.reads, skip := k.writes, got := k.got }
        match KseM.run e with
        | .ok n e => some (e.s.endKse cluster k (n, 0, 0, 0))
        | .error (.fault code a reason) e => some (e.s.endKse cluster k (0, code, a, reason))
        | .error .refresh _ => s.dramExit? none
        | .error (.absent p w) e =>
          let s := e.s.postPage p k.ctx k.core w false
          some (s.updKse cluster fun q =>
            { q with running := none, queue := q.queue.modify (q.queue.findIdx fun c => c.core == k.core) fun c =>
                { c with aside := some p, reads := e.log, writes := e.wrote, got := e.got } }))

end Sys2Proof.Machine
end

