-- ==== Sys2Proof/Machine/EvSched.lean ====
section
/-! DEFINITION. The cycle of a core, and the events of its scheduling (06 R162-R187): vacant cycles, launches, steals,
evictions and pre-emption. -/

namespace Sys2Proof.Machine

/-! ### Launches (R170, R184, R185) -/

/-- The allocator of a core launches: it belongs to a context that is not being moved, and it runs (R184, R389). -/
def State.launches (s : State) (core : Nat) : Bool :=
  s.coreOn core && (s.core core).ctx.isSome && !s.moving core

/-- What the allocator would launch, and the slot it would take (R184). -/
def State.nextLaunch (s : State) (core : Nat) : Option (Nat × Source) :=
  if !s.launches core then none else
  match (s.core core).emptySlot, bestOf (s.core core).candidates with
  | some k, some (src, _) => some (k, src)
  | _, _ => none

/-- An inbox record whose context is not the core's is discarded and counted (R185). -/
def Core.dropForeign (c : Core) (ctx : Nat) : Core :=
  let ok := fun (i : InboxItem) => match i with
    | .task r => r.ctx == ctx
    | _ => true
  { c with inbox := c.inbox.filter ok, discarded := c.discarded + (c.inbox.filter fun i => !ok i).length }

/-- One cycle of the allocator (R184). -/
def State.allocate (s : State) (core : Nat) : State :=
  let s := if (s.core core).inbox.isEmpty then s else s.updCore core fun c => c.dropForeign (s.ctxOf core)
  match s.nextLaunch core with
  | some (k, src) => s.launchFrom core k src
  | none => s

def execSlotAllocatorLaunch (core : Nat) (s : State) : Host.Outcome State Fault Refusal :=
  event "SLOT_ALLOCATOR_LAUNCH" (match s.nextLaunch core with
    | some (k, src) => (match src with
        | .resume _ => none
        | _ =>
          let t := s.updCore core fun c => c.dropForeign (s.ctxOf core)
          -- A record of another context is discarded instead.
          if (t.core core).inbox = (s.core core).inbox then some (s.launchFrom core k src) else some t)
    | none => none)

/-- An eligible resume record is restored (R170). -/
def execThreadRestore (core : Nat) (s : State) : Host.Outcome State Fault Refusal :=
  event "THREAD_RESTORE" (match s.nextLaunch core with
    | some (k, .resume n) => some (s.restore core k n)
    | _ => none)

/-! ### Lending (R166) -/

/-- The instructions with L = 1 under R101 and R139, those that R201 and R284 give L = 1 under R101 among them
(DEDUCED, log entry 59). -/
def singleScalar : List Op :=
  [.nop, .add, .sub, .land, .lor, .lxor, .andn, .shl, .shr, .sar, .rol, .min, .max, .minu, .maxu, .addSat, .subSat, .addSatu,
   .subSatu, .sel, .addImm, .landImm, .lorImm, .lxorImm, .andnImm, .minImm, .maxImm, .minuImm, .maxuImm, .addSatImm, .addSatuImm,
   .shlImm, .shrImm, .sarImm, .rolImm, .li, .liI32, .liTe, .clz, .ctz, .popc, .bswap, .sextB, .sextH, .sextW, .zextB, .zextH,
   .zextW, .bext, .bins, .lea]
def singleOther : List Op :=
  [.cmpEq, .cmpNe, .cmpLt, .cmpGe, .cmpLtu, .cmpGeu, .cmpGt, .cmpLe, .cmpGtu, .cmpLeu, .cmpTst, .cmpNtst, .cmpEqImm, .cmpNeImm,
   .cmpLtImm, .cmpGeImm, .cmpLtuImm, .cmpGeuImm, .cmpGtImm, .cmpLeImm, .cmpGtuImm, .cmpLeuImm, .cmpTstImm, .cmpNtstImm, .pand,
   .por, .pxor, .pnot, .mov, .movF, .mfs, .mts, .pwdogWrite, .bootcntWrite, .br, .jmp, .call, .callReg, .ret, .loop, .stB, .stH,
   .stW, .stD, .stBS, .stHS, .stWS, .stDS, .vst]
def singleVector : List Op :=
  [.vaddInt, .vsubInt, .vmulInt, .vminInt, .vmaxInt, .vabsInt, .vnegInt, .vshl, .vshr, .vsar, .vaddIntScalar, .vsubIntScalar,
   .vmulIntScalar, .vminIntScalar, .vmaxIntScalar, .vshlScalar, .vshrScalar, .vsarScalar, .vcmpEq, .vcmpNe, .vcmpLt, .vcmpLe,
   .vcmpGt, .vcmpGe, .vcmpUn, .vcmpEqScalar, .vcmpNeScalar, .vcmpLtScalar, .vcmpLeScalar, .vcmpGtScalar, .vcmpGeScalar,
   .vcmpUnScalar, .vsel, .vbcast, .sbind, .sunbind, .stest, .vmovg, .gmovv, .vand, .vor, .vxor, .vnot, .vandScalar, .vorScalar,
   .vxorScalar]
def singleParallel : List Op :=
  [.fork, .join, .spawn, .halt, .lend, .pin, .callat, .retm, .msend, .mrecv, .mwait, .mtry, .ksig, .ksub, .kwait, .kset, .kread,
   .ttarm, .ttcancel, .qbind, .qstat, .yield, .roam]
def Op.single (o : Op) (r : Raw) : Bool :=
  singleScalar.contains o || singleOther.contains o || singleVector.contains o || singleParallel.contains o
    || o == .prefetch || o == .prefetchW || (o == .fence && r.x.extractLsb' 9 2 != 3#2)

/-- The state after a lent issue of a slot, none when its thread is not eligible (R166): it would park, a yield that yields among
such (R201), or its instruction takes more than one cycle. A thread may end in a lent cycle. -/
def State.lent (s : State) (core slot : Nat) : Option State :=
  let c := s.core core
  match s.thread core slot with
  | none => none
  | some t =>
    let single := match t.decoded with
      | some (.ok (o, r)) => Op.single o r
      | _ => false
    if t.run ≠ .ready ∨ !t.lend ∨ c.cycle < t.readyAt ∨ !single ∨ c.evicting = some slot ∨ t.refusal.isSome then none else
    match s.runAt core slot with
    | .next s2 =>
      if c.saved.length < (s2.core core).saved.length then none else
      match s2.thread core slot with
      | some u => match u.run with
        | .parked _ _ _ => none
        | .ready => if u.readyAt = c.cycle + 1 then some s2 else none
        | _ => some s2
      | none => some s2
    | _ => none

/-- A vacant cycle: a bubble while the PMC gates the core, else lent to the first eligible slot after the pointer (R166). -/
def State.vacant (s : State) (core : Nat) : State :=
  let c := s.core core
  if c.gated then s else
  let order := (List.range 15).map fun i => (c.lendPtr + 1 + i) % 15
  match order.findSome? fun k => (s.lent core k).map fun t => (k, t) with
  | some (k, t) => t.updCore core fun c => { c with lendPtr := k }
  | none => s

/-! ### A cycle of a core (R162-R166) -/

/-- The owner's part of a cycle: it issues, or its parked instruction tries again; a cycle it leaves vacant is lent. -/
def State.ownerCycle (s : State) (core slot : Nat) : Host.Outcome State Fault Refusal :=
  match s.thread core slot with
  | none => .next (s.vacant core)
  | some t =>
    if s.parkedOn core slot Wait.ending then s.runAt core slot else
    if (s.core core).evicting = some slot ∨ !s.mayRun core slot then .next (s.vacant core) else
    match t.run with
    | .ready => if t.readyAt ≤ (s.core core).cycle then s.runAt core slot else .next (s.vacant core)
    | .parked w lim wc =>
      if w.polls then
        match s.runAt core slot with
        | .next s2 => .next (if s2.parkedOn core slot (fun _ => true) then s2.vacant core else s2)
        | o => o
      else
        -- An own cycle spent while an attempt is in flight counts as one (R264).
        let s := match w with
          | .sync _ => s.setThread core slot { t with run := .parked w lim (wc + 1) }
          | _ => s
        .next (s.vacant core)
    | _ => .next (s.vacant core)

/-- The retriever works on while the plinth saves the core's context, whose copies all run to their end (R174, R339). -/
def State.savingCycle (s : State) (core : Nat) : State :=
  if ((s.ctx (s.ctxOf core)).getD {}).saving && s.ownCycle core 15 && s.heel.freeze == .none then (s.retrieve core).getD s else s

/-- An instruction whose accepted request has been answered comes to its end in its own cycle on a core that does not issue too (R168). -/
def State.endingCycle (s : State) (core : Nat) : State :=
  let slot := (s.core core).cycle % 16
  if s.parkedOn core slot Wait.ending then s.reissue core slot else s

/-- A core that does not issue still counts its cycles while its island is clocked, so that its units end the requests they
have accepted; a freeze that is complete stops them (R152, R168, R383, R386, R405). -/
def State.unitCycle (s : State) (core : Nat) : State :=
  if (s.island (islandOf core)).st == .active && s.heel.freeze != .frozen then ((s.savingCycle core).endingCycle core).endCycle core
  else s

/-- A cycle of a core: slot cycle mod 16 issues, or the retriever works in slot 15; then the allocator, the semaphores, the
links and the count of cycles (R162, R174, R184, R219). -/
def State.coreCycle (s : State) (core : Nat) : Host.Outcome State Fault Refusal :=
  if !s.coreOn core then .next (s.unitCycle core) else
  let slot := (s.core core).cycle % 16
  let o := if slot = 15 then .next ((s.retrieve core).getD (s.vacant core)) else s.ownerCycle core slot
  match o with
  | .next s => .next ((s.allocate core).endCycle core)
  | o => o

/-! ### Steals (R179, R182, R183) -/

/-- A core is a victim for a thief: another core of its context, neither plinth nor fenced (R183), nor held for a save or a move of its
core (DESIGN CHOICE, log entry 58). -/
def State.victim (s : State) (thief v : Nat) : Bool :=
  v != thief && (s.core v).ctx == (s.core thief).ctx && !s.isPlinth v && !(s.core v).fenced && !(s.core v).held

/-- The victims of a level in the order of its attempts (R183); `p` is the pointer of a round-robin level. -/
def victims (thief level p : Nat) : List Nat :=
  let rr := fun (l : List Nat) => (List.range l.length).map fun i => (l[(p + i) % l.length]?).getD 0
  let region := (List.range 528).filter fun v => regionOf v == regionOf thief
  if level = 0 then (List.range 3).map fun i => quadOf thief * 4 + (thief % 4 + 1 + i) % 4
  else if level = 1 then (List.range 4).map fun i => clusterOf thief * 8 + (4 - thief % 8 / 4 * 4) + i
  else if level = 2 then rr (region.filter fun v => clusterOf v != clusterOf thief)
  else if thief < 512 then rr ((List.range 512).filter fun v => regionOf v != regionOf thief) else []

/-- The attempts of one level: the record taken, and how many victims the pointer passes. -/
def State.attempts (s : State) (thief level : Nat) : List Nat → Nat → Nat → Option (Nat × TaskRec × Core) × Nat
  | [], _, passed => (none, passed)
  | _, 0, passed => (none, passed)
  | v :: l, n + 1, passed =>
    if !s.victim thief v then s.attempts thief level l (n + 1) (passed + 1) else
    match (s.core v).stealDeque level with
    | some (r, c) => (some (v, r, c), passed + 1)
    | none => s.attempts thief level l n (passed + 1)

/-- A sweep through the levels (R183): the first success launches its record into the EMPTY slot. -/
def State.sweep (s : State) (thief slot : Nat) : List Nat → State
  | [] => s.updCore thief fun c => { c with backoff := some (c.cycle + 256) }
  | level :: rest =>
    let ptrs := (s.core thief).stealPtrs
    let p := if level = 2 then ptrs.1 else if level = 3 then ptrs.2 else 0
    let vs := victims thief level p
    let (got, passed) := s.attempts thief level vs (if level = 0 then 3 else if level = 1 then 4 else 8) 0
    let p2 := if vs.isEmpty then p else (p + passed) % vs.length
    let s := s.updCore thief fun c =>
      { c with stealPtrs := if level = 2 then (p2, c.stealPtrs.2) else if level = 3 then (c.stealPtrs.1, p2) else c.stealPtrs }
    match got with
    | some (v, r, c) => ((s.setCore v c).spillDeque v).launchTask thief slot r
    | none => s.sweep thief slot rest

/-- A core may sweep (R183). -/
def State.idleThief (s : State) (core : Nat) : Option Nat :=
  let c := s.core core
  if !s.launches core ∨ s.isPlinth core ∨ c.fenced ∨ !c.candidates.isEmpty ∨ c.backoff.isSome then none else c.emptySlot

def execStealSweep (core : Nat) (s : State) : Host.Outcome State Fault Refusal :=
  event "STEAL_SWEEP" ((s.idleThief core).map fun k => s.sweep core k [0, 1, 2, 3])

def execStealBackoffExpiry (core : Nat) (s : State) : Host.Outcome State Fault Refusal :=
  event "STEAL_BACKOFF_EXPIRY" (match (s.core core).backoff with
    | some b => if (s.core core).cycle < b then none else some (s.updCore core fun c => { c with backoff := none })
    | none => none)

/-! ### Evictions (R167-R173) -/

/-- A core can begin an eviction: none is in progress, and its spill region has room (R167). -/
def Core.canEvict (c : Core) : Bool := c.evicting.isNone && decide (c.saved.length < 48)

/-- A core starts evicting a slot (R168). -/
def State.startEvict (s : State) (core slot : Nat) (why : EvictWhy) : State :=
  s.updCore core fun c => { c with evicting := some slot, evictWhy := why }

/-- The better of two candidates for eviction: lower priority, then later launch, then higher core, then higher slot. -/
def evictBetter (a b : Nat × Nat × Thread) : Bool :=
  decide (a.2.2.prio < b.2.2.prio) || (a.2.2.prio == b.2.2.prio && (decide (b.2.2.since < a.2.2.since) ||
    (a.2.2.since == b.2.2.since && (decide (b.1 < a.1) || (a.1 == b.1 && decide (b.2.1 < a.2.1))))))

/-- The candidate the rules of R167 and R172 choose. -/
def evictChoice (l : List (Nat × Nat × Thread)) : Option (Nat × Nat × Thread) :=
  l.foldl (fun b x => match b with
    | none => some x
    | some y => if evictBetter x y then some x else some y) none

/-- The threads of a core that are not pinned. -/
def State.unpinned (s : State) (core : Nat) : List (Nat × Nat × Thread) :=
  ((s.core core).slots.filter fun p => !p.2.pinned).map fun p => (core, p.1, p.2)

/-- The PMC lowers a burst quad's clock by one step (R167, R402). -/
def State.lowerClock (s : State) (quad : Nat) : Option State :=
  if quad < 128 ∧ 500 < s.mhz quad then some { s with clocks := Tab.set s.clocks quad (s.mhz quad - 25) } else none

/-- The candidates of the PMC on a quad that no eviction takes already; one whose head entry waits for an absent page has had
its eviction cancelled (R167, R168). -/
def State.powerCandidates (s : State) (quad : Nat) : List (Nat × Nat × Thread) :=
  (((List.range 4).map fun i => 4 * quad + i).filter fun c => !s.isPlinth c).flatMap fun c =>
    (s.unpinned c).filter fun x => (s.core c).evicting != some x.2.1 && !x.2.2.headAbsent

/-- The PMC evicts the next candidate of a quad, on a core that evicts no other (R167): none while every candidate's core
evicts, and with no candidate or a full spill region it lowers the clock. -/
def State.powerEvict (s : State) (quad : Nat) : Option State :=
  let cands := s.powerCandidates quad
  match evictChoice (cands.filter fun x => (s.core x.1).evicting.isNone) with
  | some (c, k, _) => if (s.core c).canEvict then some (s.startEvict c k .power) else s.lowerClock quad
  | none => if cands.isEmpty then s.lowerClock quad else none

/-- One step of the PMC on a quad over its power limit (R167): it gates vacant cycles, then evicts a thread, then lowers the
clock by a step of 25 MHz (R402). A watch quad's clock is fixed. -/
def State.lowerPower (s : State) (quad : Nat) : Option State :=
  let cores := (List.range 4).map fun i => 4 * quad + i
  if 132 ≤ quad then none
  else if cores.any fun c => !(s.core c).gated then
    some (cores.foldl (fun s c => s.updCore c fun k => { k with gated := true }) s)
  else s.powerEvict quad

def execPmcPowerLimit (quad : Nat) (s : State) : Host.Outcome State Fault Refusal :=
  event "PMC_POWER_LIMIT" (s.lowerPower quad)

/-- Where a core holds the record a slot is reserved for, wherever it has come to stand meanwhile (R172); none once it has been launched
or taken elsewhere. -/
def Core.sourceOf (c : Core) : EvictWhy → Option Source
  | .record r =>
    if c.inbox.contains r then some (.inbox (c.inbox.idxOf r)) else match r with
    | .task t =>
      if c.hits.contains t then some (.hit (c.hits.idxOf t)) else if c.deque.contains t then some (.deque (c.deque.idxOf t)) else none
    | _ => none
  | .resume n elig => if (c.saved.get? n).any (·.eligible == elig) then some (.resume n) else none
  | _ => none

/-- The record a source holds, as the reservation names it. -/
def Core.recordOf (c : Core) : Source → Option EvictWhy
  | .inbox i => (c.inbox[i]?).map .record
  | .hit i => (c.hits[i]?).map fun r => .record (.task r)
  | .deque i => (c.deque[i]?).map fun r => .record (.task r)
  | .resume n => (c.saved.get? n).map fun v => .resume n v.eligible

/-- The save of the slot a core evicts (R168): not before a request that a unit has accepted has completed, nor before the
release at .sys it makes (R260); cancelled when the head of its store buffer waits for a page, and the PMC then takes the
next candidate. A slot reserved for a pre-empting record is filled with it at once (R172). -/
def execEvictSave (core slot : Nat) (s : State) : Host.Outcome State Fault Refusal :=
  event "EVICT_SAVE" (
    let c := s.core core
    if c.evicting ≠ some slot then none else
    let done := fun (s : State) => s.updCore core fun c => { c with evicting := none, evictWhy := .power }
    match s.thread core slot with
    | none => some (done s)
    | some t =>
      if t.headAbsent then some (if c.evictWhy = .power then ((done s).powerEvict (quadOf core)).getD (done s) else done s)
      else if !t.sb.isEmpty ∨ t.outst ≠ 0 ∨ t.hostWrites then none
      else
        let busy := match t.run with
          | .parked w _ _ => w.accepted && !(w.leaves && s.waitsForPage core slot)
          | _ => false
        if busy then none else
        let s1 := done (s.saveThread core slot)
        some (match (s1.core core).sourceOf c.evictWhy with
          | some src => s1.launchFrom core slot src
          | none => s1))

/-- A thread has been parked on a join longer than PEVICT, no slot is EMPTY and a record waits: the longest parked is evicted
(R171). Where the eviction was cancelled, since the head of the store buffer waits for a page, the same thread may be chosen again
(DESIGN CHOICE, log entry 58). -/
def execParkEvictExpiry (core : Nat) (s : State) : Host.Outcome State Fault Refusal :=
  event "PARK_EVICT_EXPIRY" (
    let c := s.core core
    if !c.canEvict ∨ c.emptySlot.isSome ∨ c.candidates.isEmpty then none else
    let age := fun (t : Thread) => (s.time - (((Exec.waitOf t).map (·.2.2.2)).getD t.parkedAt)).toNat
    let l := (s.unpinned core).filter fun x => (match x.2.2.run, Exec.waitOf x.2.2 with
      | .parked _ _ _, some (w, _) => w.isJoin
      | _, _ => false) && decide (s.mgmt.pevict < age x.2.2)
    (l.foldl (fun (b : Option (Nat × Nat × Thread)) x => match b with
      | none => some x
      | some y => if age y.2.2 < age x.2.2 then some x else some y) none).map fun x => s.startEvict core x.2.1 .join)

/-- A record of higher priority evicts the resident thread of lowest priority (R172). -/
def execPreempt (core : Nat) (s : State) : Host.Outcome State Fault Refusal :=
  event "PREEMPT" (
    let c := s.core core
    let allowed := match s.ctx (s.ctxOf core) with
      | some x => x.preempt
      | none => false
    match bestOf c.candidates with
    | none => none
    | some (src, p) =>
      if !c.canEvict ∨ c.emptySlot.isSome ∨ !allowed ∨ !s.launches core then none else
      match evictChoice ((s.unpinned core).filter fun x => decide (x.2.2.prio < p)), c.recordOf src with
      | some x, some why => some (s.startEvict core x.2.1 why)
      | _, _ => none)

end Sys2Proof.Machine
end

