-- ==== Sys2Proof/Machine/EvQs.lean ====
section
/-! DEFINITION. Events of the queue scheduler (06 R191-R199, 15 R443, R444): doorbells, enabling, picks, waits and the
acknowledgements of its writes. -/

namespace Sys2Proof.Machine

/-! ### Progress of a queue -/

/-- The head packet is consumed (R194). -/
def State.consume (s : State) (q : Nat) : State :=
  let x := s.queue q
  s.settleQueue q (s.idleOrReady { x with rd := x.rd + 1, head := [], launch := none, producer := none, sent := false, parked := none })

/-! ### LAUNCH (R195) -/

/-- The instance of a steal domain that contains a core (R179). -/
def instanceOf (core sd : Nat) : List Nat :=
  if sd = 0 then (List.range 4).map fun i => 4 * quadOf core + i
  else if sd = 1 then (List.range 8).map fun i => 8 * clusterOf core + i
  else if sd = 2 then (List.range 528).filter fun c => regionOf c == regionOf core
  else (List.range 528).filter fun c => islandOf c == islandOf core

/-- The cores of a context in an instance. -/
def Ctx.within (x : Ctx) (core sd : Nat) : List Nat := (instanceOf core sd).filter fun c => x.cores.contains c

/-- Where copy `i` of a LAUNCH goes: its core in MODE 0, if its inbox has room, or by the spread rule. -/
def State.launchTarget (s : State) (x : Ctx) (h : Word) (i : Nat) : Option Nat :=
  let vc := bits h 47 32
  if h.getLsbD 8 then s.spread (x.within ((x.cores[vc]?).getD 0) (bits h 10 9))
  else match x.cores[vc + i]? with
    | some c => if (s.core c).inboxRoom 1 then some c else none
    | none => none

/-- Write copies into inboxes, as many as the fuel allows, each whose target has room (R193, R195): the copies that are left. -/
def State.writeCopies (s : State) (target : State → Nat → Option Nat) (rec_ : Nat → TaskRec) : Nat → List Nat → State × List Nat
  | _, [] => (s, [])
  | 0, l => (s, l)
  | fuel + 1, i :: l =>
    match target s i with
    | some c => ((s.updCore c (·.putInbox (.task (rec_ i)))).stir c).writeCopies target rec_ fuel l
    | none =>
      let r := s.writeCopies target rec_ (fuel + 1) l
      (r.1, i :: r.2)

/-- Reserve consecutive tids from a context's launch counter (R195). -/
def State.reserveTids (s : State) (ctx n : Nat) : Nat × State :=
  (((s.ctx ctx).getD {}).launched.toNat, s.updCtx ctx fun x => { x with launched := x.launched + BitVec.ofNat 32 n })

/-- The copy of a LAUNCH's template with a tid (R180, R195). -/
def Queue.copy (x : Queue) (tid : Nat) : TaskRec :=
  let w := x.word
  { pc := w 1, args := [w 2, w 3, w 4, w 5], join := w 6, prio := bits (w 7) 3 0, dom := bits (w 7) 5 4, ctx := x.ctx,
    tid := some (BitVec.ofNat 32 tid), pin := (w 7).getLsbD 16, lend := (w 7).getLsbD 17 }

/-- The island of a context is ACTIVE, or the QS has not asked for its wake (R394). -/
def State.wakeAsked (s : State) (x : Ctx) : Bool := (s.island x.island).st != .active && (s.island x.island).waking == some .active

/-- The error the fields of a LAUNCH give (R194, R195): those that need no core map first. -/
def launchError (h : Word) (c : Ctx) : Option Byte :=
  let n := bits h 31 16
  if bits h 63 48 ≠ 0 ∨ bits h 15 11 ≠ 0 then some 0x02#8
  else if n = 0 ∨ 4096 < n then some 0x03#8
  else if !c.cores.isEmpty ∧ c.cores.length < bits h 47 32 + (if h.getLsbD 8 then 1 else n) then some 0x03#8
  else none

/-- The copies of a LAUNCH that have not been written. -/
def Queue.copiesLeft (x : Queue) : List Nat :=
  match x.launch with
  | some l => l.2
  | none => List.range (bits (x.word 0) 31 16)

/-- A pick of a LAUNCH: an island that is not ACTIVE is woken while the record waits; else up to 16 copies. -/
def State.qsLaunch (s : State) (q : Nat) : State :=
  let x := s.queue q
  let h := x.word 0
  match s.ctx x.ctx with
  | none => s
  | some c =>
    match launchError h c with
    | some e => s.queueError q e
    | none =>
    if c.cores.isEmpty then s
    else if (s.island c.island).st ≠ .active then s.wakeIsland c.island .active
    else
      let (base, s) := match x.launch with
        | some l => (l.1, s)
        | none => s.reserveTids x.ctx (bits h 31 16)
      let (s, left) := s.writeCopies (fun s i => s.launchTarget c h i) (fun i => x.copy (base + i)) 16 x.copiesLeft
      if left.isEmpty then s.consume q else s.setQueue q { s.queue q with launch := some (base, left) }

/-! ### WAIT, SIGNAL, MARKER, MIGRATE (R196, R197) -/

/-- Evaluate the WAIT at the head (R196). -/
def State.qsWait (s : State) (q : Nat) (ext : Option ExtReply) : State :=
  let x := s.queue q
  let h := x.word 0
  match s.qsRead x.ctx (x.word 1) 8 ext with
  | (.got w, s) =>
    if cmpHolds (cmpOf (bits h 9 8)) (w.headD 0 &&& x.word 3) (x.word 2) then s.consume q else (s.blockWait q).mirrorQueue q
  | (.refused, s) => s.queueError q 0x06#8
  | (.absent p, s) => ((s.blockWait q).parkQueue q p).mirrorQueue q
  | (_, s) => (s.blockWait q).mirrorQueue q

/-- A release of the QS at .sys: what it has written to the host is behind a zero-length read before it goes on (R197, R252, R255). -/
def State.qsRelease (s : State) : State :=
  if s.qs.hostWrites then (({ s with qs := { s.qs with hostWrites := false } } : State).emit (.hostRead 0 0)) else s

/-- Send a write of a queue to its word's home, a release at .sys (R197): it is made once, and acknowledged by QS_SIGNAL_ACK. A
word of the host is updated as an atomic of the host is (R271). -/
def State.qsWrite (s : State) (q : Nat) (acc : Access) (host : Access) : State :=
  let s := s.qsRelease
  let x := s.queue q
  let a := x.word 1
  let c := (s.ctx x.ctx).getD {}
  let n := s.nextReq
  let send := fun (s : State) (a : Word) (acc : Access) =>
    let s : State := { s with nextReq := n + 1 }
    (s.setQueue q { s.queue q with sent := true }).setReq n { src := .queue q, ctx := x.ctx, addr := a, acc := acc }
  match region c.tenant a with
  | .sram k o => match c.phys k o with
    | none => s.queueError q 0x06#8
    | some p =>
      let s := send s a acc
      let r := s.serve p acc
      r.2.setReq n { src := .queue q, ctx := x.ctx, addr := a, acc := acc, st := .answered r.1 }
  | .paged p =>
    let (t, s) := s.translate p
    (match t with
      | .absent => (s.postPage p x.ctx 0 true false).parkQueue q (routeRange p)
      | .refused m level w0 => (if m then s.postMalformed p x.ctx level w0 else s).queueError q 0x06#8
      | .host _ =>
        let s := send s p host
        (s.homeOwn n).getD s
      | _ =>
        let s := send s p acc
        (s.homeOwn n).getD s)
  | _ => s.queueError q 0x06#8

def State.qsSignal (s : State) (q : Nat) : State :=
  let x := s.queue q
  let h := x.word 0
  let v := x.word 2
  if bits h 63 10 ≠ 0 ∨ !((x.head.drop 3).all fun w => w == 0#64) then s.queueError q 0x02#8
  else if bits h 9 8 = 3 ∨ (x.word 1).toNat % 8 ≠ 0 then s.queueError q 0x03#8
  else match bits h 9 8 with
    | 0 => s.qsWrite q (.signal .st v) (.write (v.zeroExtend 512) (Exec.firstBytes 8))
    | 1 => s.qsWrite q (.signal .add v) (.amo .add true false true v 0)
    | _ => s.qsWrite q (.signal .or v) (.amo .or true false true v 0)

def State.qsMarker (s : State) (q : Nat) : State :=
  let x := s.queue q
  let h := x.word 0
  if h &&& ~~~0xFF01FF#64 ≠ 0 ∨ !((x.head.drop 3).all fun w => w == 0#64) then s.queueError q 0x02#8
  else if (x.word 1).toNat % 16 ≠ 0 then s.queueError q 0x03#8
  else
    let acc : Access := .write ((x.word 2).zeroExtend 512 ||| (s.time.zeroExtend 512 <<< 64)) (Exec.firstBytes 16)
    s.qsWrite q acc acc

/-- A MIGRATE at the head (R388, R392): its checks, the wait for a migration under way, or the start of its own. -/
def State.qsMigrate (s : State) (q : Nat) : State :=
  let x := s.queue q
  let h := x.word 0
  if h &&& ~~~0x300FF#64 ≠ 0 ∨ !((x.head.drop 3).all fun w => w == 0#64) then s.queueError q 0x02#8
  else if 2 ≤ bits h 17 16 then s.queueError q 0x03#8
  else match s.ctx x.ctx with
    | none => s
    | some c =>
      if c.cores.isEmpty then s else
      match s.reportCheck c (x.word 2) with
      | some e => s.queueError q e
      | none =>
        let s := (s.setQueue q { s.queue q with st := .migr }).mirrorQueue q
        if s.migratingCtx x.ctx then s else s.startMigration x.ctx (bits h 17 16) (x.word 1) (x.word 2) none (some q)

/-! ### Picks (R198, R443) -/

/-- The head packet lets a pick act: it has been read, or its read is refused, and what it waits for is there (R193, R491). -/
def State.headReady (s : State) (q : Nat) : Bool :=
  let x := s.queue q
  if x.sent then false else
  match x.head with
  | [] => s.ringAtHand x && (match (s.qsRead x.ctx x.packet 64 none).1 with
      | .ask | .exit => false
      | _ => true)
  | h :: _ =>
    if bits h 7 0 = 1 then
      (match s.ctx x.ctx with
        | some c => (launchError h c).isSome
          || (!c.cores.isEmpty && !s.wakeAsked c && x.copiesLeft.any fun i => (s.launchTarget c h i).isSome)
        | none => false)
    else if bits h 7 0 = 4 then s.placed x.ctx
    -- A SIGNAL or MARKER is a release of the QS: the writes of its queues before have been acknowledged (R252, R255).
    else if bits h 7 0 = 3 ∨ bits h 7 0 = 5 then s.qs.queues.all fun p => !p.2.sent
    else true

/-- Act on a head packet that has been read. -/
def State.qsAct (s : State) (q : Nat) (ext : Option ExtReply) : State :=
  let x := s.queue q
  let h := x.word 0
  match bits h 7 0 with
  | 1 => s.qsLaunch q
  | 2 =>
    (match x.waitError with
      | some e => s.queueError q e
      | none => s.qsWait q ext)
  | 3 => s.qsSignal q
  | 4 => s.qsMigrate q
  | 5 => s.qsMarker q
  | _ => s.queueError q 0x01#8

/-- What a head packet reads of the tables of the device waits for the DRAM to leave self-refresh (R394). -/
def State.headSleeps (s : State) (x : Queue) : Bool :=
  s.selfRefresh && !x.head.isEmpty && match bits (x.word 0) 7 0, region ((s.ctx x.ctx).getD {}).tenant (x.word 1) with
    | 4, _ => true
    | 3, .paged p | 5, .paged p => s.walks p false
    | _, _ => false

/-- A pick of a stride queue (R198): GV takes its PASS, the head packet acts, and the stride is charged. A WAIT at the head that
turns out unresolved has blocked its queue before (R193): nothing is charged for it. -/
def State.qsServe (s : State) (q : Nat) (ext : Option ExtReply) : Option State :=
  let x := s.queue q
  let stride := s.stride q
  let charge := fun (t : State) =>
    let y := t.queue q
    if y.st = .wait ∧ y.rd = x.rd then some ({ t with qs := { t.qs with gv := s.qs.gv } } : State)
    else some ((t.setQueue q { y with pass := y.pass + stride }).mirrorQueue q)
  if s.headSleeps x then some { s with dramExit := true } else
  let s : State := { s with qs := { s.qs with gv := x.pass } }
  match x.head with
  | _ :: _ => charge (s.qsAct q ext)
  | [] =>
    match s.qsRead x.ctx x.packet 64 none with
    | (.got w, t) => charge ((t.setQueue q { t.queue q with head := w }).qsAct q ext)
    | (.refused, t) => charge (t.queueError q 0x06#8)
    | (.absent p, t) => some (t.parkQueue q p)
    | _ => none

/-- The head of an invocation queue can be served (R443, R446). -/
def State.invReady (s : State) (i : Invocation) : Bool :=
  let h := s.qs.handlers.getD (bits i.pkt.header 15 4) {}
  match s.ctx h.ctx with
  | none => false
  | some x => i.waiting.isEmpty && !x.cores.isEmpty
      && (decide (x.cores.length ≤ h.vca) || (!s.wakeAsked x && (s.spread (x.within ((x.cores[h.vca]?).getD 0) h.sd.toNat)).isSome))

/-- The highest invocation queue whose head is eligible, with the head (R443). -/
def State.invHead (s : State) : Option (Nat × Invocation) :=
  ((List.range 16).map (15 - ·)).findSome? fun p => match s.qs.inv.getD p [] with
    | i :: _ => if s.invReady i then some (p, i) else none
    | [] => none

/-- The group word of a handler's thread (R444). -/
def groupWord (p : InvPacket) (member : Nat) : Word :=
  fields [(p.chip, 28), (bits p.header 15 4, 16), (bits p.header 21 16, 8), (member, 0)]

/-- A pick of an invocation queue (R443): up to 16 threads of the head's group. -/
def State.invServe (s : State) (prio : Nat) (i : Invocation) : State :=
  let h := s.qs.handlers.getD (bits i.pkt.header 15 4) {}
  let rest := (s.qs.inv.getD prio []).drop 1
  let put := fun (s : State) (l : List Invocation) => ({ s with qs := { s.qs with inv := Tab.set s.qs.inv prio l } } : State)
  match s.ctx h.ctx with
  | none => put s rest
  | some x =>
    if x.cores.length ≤ h.vca then (put s rest).postDiscarded 1 i.pkt prio
    else if (s.island x.island).st ≠ .active then s.wakeIsland x.island .active
    else
      let n := bits i.pkt.header 21 16 + 1
      let (base, s) := match i.base with
        | some b => (b, s)
        | none => s.reserveTids h.ctx n
      let rec_ := fun (k : Nat) => ({ pc := h.hpc, args := i.pkt.args.take 6 ++ [groupWord i.pkt k], prio := prio, dom := h.sd.toNat,
                                      ctx := h.ctx, tid := some (BitVec.ofNat 32 (base + k)) } : TaskRec)
      let cands := x.within ((x.cores[h.vca]?).getD 0) h.sd.toNat
      let (s, left) := s.writeCopies (fun s _ => s.spread cands) rec_ 16 ((List.range n).drop i.written)
      put s (if left.isEmpty then rest else { i with base := some base, written := n - left.length } :: rest)

/-- A pick every 8 ns (R198): it alternates between invocation queues and stride queues while both have work; a pick that finds not
both with work starts the alternation anew (R443). -/
def State.pick (s : State) (ext : Option ExtReply) : Option State :=
  if s.heel.freeze ≠ .none ∨ s.boot.phase = .maquette then none else
  let s := s.viewHeads
  let next := fun (s : State) (b : Bool) =>
    let both := s.invHead.isSome && (s.pickQueue s.headReady).isSome
    ({ s with qs := { s.qs with invNext := b || !both } } : State)
  match s.invHead, s.pickQueue s.headReady with
  | none, none => if s.qs.invNext then none else some { s with qs := { s.qs with invNext := true } }
  | some (p, i), none => some (next (s.invServe p i) true)
  | none, some q => (s.qsServe q ext).map fun s => next s true
  | some (p, i), some q =>
    if s.qs.invNext then some (next (s.invServe p i) false) else (s.qsServe q ext).map fun s => next s true

def execQsPick (ext : Option ExtReply) (s : State) : Host.Outcome State Fault Refusal := event "QS_PICK" (s.pick ext)

/-! ### The other events of the QS -/

/-- A doorbell, of 32 bits or 64 (R192, R422; log entry 62): a disabled queue ignores it. -/
def execDoorbell (q : Nat) (value : HostWrite) (s : State) : Host.Outcome State Fault Refusal :=
  event "DOORBELL" (
    let x := s.queue q
    if 256 ≤ q then none else if !x.en ∨ bar2Ignores (8 * q) value.size then some s else
    let x := { x with wr := value.value.setWidth 32 }
    let t := s.setQueue q x
    if x.st = .error then some (t.mirrorQueue q)
    else if 2 ^ x.logn < (x.wr - x.rd).toNat then some (t.queueError q 0x04#8)
    else if x.st = .idle then some (s.settleQueue q (s.idleOrReady x))
    else if x.st = .ready ∧ x.rd = x.wr then some (s.settleQueue q { x with st := .idle, resident := false, head := [], launch := none })
    else some (t.mirrorQueue q))

/-- The EN bit of a descriptor has been written (R191, R193). -/
def execQueueEnable (q : Nat) (s : State) : Host.Outcome State Fault Refusal :=
  event "QUEUE_ENABLE" (match s.queueDesc q with
    | none => none
    | some a => if 256 ≤ q ∨ (s.word (a + 8)).getLsbD 32 = (s.queue q).en then none else some (s.enableQueue q))

/-- A head packet that lies outside the die has come, and is evaluated if it is a WAIT (R194, R196). -/
def State.headArrives (s : State) (q : Nat) (ext : Option ExtReply) : Option State :=
  let x := s.queue q
  match (s.qsRead x.ctx x.packet 64 none).1, s.qsRead x.ctx x.packet 64 ext with
  | .ask, (.got w, t) => some (t.seeHead q w)
  | .ask, (.refused, t) => some (t.queueError q 0x06#8)
  | _, _ => none

/-- The WAIT at the head is evaluated: as its packet comes from outside the die, and again while it is blocked (R196). -/
def execQsWaitEvaluate (q : Nat) (ext : Option ExtReply) (s : State) : Host.Outcome State Fault Refusal :=
  event "QS_WAIT_EVALUATE" (
    let x := s.queue q
    if s.heel.freeze ≠ .none then none
    else if x.unseen && s.ringAtHand x then s.headArrives q ext
    else if x.st ≠ .wait ∨ !x.resident ∨ x.parked.isSome then none else
    match (s.qsRead x.ctx (x.word 1) 8 ext).1 with
    | .ask => none
    | _ => some (s.qsWait q ext))

/-- The fault-park limit has passed (R196): the queue becomes WAITMEM and gives its slot up; its lent tickets stay lent. -/
def execQsFaultParkExpiry (q : Nat) (s : State) : Host.Outcome State Fault Refusal :=
  event "QS_FAULT_PARK_EXPIRY" (
    let x := s.queue q
    match x.parked with
    | some (_, since, _) =>
      if x.st = .waitmem ∨ (s.time - since).toNat < 1000 * s.mgmt.fpark then none
      else some (s.settleQueue q { x with st := .waitmem, resident := false })
    | none => none)

/-- The write of a SIGNAL or a MARKER is acknowledged (R197): the packet is consumed, and a MARKER raises its vector. -/
def execQsSignalAck (q : Nat) (ext : Option ExtReply) (s : State) : Host.Outcome State Fault Refusal :=
  event "QS_SIGNAL_ACK" (
    let x := s.queue q
    let h := x.word 0
    match if x.sent then s.reqs.find? (fun p => p.2.src == .queue q) else none with
    | none => none
    | some (n, r) =>
      let done := fun (a : Reply) =>
        let s := s.dropReq n
        match a with
        | .err _ => some (s.queueError q 0x06#8)
        | .val _ =>
          let s := if bits h 7 0 = 5 ∧ h.getLsbD 8 then s.raise (bits h 23 16) else s
          some (s.consume q)
      match r.st, ext with
      | .answered a, _ => done a
      | .sent _, some e => if isAmo r.acc then none else done (extReply e)
      | _, _ => none)

end Sys2Proof.Machine
end

