-- ==== Sys2Proof/Machine/EvMig.lean ====
section
/-! DEFINITION. Events of migration and of context saves (13 R383-R392). -/

namespace Sys2Proof.Machine

/-! ### Drained cores (R260, R386, R389) -/

/-- A thread has nothing under way outside its slot: its release at .sys is complete (R255, R260), and no unit has
accepted a request of it, one that waits at its home for a page apart (R168, R170). -/
def State.drainedThread (s : State) (core slot : Nat) (t : Thread) : Bool :=
  t.sb.isEmpty && t.outst == 0 && !t.hostWrites && t.cmpq.isEmpty && t.pending.isNone && (match t.run with
    | .parked w _ _ => !w.accepted || w.leaves && s.waitsForPage core slot
    | _ => true)

/-- The engine operations of a core that have started have completed (R386, R389). -/
def State.enginesStopped (s : State) (core : Nat) : Bool :=
  let u := s.cluster (clusterOf core)
  (match u.me.running with
    | some (c, _, _) => c != core
    | none => true)
    && (u.ce.copies.all fun c => c.core != core || !c.started) && u.kse.running != some core
    && (u.kse.queue.all fun c => c.core != core || c.aside.isNone)

/-- No engine operation of a core is left, queued ones included (R260). -/
def State.enginesEmpty (s : State) (core : Nat) : Bool :=
  let u := s.cluster (clusterOf core)
  (u.me.jobs.all fun j => j.core != core) && (u.ce.copies.all fun c => c.core != core)
    && (u.kse.queue.all fun c => c.core != core) && (s.core core).copyRegs.isEmpty

/-- A core has drained: its threads have, and no message is on its way to it. -/
def State.drained (s : State) (core : Nat) : Bool :=
  ((s.core core).slots.all fun p => s.drainedThread core p.1 p.2) && (s.messages.all fun m => m.1 != core)
    && (s.inflight.all fun p => p.2.core != core) && (s.core core).evicting.isNone

/-- No slot of the cores is RESERVED or TORN (R447). -/
def State.noReservation (s : State) (cores : List Nat) : Bool :=
  s.lz.all fun p => !cores.contains (p.1 / 16) || p.2.st.isFree

/-- Each core has a forwarding entry free for a context, or one that names it already (R387). -/
def State.mayVacate (s : State) (n : Nat) (cores : List Nat) : Bool :=
  cores.all fun c => decide (((s.core c).forwards.filter fun e => e.1 != n).length < 4)

/-- Requests of moved threads that wait for a page are given up: their instructions reissue (R168). Those of SAVED threads stay
for the wake, but for the reading of a join counter, which is made again (R170). -/
def State.dropParked (s : State) (cores : List Nat) : State :=
  { s with reqs := Tab.filterV s.reqs fun _ r => match r.src with
      | .thread c k | .fetch c k =>
        !(cores.contains c && (if k < 16 then r.st == .parked else match (s.core c).saved.get? (k - 16) with
          | some v => (match v.th.run with
            | .parked w _ _ => w.isJoin
            | _ => false)
          | none => false))
      | _ => true }

/-- Leave forwarding entries for a context on the cores it left: each core has one for it, to where it went last (R387). -/
def State.forward (s : State) (n : Nat) (pairs : List (Nat × Nat)) : State :=
  pairs.foldl (fun s p => if p.1 = p.2 then s else s.updCore p.1 fun k =>
    { k with forwards := (k.forwards.filter fun e => e.1 != n) ++ [(n, p.2, s.time)] }) s

/-! ### Phases of a migration (R389) -/

def State.migration (s : State) (n : Nat) : Option Migration := s.migrations.find? fun m => m.ctx == n

def State.setMigration (s : State) (m : Migration) : State :=
  { s with migrations := s.migrations.map fun x => if x.ctx = m.ctx then m else x }

/-- A migration in a phase, its clock running (R390). -/
def State.inPhase (s : State) (n : Nat) (p : MigPhase) : Option (Migration × Ctx) :=
  if s.heel.freeze ≠ .none then none else
  match s.migration n, s.ctx n with
  | some m, some x => if m.phase = p then some (m, x) else none
  | _, _ => none

/-- Every thread of the context is quiescent (R389): the move drains. -/
def execMigrationDrain (ctx : Nat) (s : State) : Host.Outcome State Fault Refusal :=
  event "MIGRATION_DRAIN" (match s.inPhase ctx .park with
    | some (m, x) =>
      if x.cores.all fun c => (s.core c).evicting.isNone && (s.core c).slots.all fun p => p.2.quiescent then some (s.setMigration { m with phase := .drain })
      else none
    | none => none)

/-- The context has drained (R389): COPY wakes the target if it must, and the context moves to the place the plinth chose. The
report counts the bytes of the slices: 2 MiB each (R420). -/
def execMigrationCopy (ctx : Nat) (place : Placement) (s : State) : Host.Outcome State Fault Refusal :=
  event "MIGRATION_COPY" (match s.inPhase ctx .drain <|> s.inPhase ctx (.copy false) with
    | some (m, x) =>
      if !(x.cores.all fun c => s.drained c && s.enginesStopped c) ∨ !s.mayVacate ctx x.cores then none
      else if (s.island m.target).st ≠ .active then
        if m.phase = .copy false ∧ (s.island m.target).waking = some .active then none
        else some ((s.wakeIsland m.target .active).setMigration { m with phase := .copy false })
      else if !s.placeFits ctx m.target x place then none
      else
        let (i, s) := (s.dropParked x.cores).detach ctx x.cores
        let (img, s) := s.takeSlices x.slices
        let s := s.putSlices place.slices img.1 img.2
        let y := { x with cores := place.cores, slices := place.slices }
        let s := (s.setCtx ctx { y with owners := y.entering }).attach ctx i place.cores
        let s := s.forward ctx (x.cores.zip place.cores)
        some (s.setMigration { m with phase := .copy true, bytes := 2 ^ 21 * x.slices.length })
    | none => none)

/-- The threads of a context at migpt go on; one in step mode stops, its migpt complete (R380, R391). -/
def State.leaveMigpt (s : State) (x : Ctx) : State :=
  (x.cores.flatMap fun c => (s.core c).slots.map fun p => (c, p.1, p.2)).foldl (fun (s : State) p => match p.2.2.run with
    | .parked (.migpt pc) _ _ =>
      let t := { p.2.2 with run := .ready, readyAt := (s.core p.1).cycle }
      let s := s.setThread p.1 p.2.1 t
      if t.step then s.takeStop p.1 p.2.1 { code := 0, pc := pc, rpc := t.pc } else s
    | _ => s) s

/-- The move is done (R389): threads and launches go on at the target. -/
def execMigrationResume (ctx : Nat) (s : State) : Host.Outcome State Fault Refusal :=
  event "MIGRATION_RESUME" (match s.inPhase ctx (.copy true) with
    | some (m, x) => some (((s.setCtx ctx { x with migrating := false }).leaveMigpt x).setMigration { m with phase := .done 0, tend := s.time })
    | none => none)

/-- TIMEOUT has passed in PARK or DRAIN (R389, R391): the move is aborted, and each thread that was not quiescent is named by
a notice with CODE 0x60. -/
def execMigrationTimeout (ctx : Nat) (s : State) : Host.Outcome State Fault Refusal :=
  event "MIGRATION_TIMEOUT" (
    let abort := fun (m : Migration) (x : Ctx) (status : Nat) =>
      if (s.time - m.tstart).toNat < m.timeout.toNat then none else
      let loud := x.cores.flatMap fun c => ((s.core c).slots.filter fun p => !p.2.quiescent).map fun p => (c, p.1, p.2.pc)
      let lag := (List.range x.cores.length).foldl (fun (w : Word) v =>
        if loud.any fun p => some p.1 == x.cores[v]? then w ||| (1#64 <<< v) else w) 0
      let s := (s.setCtx ctx { x with migrating := false }).leaveMigpt x
      let s := loud.foldl (fun s p => s.notice p.1 p.2.1 ctx { code := 0x60#8, pc := p.2.2, rpc := p.2.2, type := 3 }) s
      some (s.setMigration { m with phase := .done status, tend := s.time, lag := lag })
    match s.inPhase ctx .park, s.inPhase ctx .drain with
    | some (m, x), _ => abort m x 1
    | none, some (m, x) => abort m x 2
    | none, none => none)

/-! ### The report and the end (R388, R392) -/

/-- The words of a report. -/
def Migration.words (m : Migration) (status : Nat) : List Word :=
  [Word.ofNat status, m.tstart, m.tend, Word.ofNat m.bytes, m.lag, 0, 0, 0]

/-- A queue that waits in MIGR for this migration to end takes its turn (R388): of several, which the rule does not order, the lowest
(DESIGN CHOICE, log entry 50). The check of its REPORT reads DRAM (R394). -/
def State.nextMigrate (s : State) (n : Nat) : State :=
  if s.migratingCtx n then s else
  match s.qs.queues.find? fun p => p.2.st == .migr && p.2.ctx == n && p.2.parked.isNone with
  | some (q, x) => match s.ctx n with
    | some c => if s.selfRefresh then { s with dramExit := true } else (match s.reportCheck c (x.word 2) with
        | some e => s.queueError q e
        | none => s.startMigration n (bits (x.word 0) 17 16) (x.word 1) (x.word 2) none (some q))
    | none => s
  | none => s

/-- A migration ends, its report written or not: its queue goes on, or enters ERROR; its trigger entry sets LAST (R392, R399). -/
def State.endMigration (s : State) (m : Migration) (status : Nat) (written : Bool) : State :=
  let s : State := { s with migrations := s.migrations.filter fun x => x.ctx != m.ctx }
  let s := match m.queue with
    | some q => if (s.queue q).st ≠ QState.migr then s else if written then s.consume q else s.queueError q 0x06#8
    | none => s
  let s := match m.trigger with
    | some k => if (s.trigger k).st = TrigSt.firing then s.endAction k (if !written then 2 else if status = 0 then 0 else if status = 5 then 1 else 2) else s
    | none => s
  s.nextMigrate m.ctx

/-- The next word of a report, and how many words of it lie in one page of 128 KiB (R392). -/
def Migration.piece (m : Migration) : Word × Nat :=
  let a := m.report + Word.ofNat (8 * m.sent)
  (a, min (8 - m.sent) ((2 ^ 17 - a.toNat % 2 ^ 17) / 8))

/-- The words of a page of the report have been written: those of the next follow, or the migration ends (R392). -/
def State.reportOn (s : State) (m : Migration) (status : Nat) : State :=
  let n := m.sent + m.piece.2
  if 8 ≤ n then s.endMigration m status true else s.setMigration { m with sent := n }

/-- The report waits at a home agent for a page that is not present, and the queue that asked with it (R194, R244). -/
def State.parkReport (s : State) (m : Migration) (p : Word) : State :=
  let s := s.postPage p m.ctx 0 true false
  match m.queue.filter fun q => (s.queue q).st == .migr with
  | some q => s.parkQueue q (routeRange p)
  | none => s.setMigration { m with parked := some (routeRange p) }

/-- Write the words of the report that one page holds, in the die, to the host, or to another chip, whose answer then comes. -/
def State.writeReport (s : State) (m : Migration) (x : Ctx) (status : Nat) : Option State :=
  let (a, k) := m.piece
  let bytes := (((m.words status).drop m.sent).take k).flatMap wordBytes
  let fails := fun (s : State) => some (s.endMigration m status false)
  let die := fun (s : State) (d : Nat) =>
    if s.fencedAt d then fails s else some (({ s with mem := Mem.writeBytes s.mem d bytes } : State).reportOn m status)
  match region x.tenant a with
  | .sram c o => (match x.phys c o with
    | some d => die s d
    | none => fails s)
  | .paged p => s.walkExits p false <|
    let (t, s) := s.translate p
    (match t with
      | .dram d => s.dramExits p (die (s.fillLine p d true) d)
      | .host h => some ((s.hostWrite m.ctx p h bytes false).reportOn m status)
      | .chip c q =>
        if (s.portTo c).isNone then fails s else
        let acc : Access := .write (ofBytes bytes) (Exec.firstBytes (8 * k))
        let r : Req := { src := .report m.ctx, ctx := m.ctx, addr := a, acc := acc, st := .sent (some c) }
        some (({ s.setReq s.nextReq r with nextReq := s.nextReq + 1 } : State).emit
          (.fabric c 0 (.access s.nextReq (Word.ofNat q) acc) (s.sealed m.ctx)))
      | .refused b level w0 => fails (if b then s.postMalformed p m.ctx level w0 else s)
      | .absent => some (s.parkReport m p))
  | _ => fails s

/-- The report is written (R392). A page that is not present holds it; words on another chip are sent there, and the report goes on
with the answer. -/
def execMigrationReportWrite (ctx : Nat) (s : State) : Host.Outcome State Fault Refusal :=
  event "MIGRATION_REPORT_WRITE" (match s.migration ctx, s.ctx ctx with
    | some m, some x => match m.phase with
      | .done st =>
        if m.parked.isSome ∨ m.queue.any (fun q => (s.queue q).parked.isSome) ∨ s.heel.freeze ≠ .none then none else
        (match s.reqs.find? fun p => p.2.src == .report ctx with
          | some (k, r) => (match r.st with
            | .answered (.val _) => some ((s.dropReq k).reportOn m st)
            | .answered (.err _) => some ((s.dropReq k).endMigration m st false)
            | _ => none)
          | none => s.writeReport m x st)
      | _ => none
    | _, _ => none)

/-! ### Saves and restores of a context (R383) -/

/-- Stop the cores of a context or of a part of it for the plinth (R383, R386). -/
def State.hold (s : State) (cores : List Nat) : State := cores.foldl (fun s c => s.updCore c fun k => { k with held := true }) s

/-- The plinth saves a context (R383): it stops its cores, and saves once everything of it has drained (R260). -/
def execContextSave (ctx : Nat) (out : Bool) (s : State) : Host.Outcome State Fault Refusal :=
  event "CONTEXT_SAVE" (match s.ctx ctx with
    | none => none
    | some x =>
      if ctx = 0 ∨ x.dead ∨ x.saved ∨ s.migratingCtx ctx ∨ x.cores.isEmpty ∨ !s.noReservation x.cores ∨ s.heel.freeze ≠ .none then none
      else if !(x.cores.all fun c => (s.core c).held) ∨ !x.saving then some ((s.hold x.cores).setCtx ctx { x with saving := true })
      else if !(x.cores.all fun c => s.drained c && s.enginesEmpty c) then none
      else
        let (i, s) := (s.dropParked x.cores).detach ctx x.cores
        let y := { x with saved := true, saving := false, package := i, cores := [], owners := [] }
        let s := if out then
            let (img, s) := s.takeSlices x.slices
            s.setCtx ctx { y with image := img.1, imageEmpties := img.2, out := true }
          else s.setCtx ctx y
        some (s.postFault { kind := 4, sub := 1, arg := 0, ctx := ctx, addr := 0, info := 0 }))

/-- The plinth restores a saved context on cores and slices of one island (R383, R385); its owners are set afresh (R190). A tag
of a sealed context's save area that fails kills it with 0x20 (R476). -/
def execContextRestore (ctx : Nat) (place : Restore) (s : State) : Host.Outcome State Fault Refusal :=
  event "CONTEXT_RESTORE" (match s.ctx ctx with
    | none => none
    | some x =>
      let dest := place.place
      let island := islandOf (dest.cores.headD 0)
      if !x.saved ∨ x.dead ∨ (s.island island).st ≠ .active ∨ s.heel.freeze ≠ .none ∨ !s.placeFits ctx island x dest then none
      else if x.sealed && !place.tags then some (s.killContext ctx 0x20#8)
      else
        let (img, s) := if x.out then ((x.image, x.imageEmpties), s) else s.takeSlices x.slices
        let s := s.putSlices dest.slices img.1 img.2
        let y := { x with saved := false, package := {}, out := false, image := [], imageEmpties := [], cores := dest.cores, slices := dest.slices }
        some ((s.setCtx ctx { y with owners := y.entering }).attach ctx x.package dest.cores))

/-! ### Core migration (R386, R387) -/

/-- Where the cores that move with `src` go: those of its context in its cluster, each to the same position of the
destination's cluster (R385). -/
def State.movers (s : State) (src dst : Nat) : List (Nat × Nat) :=
  match s.ctx (s.ctxOf src) with
  | some x => (x.cores.filter fun c => clusterOf c == clusterOf src).map fun c => (c, 8 * clusterOf dst + c % 8)
  | none => []

/-- The plinth moves a core to a free one, and the other cores of its context in the cluster with it (R385, R386): they stop
issuing, and move once they have drained. Quarters pass to the destination (R190). -/
def execCoreMigration (src dst : Nat) (s : State) : Host.Outcome State Fault Refusal :=
  event "CORE_MIGRATION" (match (s.core src).ctx, s.ctx (s.ctxOf src) with
    | some n, some x =>
      let pairs := s.movers src dst
      let cores := pairs.map fun p => p.1
      let (i, t) := s.detach n cores
      if clusterOf src = clusterOf dst ∨ src % 8 ≠ dst % 8 ∨ islandOf src ≠ islandOf dst ∨ x.migrating ∨ x.saving ∨ !s.coreOn dst
          ∨ !s.noReservation cores ∨ !s.mayVacate n cores ∨ !t.fits n i pairs then none
      else if !(cores.all fun c => (s.core c).held) then some (s.hold cores)
      else if !(cores.all fun c => s.drained c && s.enginesStopped c) then none
      else
        let (i, s) := (s.dropParked cores).detach n cores
        let f := fun (c : Nat) => (pairs.lookup c).getD c
        let y := { x with cores := x.cores.map f, owners := Tab.mapV x.owners fun _ c => f c }
        let s := s.setCtx n (pairs.foldl (fun (y : Ctx) p => y.joining p.2) y)
        some ((s.attach n i (pairs.map fun p => p.2)).forward n pairs)
    | _, _ => none)

/-- No traffic has passed a forwarding entry for the quiet interval: the plinth clears it (R387). -/
def execForwardQuietExpiry (core n : Nat) (s : State) : Host.Outcome State Fault Refusal :=
  event "FORWARD_QUIET_EXPIRY" (match (s.core core).forwards.lookup n with
    | some (_, since) =>
      if (s.time - since).toNat < 1000 * s.mgmt.quiet then none
      else some (s.updCore core fun k => { k with forwards := k.forwards.filter fun e => e.1 != n })
    | none => none)

end Sys2Proof.Machine
end

