-- ==== Sys2Proof/Machine/EvPower.lean ====
section
/-! DEFINITION. Events of power, clocks, energy, triggers, the safety core and hardware errors (13 R393-R412, 17 R489,
R490). -/

namespace Sys2Proof.Machine

/-! ### Islands and DRAM (R393, R394) -/

/-- The cores of an island that hold anything. -/
def State.islandCores (s : State) (n : Nat) : List (Nat × Core) := s.cores.filter fun c => islandOf c.1 == n

/-- The engines of an island are idle. -/
def State.islandIdle (s : State) (n : Nat) : Bool :=
  s.clusters.all fun k => (decide (k.1 < 64) != (n == 0)) ||
    (k.2.me.jobs.isEmpty && k.2.ce.copies.isEmpty && k.2.kse.queue.isEmpty)

/-- A core or an engine keeps an island awake (R394). -/
def State.islandBusy (s : State) (n : Nat) : Bool := !s.islandIdle n || (s.islandCores n).any fun c => s.keepsAwake c.1 c.2

/-- A time has passed since another, in ns. -/
def State.past (s : State) (since : Word) (n : Nat) : Bool := decide (n ≤ (s.time - since).toNat)

/-- The burst island has been idle for the threshold (R394). -/
def execBurstIdleEntry (s : State) : Host.Outcome State Fault Refusal :=
  event "BURST_IDLE_ENTRY" (
    if s.burst ≠ ⟨.active, none⟩ ∨ s.forbidden 0 .idle ∨ s.islandBusy 0 ∨ !s.past s.burstUsed (1000 * s.mgmt.bidle) then none
    else some { s with burst := ⟨.idle, none⟩ })

/-- The logic state of the burst island is lost (R393); a unit stays fenced until the next reset (R412). -/
def State.loseLogic (s : State) : State :=
  { s with
    cores := Tab.mapV s.cores fun n c => if n < 512 then { fenced := c.fenced, lost := c.lost } else c
    clusters := Tab.mapV s.clusters fun n k =>
      if n < 64 then { me := { fenced := k.me.fenced }, ce := { fenced := k.ce.fenced }, kse := { fenced := k.kse.fenced } } else k }

/-- No context holds burst cores: each that did is saved (R394). The time without an access that ends in self-refresh counts from
here at the earliest. -/
def execBurstRetainEntry (s : State) : Host.Outcome State Fault Refusal :=
  event "BURST_RETAIN_ENTRY" (
    if s.burst ≠ ⟨.idle, none⟩ ∨ s.forbidden 0 .retain ∨ s.ctxs.any (fun x => x.2.cores.any fun c => decide (c < 512)) then none
    else some { s.loseLogic.touchDram with burst := ⟨.retain, none⟩ })

/-- The contents of the burst slices are lost (R393). -/
def State.loseSram (s : State) : State :=
  { s with mem := s.mem.filter fun c => decide (128 * 2 ^ 21 ≤ c.1), empties := s.empties.filter fun a => decide (128 * 2 ^ 21 ≤ a) }

/-- No context holds a burst slice (R394). -/
def execBurstOffEntry (s : State) : Host.Outcome State Fault Refusal :=
  event "BURST_OFF_ENTRY" (
    if s.burst ≠ ⟨.retain, none⟩ ∨ s.forbidden 0 .off ∨ s.ctxs.any (fun x => !x.2.out && x.2.slices.any fun k => decide (k < 128)) then none
    else some { s.loseSram with burst := ⟨.off, none⟩ })

/-- For 1 µs every watch user thread has been parked on a wait that only an event can end, or stopped, and no watch engine busy
(R394). -/
def execWatchDozeEntry (s : State) : Host.Outcome State Fault Refusal :=
  event "WATCH_DOZE_ENTRY" (
    if s.watch ≠ ⟨.active, none⟩ ∨ s.forbidden 1 .idle ∨ s.islandBusy 1 ∨ !s.past s.watchUsed 1000 then none
    else some { s with watch := ⟨.idle, none⟩ })

/-- For 100 µs the DRAM has not been accessed while the burst island is in RETAIN or OFF (R394). -/
def execDramSelfRefreshEntry (s : State) : Host.Outcome State Fault Refusal :=
  event "DRAM_SELF_REFRESH_ENTRY" (
    if s.selfRefresh ∨ s.burst.st.depth < 2 ∨ !s.past s.dramUsed 100000 then none else some { s with selfRefresh := true, dramExit := false })

/-- The state a number names (R393). -/
def stateOf : Nat → PState
  | 0 => .active
  | 1 => .idle
  | 2 => .retain
  | _ => .off

/-- A dispatch, a wake request or an event starts waking an island (R394). -/
def execIslandWake (island target : Nat) (s : State) : Host.Outcome State Fault Refusal :=
  event "ISLAND_WAKE" (
    if 2 ≤ island then none else
    let t := s.wakeIsland island (stateOf target)
    if t.island island = s.island island then none else some t)

/-- An island has reached the state it was waking to (R393): waits for it and wake actions end (R395, R396, R399). Its idle time counts
from here (R394; DESIGN CHOICE, log entry 35). -/
def execIslandWakeComplete (island : Nat) (s : State) : Host.Outcome State Fault Refusal :=
  event "ISLAND_WAKE_COMPLETE" (match if island < 2 then (s.island island).waking else none with
    | none => none
    | some st =>
      let s := (s.setIsland island ⟨st, none⟩).useIsland island
      let s := (List.range 16).foldl (fun (s : State) k =>
        let t := s.trigger k
        if island = 0 ∧ t.st = .firing ∧ bits t.w0 57 56 = 0 ∧ st.depth ≤ (wakeTarget (bits t.w0 39 38)).depth then s.endAction k 0 else s) s
      let s := s.reissueAll s.coreOn fun _ w => w.onIsland island st
      some (s.wakeAllSaved fun _ w => w.onIsland island st))

/-- An event wakes the watch island from DOZE (R394). -/
def State.wakeWatch (s : State) : State := s.wakeIsland 1 .active

/-- The actions of trigger entries that waited for the DRAM start (R394, R399). -/
def State.dueTriggers (s : State) : State :=
  (s.triggers.filter fun t => t.2.due).foldl (fun s t => s.startAction t.1) s

/-- The queues in MIGR whose migration waited for the DRAM (R388, R394). -/
def State.dueMigrations (s : State) : State :=
  (s.qs.queues.filter fun p => p.2.st == .migr).foldl (fun s p => s.nextMigrate p.2.ctx) s

/-- DRAM has left self-refresh: what waited for it goes on (R394). -/
def execDramExitComplete (s : State) : Host.Outcome State Fault Refusal :=
  event "DRAM_EXIT_COMPLETE" (
    if s.selfRefresh && s.dramExit then
      some (({ s with selfRefresh := false, dramExit := false, dramUsed := s.time } : State).wakeWatch.dueTriggers.dueMigrations.viewHeads)
    else none)

/-! ### Clocks, power, time, energy (R402, R403, R489, R490) -/

/-- The frequency a core of a burst quad requests, in MHz. -/
def State.request (s : State) (core : Nat) : Nat := s.requests.getD core 500

/-- The highest frequency the four cores of a quad request (R402). -/
def State.requested (s : State) (quad : Nat) : Nat := (List.range 4).foldl (fun m i => max m (s.request (4 * quad + i))) 0

/-- The voltage of a cluster at a frequency: that of the point of its curve; the spec gives none between points (R402). -/
def Armature.volts (a : Armature) (cluster mhz : Nat) : Option Nat := (a.curves[cluster]?.getD []).lookup mhz

/-- A core of a burst quad has requested a frequency, a multiple of 25 MHz from 0.5 to 1.2 GHz, and the quad's clock reaches the
highest that its four cores request (R402). A rise ends the gating of its vacant cycles. A watch quad stays as it is. -/
def execClockChange (core mhz : Nat) (s : State) : Host.Outcome State Fault Refusal :=
  event "CLOCK_CHANGE" (
    if 512 ≤ core ∨ mhz % 25 ≠ 0 ∨ mhz < 500 ∨ 1200 < mhz then none else
    let quad := quadOf core
    let old := s.mhz quad
    let s : State := { s with requests := Tab.set s.requests core mhz }
    let s : State := { s with clocks := Tab.set s.clocks quad (s.requested quad) }
    some (if old < s.requested quad then (List.range 4).foldl (fun s i => s.updCore (4 * quad + i) fun k => { k with gated := false }) s
      else s))

/-- The PMC adds to the accounts (R403). -/
def execEnergyUpdate (s : State) : Host.Outcome State Fault Refusal :=
  event "ENERGY_UPDATE" (some ((s.ctxs.map (·.1)).foldl (fun (s : State) n => s.charge n) s))

/-- At TJ_THR the PMC lowers power by R167 on the quads that have a core in use. -/
def execThermalThrottle (s : State) : Host.Outcome State Fault Refusal :=
  event "THERMAL_THROTTLE" (some (
    (s.cores.map fun c => quadOf c.1).eraseDups.foldl (fun s q => (s.lowerPower q).getD s) s))

/-- At 115 °C hardware turns the burst island OFF, and the SC receives a heel (R489). What was on the island is lost: its
contexts end (log entry 40). -/
def execThermalTrip (s : State) : Host.Outcome State Fault Refusal :=
  event "THERMAL_TRIP" (some (
    let lost := (s.ctxs.filter fun x => !x.2.dead && (x.2.cores.any (fun c => decide (c < 512))
      || (!x.2.out && x.2.slices.any fun k => decide (k < 128)))).map (·.1)
    let s := lost.foldl (fun s n => s.killContext n 0x71#8) s
    { (s.loseLogic.loseSram).emit (.toSc 0x71#8 0) with burst := ⟨.off, none⟩ }))

/-- Each island that is in use is so at this time too (R394). -/
def State.useIslands (s : State) : State :=
  [0, 1].foldl (fun (s : State) n => if s.islandBusy n then s.useIsland n else s) s

/-- A tick of the crystal (R490). -/
def execTimeTick (s : State) : Host.Outcome State Fault Refusal :=
  event "TIME_TICK" (some ({ s with time := s.time + 40 } : State).useIslands)

/-! ### Trigger entries (R397-R399) -/

/-- An entry that is ARMED with a met semaphore condition, below a number: it fires first (R398). -/
def State.firesFirst (s : State) (entry : Nat) : Bool :=
  (List.range entry).any fun k => (s.trigger k).en && (s.trigger k).st == .armed && s.semMet (s.trigger k)

/-- An ARMED entry is evaluated, and fires when its condition is met (R398). -/
def execTriggerEvaluate (entry : Nat) (ext : Option ExtReply) (s : State) : Host.Outcome State Fault Refusal :=
  event "TRIGGER_EVALUATE" (
    let t := s.trigger entry
    if 16 ≤ entry ∨ !t.en ∨ t.st ≠ .armed then none else
    match bits t.w0 59 58 with
    | 0 => if s.firesFirst entry then none else some (if s.semMet t then s.fireTrigger entry else s)
    | 2 => (match s.qsRead (bits t.w0 55 48) t.src 8 ext with
        | (.got w, s) =>
          some (if cmpHolds (cmpOf (bits t.w0 37 36)) (w.headD 0 &&& t.mask) t.value then s.fireTrigger entry else s)
        | (.ask, _) => none
        | (_, s) => some s)
    | _ => none)

/-- COOL µs after its action an entry is ARMED again (R398). -/
def execTriggerCooldownExpiry (entry : Nat) (s : State) : Host.Outcome State Fault Refusal :=
  event "TRIGGER_COOLDOWN_EXPIRY" (
    let t := s.trigger entry
    if 16 ≤ entry ∨ t.st ≠ .cooling ∨ s.time.toNat < t.coolEnd.toNat then none
    else some (s.setTrigger entry { t with st := if t.en then .armed else .off }))

/-- An address has a mapping in the space of a context (R397). -/
def State.hasMapping (s : State) (x : Ctx) (a : Word) : Bool :=
  match region x.tenant a with
  | .sram c o => (x.phys c o).isSome
  | .paged p => (match s.walk p with
    | .invalid _ _ _ | .badFrame _ _ _ _ _ => false
    | _ => true)
  | _ => false

/-- The fields of an entry allow EN (R397). -/
def State.triggerOk (s : State) (t : Trigger) : Bool :=
  let n := bits t.w0 55 48
  bits t.w0 59 58 != 3 && bits t.w0 57 56 != 3 && bits t.w0 39 38 != 3 && s.live n && (match s.ctx n with
    | some x => (match bits t.w0 59 58 with
      | 0 => x.cores.contains (bits t.src 9 0)
      | 2 => t.src.toNat % 8 == 0 && s.hasMapping x t.src
      | _ => true)
    | none => false)

/-- A write of a word of a trigger entry (R397): a write that sets EN checks the entry, and EN reads 0 when it fails. -/
def State.writeTrigger (s : State) (entry word : Nat) (v : Word) : State :=
  let t := s.trigger entry
  match word with
  | 0 =>
    let t := { t with w0 := v }
    if v.getLsbD 63 && s.triggerOk t then s.setTrigger entry { t with en := true, st := if t.st = .off then .armed else t.st }
    else s.setTrigger entry { t with en := false, st := if t.st = .firing then .firing else .off }
  | 1 => s.setTrigger entry { t with src := v }
  | 2 => s.setTrigger entry { t with value := v }
  | 3 => s.setTrigger entry { t with mask := v }
  | 4 => s.setTrigger entry { t with timeout := v }
  | 5 => s.setTrigger entry { t with report := v }
  | _ => s

def execTriggerEntryWrite (entry word : Nat) (value : Word) (s : State) : Host.Outcome State Fault Refusal :=
  event "TRIGGER_ENTRY_WRITE" (if 16 ≤ entry ∨ 8 ≤ word then none else some (s.inMaquette (s.writeTrigger entry word value)))

/-! ### The safety core (R404-R407) -/

/-- HEEL: every engine is to stop at a boundary (R405); the heel number counts up (R404). -/
def State.heelStart (s : State) : State :=
  { s with heel := { s.heel with freeze := .freezing, count := s.heel.count + 1, since := s.time } }

def execScHeel (s : State) : Host.Outcome State Fault Refusal :=
  event "SC_HEEL" (if s.heel.freeze = .none then some s.heelStart else none)

/-- The resident user threads of every context, in the order of the dump (R406). -/
def State.frozenThreads (s : State) : List (Nat × Nat × Thread) :=
  (s.cores.filter fun c => !s.isPlinth c.1 && c.2.ctx.isSome).flatMap fun c => c.2.slots.map fun p => (c.1, p.1, p.2)

/-- A request of the thread that a unit has accepted runs still (R168, R405). -/
def Thread.underWay (t : Thread) : Bool :=
  match t.run with
  | .parked w _ _ => w.accepted
  | _ => false

/-- The heel record of a thread (R405, R406): EXACT is 0 while a request is outstanding, and a sealed context's record carries no
thread state. -/
def State.heelRecord (s : State) (core slot : Nat) (t : Thread) : List (Nat × Word) :=
  let n := s.ctxOf core
  let st : Stop := { code := 0x71#8, pc := t.pc, rpc := t.pc, seq := s.heel.count.setWidth 16 }
  -- The words of a TYPE 0 record with the TYPE of a heel.
  let ws := (s.recordWords core slot n st (some t)).map fun w => if w.1 = 0 then (0, w.2 ||| (4#64 <<< 36)) else w
  let ws := if t.underWay then ws.map fun w => if w.1 = 0 then (0, w.2 &&& ~~~(1#64 <<< 34)) else w else ws
  if ((s.ctx n).getD {}).sealed then ws.filter fun w => decide (w.1 < 8) else ws

/-- Write words from an offset of the dump area on, each where its page lies (R406). -/
def State.dumpWords (s : State) (off : Nat) (l : List Word) : State :=
  (l.zip (List.range l.length)).foldl (fun (s : State) p => match s.diePhys {} (s.heel.dumpbase + Word.ofNat (off + 8 * p.2)) with
    | some a => s.write a 8 p.1.toNat
    | none => s) s

/-- The freeze waits for a result of the divider or the SFU, and for a synchronising attempt in flight (R152, R267). -/
def Thread.stopsLater (t : Thread) : Bool :=
  t.pending.isSome || (match t.run with
    | .parked (.sync true) _ _ => true
    | _ => false)

/-- A heel abandons a park that no unit has accepted: what its instruction had reserved is free again, and it reissues (R20,
R168, R302). A blocking job and a stand at migpt go on (R312, R390). -/
def State.abandonPark (s : State) (core slot : Nat) (t : Thread) : State :=
  match t.run with
  | .parked (.job _) _ _ | .parked (.migpt _) _ _ => s
  | .parked w _ _ => if w.accepted then s else (s.release core slot).setThread core slot t.abandon.unparked
  | _ => s

/-- The freeze completes: every KSE command has come to its end, every user thread stands at a boundary, and the dump is written
(R405, R406). -/
def execHeelFreezeComplete (s : State) : Host.Outcome State Fault Refusal :=
  event "HEEL_FREEZE_COMPLETE" (
    if s.heel.freeze ≠ .freezing ∨ s.clusters.any (fun k => k.2.kse.running.isSome) ∨ s.frozenThreads.any (fun p => p.2.2.stopsLater) then none
    else
    let l := s.frozenThreads
    let s := l.foldl (fun (s : State) p => s.abandonPark p.1 p.2.1 p.2.2) s
    let s : State := { s with heel := { s.heel with freeze := .frozen } }
    let s := (l.zip (List.range l.length)).foldl (fun (s : State) (p : (Nat × Nat × Thread) × Nat) =>
      let ws := s.heelRecord p.1.1 p.1.2.1 p.1.2.2
      s.dumpWords (64 + 512 * p.2) ((List.range 64).map fun i => (ws.lookup i).getD 0)) s
    some (s.dumpWords 0 [s.heel.count, Word.ofNat (min l.length 8192), s.time, s.time, 0, 0, 0, 0]))

/-- The contexts a heel concerns: every live one but the plinth's own; a saved one is among them (R407). -/
def State.heelContexts (s : State) : List Nat := (s.ctxs.filter fun x => x.1 != 0 && !x.2.dead).map (·.1)

/-- The refusals that came while the threads stood frozen are taken now (R379); a thread that is READY takes its own as it issues. -/
def State.lateStops (s : State) : State :=
  s.frozenThreads.foldl (fun (s : State) p => if p.2.2.refusalDue ∧ p.2.2.run ≠ .ready then s.takeRefusal p.1 p.2.1 p.2.2 else s) s

/-- RELEASE.RESUME (R404, R407): threads go on, each context gets its notice, the window starts; a migration's clock stood
(R390). -/
def execScReleaseResume (s : State) : Host.Outcome State Fault Refusal :=
  event "SC_RELEASE_RESUME" (
    if s.heel.freeze ≠ .frozen then none else
    let h := s.heel.count.setWidth 16
    let stood := s.time - s.heel.since
    let s : State := { s with
      heel := { s.heel with freeze := .none, deadline := some (s.time + Word.ofNat (1000000 * s.heel.ackwin)) }
      migrations := s.migrations.map fun m => { m with timeout := Word.ofNat (min (m.timeout.toNat + stood.toNat) (2 ^ 64 - 1)) } }
    let s := s.lateStops
    some (s.heelContexts.foldl (fun (s : State) n =>
      let s := s.updCtx n fun x => { x with heelDue := some h.toNat }
      let c := (((s.ctx n).getD {}).cores).headD 0
      s.notice c 15 n { code := 0x71#8, pc := 0, rpc := 0, type := 4, seq := h }) s))

/-- RELEASE.KILL (R404): every context is killed with 0x71. -/
def execScReleaseKill (s : State) : Host.Outcome State Fault Refusal :=
  event "SC_RELEASE_KILL" (
    if s.heel.freeze ≠ .frozen then none else
    let s : State := { s with heel := { s.heel with freeze := .none, deadline := none } }
    some (((s.ctxs.filter fun x => x.1 != 0 && !x.2.dead).map (·.1)).foldl (fun s n => s.killContext n 0x71#8) s))

/-- ACKWIN, 1 ms to 10 s (R404); what a value outside does is left open, and it is brought into the range (DESIGN CHOICE, log entry 35). -/
def execScAckwin (ms : Nat) (s : State) : Host.Outcome State Fault Refusal :=
  event "SC_ACKWIN" (some { s with heel := { s.heel with ackwin := clampNat 1 10000 ms } })

/-- The window ends: a context that has not acknowledged is killed with 0x7F (R407). -/
def execHeelAckWindowExpiry (s : State) : Host.Outcome State Fault Refusal :=
  event "HEEL_ACK_WINDOW_EXPIRY" (match s.heel.deadline with
    | some d =>
      if s.heel.freeze ≠ .none ∨ s.time.toNat < d.toNat then none else
      let s : State := { s with heel := { s.heel with deadline := none } }
      some (((s.ctxs.filter fun x => x.2.heelDue.isSome).map (·.1)).foldl (fun s n => s.killContext n 0x7F#8) s)
    | none => none)

/-! ### Hardware errors (R411, R412) -/

/-- The counter of a soft error (R411, R485). -/
def errorCounter (e : HwError) : Nat :=
  match e.unit with
  | .sram _ => if e.twoBits then 1 else 0
  | .dram _ => if e.twoBits then 3 else 2
  | .core _ | .me _ | .ce _ | .kse _ => 4
  | .port p => 6 + p

/-- A unit of the error exists. -/
def unitExists : HwUnit → Bool
  | .sram a => decide (a < sramEnd)
  | .dram _ => true
  | .core n => decide (n < 528)
  | .me k | .ce k | .kse k => decide (k < 66)
  | .port p => decide (p < 4)

/-- The record of a lasting error, for the driver and the SC (R412, R428). -/
def State.reportLasting (s : State) (sub : Byte) (unit addr : Nat) : State :=
  (((s.count 5).emit (.toSc 0x72#8 unit))).postFault
    { kind := 5, sub := sub, arg := BitVec.ofNat 16 unit, ctx := 0, addr := Word.ofNat addr, info := 0x72#64 }

/-- A 4 KiB block is fenced. -/
def State.fenceBlock (s : State) (a : Nat) : State := { s with fencedBlocks := NatSet.insert s.fencedBlocks (a / 4096) }

/-- Every thread of a core whose state does not read back ends, saved ones too; one with requests outstanding once they are
answered (R412). -/
def State.endAllLost (s : State) (core : Nat) : State :=
  let c := s.core core
  let s := c.slots.foldl (fun s p => s.endLost core p.1) s
  c.saved.foldl (fun s p => s.endLost core (16 + p.1)) s

/-- A unit is fenced, and its running operation ends with 0x72 (R412). -/
def State.fenceUnit (s : State) (e : HwError) : State :=
  match e.unit with
  | .sram a => (s.fenceBlock a).reportLasting 1 (a / 2 ^ 21) (a / 4096 * 4096)
  | .dram a => (s.fenceBlock (dramBase + a)).reportLasting 2 0 (a / 4096 * 4096)
  | .core n =>
    let s := (s.updCore n fun k => { k with fenced := true, held := true, lost := k.lost || e.twoBits }).reportLasting 3 n 0
    if e.twoBits then s.endAllLost n else s
  | .me k =>
    let m := (s.cluster k).me
    let s := (s.updMe k fun m => { m with fenced := true }).reportLasting 4 k 0
    match m.running with
    | some (c, i, _) => match m.jobs.find? fun j => j.core == c && j.id == i with
      | some j => s.endJob j 0x72#8 {} true
      | none => s
    | none => s
  | .ce k =>
    (s.updCe k fun c => { c with fenced := true, copies := c.copies.map fun c =>
      if c.started ∧ c.fault.isNone then { c with fault := some (0x72#8, c.src) } else c }).reportLasting 5 k 0
  | .kse k =>
    let q := (s.cluster k).kse
    let s := (s.updKse k fun q => { q with fenced := true }).reportLasting 6 k 0
    -- What has begun is the running command and those set aside for a page (R348).
    (q.queue.filter q.begun).foldl (fun s j => s.endKse k j (0, 0x72#8, 0, 0)) s
  | .port p =>
    let s := if (s.ports.getD p {}).up then s.linkDown p else s
    ({ s with ports := Tab.set s.ports p { s.ports.getD p {} with fenced := true } } : State).reportLasting 7 p 0

/-- An error is detected (R411): its retry succeeds and is counted, or fails and fences the unit. -/
def execErrorDetected (err : HwError) (s : State) : Host.Outcome State Fault Refusal :=
  event "ERROR_DETECTED" (if !unitExists err.unit then none else some (if err.lasting then s.fenceUnit err else s.count (errorCounter err)))

/-- The scrubber visits words and rows; what it finds is an ERROR_DETECTED, and it changes nothing else (R411). -/
def execPatrolScrub (s : State) : Host.Outcome State Fault Refusal := event "PATROL_SCRUB" (some s)

end Sys2Proof.Machine
end

