-- ==== Sys2Proof/Machine/EvLinks.lean ====
section
/-! DEFINITION. Events of the leash ports (15 R431-R433): flits, link control, training. -/

namespace Sys2Proof.Machine

/-! ### The CRC of a flit (R432) -/

/-- One bit enters the CRC register: generator 0x04C1_1DB7, most significant bit first. -/
def crcStep (c : BitVec 32) (b : Bool) : BitVec 32 :=
  let top := c.getLsbD 31 != b
  let c := c <<< 1
  if top then c ^^^ 0x04C11DB7#32 else c

/-- The CRC of bits [n-1 + 32 : 32] of a flit from the highest down. -/
def crcBits (f : BitVec 256) : Nat → BitVec 32 → BitVec 32
  | 0, c => c
  | n + 1, c => crcBits f n (crcStep c (f.getLsbD (32 + n)))

/-- CRC-32 over bits [255:32], initial value all ones, complemented (R432). -/
def flitCrc (f : BitVec 256) : BitVec 32 := ~~~(crcBits f 224 0xFFFFFFFF#32)

/-! ### Flits and link control (R433) -/

def State.port (s : State) (p : Nat) : LeashPort := s.ports.getD p {}
def State.setPort (s : State) (p : Nat) (x : LeashPort) : State := { s with ports := Tab.set s.ports p x }

/-- Link-control content is sent by a port, and again until it is acknowledged (R433; log entry 31). -/
def State.control (s : State) (port : Nat) (c : LinkControl) : State :=
  (s.setPort port { s.port port with ctl := some c }).emit (.linkCtl port c)

/-- The content that stands is repeated. -/
def State.repeatControl (s : State) (port : Nat) : State :=
  match (s.port port).ctl with
  | some c => s.emit (.linkCtl port c)
  | none => s

/-- A flit of a packet for another chip leaves by that chip's entry; a packet is refused where its entry names a down port, or
absent (R434). -/
def State.cross (s : State) (chip vc : Nat) (head : Bool) (pay : BitVec 208) : State :=
  match s.portTo chip with
  | some q => (s.setPort q ((s.port q).push vc s.time 1)).emit (.transit q vc head pay)
  | none => if head then s.emit (.refusedTransit chip vc) else s

/-- A flit is received: one with a bad CRC, or out of sequence, is dropped, and a replay is asked for; a good one is accepted
and acknowledged, and its packet is kept here or crosses to the chip its head names. Idle and link-control flits carry no
payload. -/
def execFlitReceive (port : Nat) (flit : BitVec 256) (s : State) : Host.Outcome State Fault Refusal :=
  event "FLIT_RECEIVE" (
    let p := s.port port
    let kind := flit.extractLsb' 34 2
    if 4 ≤ port ∨ !p.up then none
    else if flit.extractLsb' 0 32 ≠ flitCrc flit then some (s.control port (.replay p.rxSeq))
    else if kind = 0#2 ∨ kind = 3#2 then some (s.repeatControl port)
    else if (flit.extractLsb' 38 10).toNat ≠ p.rxSeq then some (s.control port (.replay p.rxSeq))
    else
      let seq := (p.rxSeq + 1) % 1024
      let vc := (flit.extractLsb' 36 2).toNat
      let head := kind == 1#2
      let pay := flit.extractLsb' 48 208
      let chip := if head then Config.packetChip pay else p.toward.getD vc s.ownChip
      let p1 := { p with rxSeq := seq, toward := Tab.set p.toward vc chip }
      let s1 := if s.routing.getD chip 7 = 4 then s.setPort port { p1 with rx := p.rx ++ [(vc, head, pay)] }
        else (s.setPort port p1).cross chip vc head pay
      some (s1.control port (.ack seq)))

/-- Flits that wait enter the replay buffer as it empties. -/
def LeashPort.refill (p : LeashPort) (now : Word) : LeashPort :=
  let n := 512 - p.replay.length
  (p.waiting.take n).foldl (fun p vc => p.push vc now 1) { p with waiting := p.waiting.drop n }

/-- The flits before a sequence number leave the replay buffer; those among them that were replayed count as transient errors
(R433). -/
def State.acknowledge (s : State) (port next : Nat) : Option State :=
  let p := s.port port
  match p.replay.findIdx? fun f => f.1 == next with
  | some i =>
    let again := ((p.replay.take i).filter fun f => decide (0 < f.2.2)).length
    let s := s.setPort port (({ p with replay := p.replay.drop i, heard := s.time } : LeashPort).refill s.time)
    some ((List.range again).foldl (fun s _ => s.count (6 + port)) s)
  | none =>
    if p.txSeq ≠ next then none else
    let again := (p.replay.filter fun f => decide (0 < f.2.2)).length
    let s := s.setPort port (({ p with replay := [], heard := s.time } : LeashPort).refill s.time)
    some ((List.range again).foldl (fun s _ => s.count (6 + port)) s)

/-- A replay from a sequence number: the flits from it on are sent again; one replayed 8 times already takes the link down. -/
def State.replay (s : State) (port seq : Nat) : Option State :=
  let p := s.port port
  match p.replay.findIdx? fun f => f.1 == seq with
  | none => none
  | some i =>
    if (p.replay.drop i).any fun f => decide (8 ≤ f.2.2) then some (s.linkDown port)
    else some (s.setPort port { p with replay := p.replay.take i ++ (p.replay.drop i).map fun f => (f.1, f.2.1, f.2.2 + 1) })

/-- A link-control flit of the neighbour acknowledges an acknowledgement and an announcement; a replay that was asked for stands
until its flit arrives (R433; log entry 31). -/
def State.settleControl (s : State) (port : Nat) : State :=
  match (s.port port).ctl with
  | some (.ack _) | some (.announce _) => s.setPort port { s.port port with ctl := none }
  | _ => s

def execLinkControlReceive (port : Nat) (ctl : LinkControl) (s : State) : Host.Outcome State Fault Refusal :=
  event "LINK_CONTROL_RECEIVE" (
    if 4 ≤ port ∨ !(s.port port).up then none else
    let s := s.settleControl port
    match ctl with
    | .ack next => s.acknowledge port next
    | .replay seq => s.replay port seq
    -- Of a neighbour that has not seen this side's number yet: the number is known from training (R431).
    | .announce _ => some s)

/-- 10 µs with flits outstanding and no acknowledgement (R433). -/
def execLinkAckTimeout (port : Nat) (s : State) : Host.Outcome State Fault Refusal :=
  event "LINK_ACK_TIMEOUT" (
    let p := s.port port
    if !p.up ∨ p.replay.isEmpty ∨ (s.time - p.heard).toNat < 10000 then none else some (s.linkDown port))

/-! ### Training (R431) -/

/-- A port has trained: each side has announced its number in a link-control flit. The port comes up when the neighbour's names a
chip whose routing entry is the port, and posts a mismatch otherwise. A table without exactly one own number trains no port. -/
def State.train (s : State) (port announced : Nat) : State :=
  let s := s.emit (.linkCtl port (.announce s.ownChip))
  let note := fun (s : State) (sub : Byte) =>
    s.postFault { kind := 6, sub := sub, arg := BitVec.ofNat 16 port, ctx := 0, addr := 0, info := Word.ofNat (announced % 16) }
  if announced < 16 ∧ s.routing.getD announced 7 = port then
    note (s.setPort port { s.port port with up := true, neighbour := some announced, txSeq := 0, replay := [], waiting := [],
                                            rxSeq := 0, toward := [], ctl := some (.announce s.ownChip), heard := s.time }) 2
  else note (s.setPort port { s.port port with neighbour := some announced }) 3

/-- The table names the chip's own number exactly once (R431). -/
def State.knowsItself (s : State) : Bool := ((List.range 16).filter fun n => s.routing.getD n 7 == 4).length == 1

def execLinkTrainingComplete (port announced : Nat) (s : State) : Host.Outcome State Fault Refusal :=
  event "LINK_TRAINING_COMPLETE" (
    let p := s.port port
    if 4 ≤ port ∨ p.up ∨ p.fenced ∨ !s.knowsItself then none else some (s.train port announced))

def execLinkTrainingLost (port : Nat) (s : State) : Host.Outcome State Fault Refusal :=
  event "LINK_TRAINING_LOST" (if 4 ≤ port ∨ !(s.port port).up then none else some (s.linkDown port))

end Sys2Proof.Machine
end

