-- ==== Sys2Proof/Machine/EvHost.lean ====
section
/-! DEFINITION. Events of the host interface and of the management registers (15 R426-R430, 17 R476-R486). A register with a
behaviour of its own has it in `State.writeWord`, for the host and for a plinth thread alike. -/

namespace Sys2Proof.Machine

/-! ### BAR2 (R422) -/

/-- A read of BAR2 returns zero: each of its registers is write-only (R422). -/
def bar2Read (_off _size : Nat) : Word := 0

/-! ### Page wakes (R244, R426) -/

/-- The page of a wake: base and size, none for a value with a nonzero reserved bit. -/
def wakePage (v : Word) : Option (Nat × Nat) :=
  if bits v 16 1 ≠ 0 ∨ (v.getLsbD 0 ∧ bits v 24 17 ≠ 0) then none
  else some (v.toNat / 2 ^ 17 * 2 ^ 17, if v.getLsbD 0 then 2 ^ 25 else 2 ^ 17)

/-- The save record `n` of a core of a context becomes eligible: in the core, or in what the plinth has saved of the context
(R170, R383). -/
def State.wakeRecord (s : State) (ctx core n : Nat) : State :=
  match s.ctx ctx with
  | some x =>
    if !x.saved then s.updCore core fun k => k.makeEligible n else
    let i := x.package.place.idxOf core
    s.setCtx ctx { x with package := { x.package with cores := x.package.cores.modify i fun k => k.makeEligible n } }
  | none => s

/-- The threads of a core whose store or line fetch has parked on a page that passes send it again (R122, R244). -/
def Core.resend (k : Core) (here : Word → Bool) (line : Wait → Bool) : Core :=
  let one := fun (t : Thread) =>
    let head := match t.cmpq, t.sb with
      | .store a _ _ _ :: _, _ | [], .store a _ _ _ :: _ => here a
      | _, _ => false
    let fetch := match t.run with
      | .parked w _ _ => line w
      | _ => false
    { t with sbParked := t.sbParked && !head, lineParked := t.lineParked && !fetch }
  { k with slots := Tab.mapV k.slots fun _ t => one t }

/-- Every home agent drops its requests parked on a page, and they reissue (R426). -/
def State.wakePages (s : State) (base size : Nat) : State :=
  let here := fun (a : Word) => decide (base ≤ a.toNat) && decide (a.toNat < base + size)
  let woken := s.reqs.filter fun p => p.2.st == .parked && here p.2.addr
  let meets := fun (k : Nat) => let n := if k % 2 = 1 then 2 ^ 25 else 2 ^ 17
    decide (base < k / 2 * 2 + n) && decide (k / 2 * 2 < base + size)
  let s : State := { s with posted := s.posted.filter fun p => !meets p.2.toNat }
  let s := woken.foldl (fun (s : State) p => match p.2.src with
    | .thread c k | .fetch c k =>
      -- The instruction reissues whole, its rights fill included, unless a request before has had an effect (R124).
      if 16 ≤ k then (s.dropReq p.1).wakeRecord p.2.ctx c (k - 16)
      else ((s.dropReq p.1).updThread c k fun t =>
        if t.entered.isNone ∨ t.replies.isEmpty then { t with filled := [], replies := [] } else t).reissue c k
    | _ => s.setReq p.1 { p.2 with st := .queued }) s
  -- Stores and fetches are sent again; a saved thread that waits for a line of the page may fetch it again (R122, R170, R244).
  let line := fun (x : Ctx) (w : Wait) => match w with
    | .line n => (match region x.tenant (Word.ofNat (64 * n)) with
      | .paged p => here p
      | _ => false)
    | _ => false
  let again := fun (x : Ctx) (k : Core) => (k.resend here (line x)).wakeSaved fun _ w => line x w
  let s : State := { s with cores := Tab.mapV s.cores fun _ k => again ((s.ctx (k.ctx.getD 0)).getD {}) k }
  let s : State := { s with ctxs := Tab.mapV s.ctxs fun _ (x : Ctx) =>
    { x with areaParked := x.areaParked.filter fun a => !meets a.toNat
             package := { x.package with cores := x.package.cores.map (again x) } } }
  let s : State := { s with clusters := Tab.mapV s.clusters fun _ k =>
    { k with ce := { k.ce with copies := k.ce.copies.map fun c => { c with asked := c.asked.filter fun a => !here a.2 } }
             kse := { k.kse with queue := k.kse.queue.map fun c => match c.aside with
        | some a => if here a then { c with aside := some 0 } else c
        | none => c } } }
  let s : State := { s with qs := { s.qs with queues := Tab.mapV s.qs.queues fun _ (x : Queue) => match x.parked with
    | some (p, since, st) => if !here p then x else if x.st = .waitmem then { x with parked := some (0, since, st), pass := max x.pass s.qs.gv } else { x with parked := none }
    | none => x } }
  let s : State := { s with migrations := s.migrations.map fun m => { m with parked := m.parked.filter fun p => !here p } }
  (s.admitQueues 256).viewHeads

def execWake (value : HostWrite) (s : State) : Host.Outcome State Fault Refusal :=
  event "WAKE" (some (if bar2Ignores 0x800 value.size then s else match wakePage value.value with
    | some (b, n) => s.wakePages b n
    | none => s))

/-! ### Read indexes, replies, moderation (R427-R430, R482) -/

def execFqrd (value : HostWrite) (s : State) : Host.Outcome State Fault Refusal :=
  event "FQRD" (some (if bar2Ignores 0x808 value.size then s
    else ({ s with host := { s.host with fqrd := value.value.setWidth 32 } } : State).postFaults s.host.faults.length))

def execMqrd (value : HostWrite) (s : State) : Host.Outcome State Fault Refusal :=
  event "MQRD" (some <| if bar2Ignores 0x810 value.size then s else { s with host := { s.host with mqrd := value.value.setWidth 32 } })

/-- A reply of the mediator, its value and then its status, each ignored unless it is of 64 bits (R422, R430): status 0 brings the
low W bytes of the value that MREPLY t holds; any other status traps with 0x20. -/
def execMreply (tag : Nat) (value status : HostWrite) (s : State) : Host.Outcome State Fault Refusal :=
  event "MREPLY" (
    let s : State := if 256 ≤ tag ∨ bar2Ignores (0x1000 + 16 * tag) value.size then s
      else { s with host := { s.host with mreply := Tab.set s.host.mreply tag value.value } }
    let value := s.host.mreply.getD tag 0
    if tag < 256 ∧ bar2Ignores (0x1008 + 16 * tag) status.size then some s else match s.host.tags.get? tag with
    | none => if tag < 256 then some s else none
    | some m =>
      let s : State := { s with host := { s.host with tags := Tab.erase s.host.tags tag } }
      match s.req m.req with
      | none => some s
      | some r =>
        let wide := match r.acc with
          | .amo _ w _ _ _ _ => w
          | _ => true
        let a : Reply := if status.value = 0 then .val (if wide then value.zeroExtend 512 else (value.setWidth 32).zeroExtend 512) else .err 0x20#8
        (match r.src with
          | .thread c k => some ((s.dropReq m.req).deliverTo c k a)
          | _ => some (s.answered m.req r a)))

def execMsixModerationExpiry (vec : Nat) (s : State) : Host.Outcome State Fault Refusal :=
  event "MSIX_MODERATION_EXPIRY" (
    let mod := if vec = 256 then s.host.fqmod.toNat else s.host.mqmod.toNat
    if !s.host.moderated.contains vec ∨ (s.time - s.host.raised.getD vec 0).toNat < 1000 * mod then none
    else some (({ s with host := { s.host with moderated := NatSet.erase s.host.moderated vec, raised := Tab.set s.host.raised vec s.time } } : State).raise vec))

/-! ### Commands (R481) -/

/-- An address a command takes is canonical, and in the SRAM window only for a PLB invalidation. -/
def commandAddr (sram : Bool) (a : Word) : Bool :=
  decide (windowBase ≤ a.toNat) && (match region 0 a with
    | .paged _ => true
    | .sram _ _ => sram
    | _ => false)

/-- The effect of a command, which then runs until MGMT_COMMAND_COMPLETE. -/
def State.command (s : State) (cmd : Word) : State :=
  let m := s.mgmt
  let stores := match bits cmd 63 56 with
    | 1 => s.buffered fun n => n == bits cmd 7 0
    | 2 => s.buffered fun _ => true
    | _ => []
  let run := fun (s : State) => ({ s with mgmt := { s.mgmt with busy := some cmd, waitsFor := stores } } : State)
  if m.busy.isSome then s else
  match bits cmd 63 56 with
  | 1 =>
    let n := bits cmd 7 0
    if cmd.getLsbD 8 then run (s.plbDrop n none)
    else if commandAddr true m.param then run (s.plbDrop n (some m.param)) else s
  | 2 => if commandAddr false m.param then run (s.scInval m.param) else s
  | 3 => if commandAddr false m.param then run { s with routes := s.routes.filter (· != routeRange m.param) } else s
  | 4 => if m.param.toNat % 16 = 0 then run ((s.write (dramBase + m.param.toNat) 8 m.entry0.toNat).write (dramBase + m.param.toNat + 8) 8 m.entry1.toNat) else s
  | _ => s

def State.commandEvent (s : State) (code : Nat) (cmd : Word) : Option State := if bits cmd 63 56 = code then some (s.inMaquette (s.command cmd)) else none

def execPlbInvalidate (cmd : Word) (s : State) : Host.Outcome State Fault Refusal := event "PLB_INVALIDATE" (s.commandEvent 1 cmd)
def execTranslationInvalidate (cmd : Word) (s : State) : Host.Outcome State Fault Refusal := event "TRANSLATION_INVALIDATE" (s.commandEvent 2 cmd)
def execRouteCacheDrop (cmd : Word) (s : State) : Host.Outcome State Fault Refusal := event "ROUTE_CACHE_DROP" (s.commandEvent 3 cmd)
def execTableWrite (cmd : Word) (s : State) : Host.Outcome State Fault Refusal :=
  event "TABLE_WRITE" (if s.selfRefresh ∧ s.boot.phase ≠ .maquette then s.dramExit? none else s.commandEvent 4 cmd)

/-- The running command completes: an invalidation once the stores checked before it have left their buffers (R237). -/
def execMgmtCommandComplete (s : State) : Host.Outcome State Fault Refusal :=
  event "MGMT_COMMAND_COMPLETE" (match s.mgmt.busy with
    | none => none
    | some cmd =>
      if s.undrained s.mgmt.waitsFor ∨ (bits cmd 63 56 = 2 ∧ s.selfRefresh ∧ s.dramExit) then none
      else
        let s := match bits cmd 63 56 with
          | 1 => s.emptyBufs fun n => n == bits cmd 7 0
          | 2 => s.emptyBufs fun _ => true
          | _ => s
        some { s with mgmt := { s.mgmt with busy := none, waitsFor := [] } })

/-! ### The two queues (R482) -/

/-- The log a write leaves: 0 always, another only while the queue is disabled; out of range is stored as 0. -/
def nextLog (old lo hi v : Nat) : Nat := if v = 0 then 0 else if old ≠ 0 then old else if lo ≤ v ∧ v ≤ hi then v else 0

def State.setFqlog (s : State) (v : Word) : State :=
  let h := s.host
  let n := nextLog h.fqlog 6 16 (bits v 4 0)
  let h := if h.fqlog = 0 ∧ n ≠ 0 then { h with fqwr := 0, fqrd := 0 } else h
  ({ s with host := { h with fqlog := n } } : State).postFaults h.faults.length

def State.setMqlog (s : State) (v : Word) : State :=
  let h := s.host
  let n := nextLog h.mqlog 4 12 (bits v 4 0)
  let h := if h.mqlog = 0 ∧ n ≠ 0 then { h with mqwr := 0, mqrd := 0 } else h
  { s with host := { h with mqlog := n, meden := v.getLsbD 8 } }

def execFqlog (value : Word) (s : State) : Host.Outcome State Fault Refusal := event "FQLOG" (some (s.inMaquette (s.setFqlog value)))
def execMqlog (value : Word) (s : State) : Host.Outcome State Fault Refusal := event "MQLOG" (some (s.inMaquette (s.setMqlog value)))

/-! ### The memory window (R476, R482) -/

/-- An access within the window, of 1, 2, 4 or 8 bytes (R482). -/
def winSpan (off size : Nat) : Bool :=
  decide (0x100000 ≤ off) && decide (off < 0x2000000) && (size == 1 || size == 2 || size == 4 || size == 8)

/-- An access of the window that the spec allows: one at its natural alignment (R482). -/
def winAccess (off size : Nat) : Bool := winSpan off size && off % size == 0

def State.winSealed (s : State) : Bool := ((s.ctx s.host.winctx).getD {}).sealed

/-- The address of an access through the window must be walked for. -/
def State.winWalks (s : State) (off : Nat) : Bool :=
  match s.ctx s.host.winctx with
  | some x => (match region x.tenant (s.host.winbase + Word.ofNat (off - 0x100000)) with
    | .paged p => s.walks p false
    | _ => false)
  | none => false

/-- The access, or its walk, waits for the DRAM (R394). -/
def State.winExits (s : State) (walk : Bool) (p : WinPlace) (k : Option State) : Option State :=
  match p with
  | .die d => if walk ∨ dramBase ≤ d then s.dramExit? k else k
  | _ => if walk then s.dramExit? k else k

def allOnes (size : Nat) : Word := BitVec.ofNat 64 (2 ^ (8 * size) - 1)

def execMemoryWindowRead (off size : Nat) (ext : Option ExtReply) (s : State) : Host.Outcome State Fault Refusal :=
  event "MEMORY_WINDOW_READ" (
    if !winSpan off size then none else
    let done := fun (s : State) (v : Word) => some (s.emit (.readDone off size v))
    let failed := fun (s : State) => done (s.count 10) (allOnes size)
    -- The window does not respond in maquette mode (R473).
    if s.winSealed ∨ s.boot.phase = .maquette then done s 0 else
    -- A misaligned access is not performed (log entry 18).
    if off % size ≠ 0 then failed s else
    let walk := s.winWalks off
    let (p, s) := s.winPlace off
    s.winExits walk p (match p, ext with
      | .die d, _ => if s.fencedAt d then failed s else done s (BitVec.ofNat 64 (s.read d size))
      | .out t, ext =>
        if !s.reaches t then failed s else
        ext.map fun e =>
          let s := s.readOutside s.host.winctx ((s.winFar off).getD 0) size t
          match e with
          | .data l => s.emit (.readDone off size ((ofBytes l).setWidth 64 &&& allOnes size))
          | .err _ => (s.count 10).emit (.readDone off size (allOnes size))
      | .nowhere, _ => failed s))

/-- The enabled bytes of a store through the window, of the host or of a plinth thread, go where the window leads (R478, R482);
bytes before the context's first launch are measured (R477). -/
def State.winStore (s : State) (off : Nat) (d : Vec) (en : BitVec 64) : Option State :=
  if s.winSealed then some s else
  let note := fun (s : State) => s.updCtx s.host.winctx fun x =>
    if x.launched = 0 then { x with loaded := x.loaded ++ (runsOf d en).flatMap fun r => r.2 } else x
  let walk := s.winWalks off
  let (p, s) := s.winPlace off
  s.winExits walk p (match p with
    | .die q => if s.fencedAt q then some (s.count 10) else some (note (s.writeEn q d en))
    | .out (.host h) => some ((runsOf d en).foldl (fun s r => s.emit (.hostWrite (h + r.1) r.2 false)) (note s))
    | .out (.chip c a) =>
      if (s.portTo c).isNone then some (s.count 10)
      else some ((note s).emit (.fabric c 0 (.access s.nextReq (Word.ofNat a) (.write d en))))
    | _ => some (s.count 10))

def execMemoryWindowWrite (off size : Nat) (value : Word) (s : State) : Host.Outcome State Fault Refusal :=
  event "MEMORY_WINDOW_WRITE" (
    if !winSpan off size then none
    else if s.boot.phase = .maquette then some s
    else if off % size ≠ 0 ∧ !s.winSealed then some (s.count 10)
    else s.winStore off (value.zeroExtend 512) (Exec.firstBytes size))

/-- A host's 32-bit read of the low half of an account (R480). -/
def execEnergyAccountLowRead (ctx : Nat) (s : State) : Host.Outcome State Fault Refusal :=
  event "ENERGY_ACCOUNT_LOW_READ" (
    if 256 ≤ ctx then none else
    let off := 0x8000 + 8 * ctx
    some ((s.latchEnergy off 4).emit (.readDone off 4 (s.regRead false off 4))))

/-! ### The flash port (R468, R485) -/

/-- CRC-32 of R432 over bytes, most significant bit first. -/
def crcBytes (l : List Byte) : BitVec 32 :=
  ~~~((l.flatMap fun b => (List.range 8).map fun i => b.getLsbD (7 - i)).foldl crcStep 0xFFFFFFFF#32)

def State.flashBytes (s : State) (a n : Nat) : List Byte := (List.range n).map fun i => s.flashByte (a + i)

/-- The slot a marker record names, when it is valid (R471). -/
def State.marker (s : State) (a : Nat) : Option Bool :=
  let b := s.flashByte (a + 4)
  let zero := (s.flashBytes (a + 5) 0x1F7).all fun x => x == 0#8
  if s.flashWord a = 0x4C4D534D ∧ zero ∧ (b = 0#8 ∨ b = 1#8) ∧ BitVec.ofNat 32 (s.flashWord (a + 0x1FC)) = crcBytes (s.flashBytes a 0x1FC)
  then some (b == 1#8) else none

/-- The active slot: the primary's, else the secondary's, else A (R472). -/
def State.activeB (s : State) : Bool := ((s.marker 0x10000) <|> (s.marker 0x10200)).getD false

/-- A range of the flash that the host may not write (R468). -/
def State.flashDenied (s : State) (a n : Nat) : Bool :=
  let meets := fun (b m : Nat) => decide (a < b + m) && decide (b < a + n)
  meets 0 0x10404 || (s.boot.phase != .maquette &&
    (if s.activeB then meets 0x1000000 0xF00000 else meets 0x100000 0xF00000))

/-- A write of FOP (R485): one that finds an operation running is ignored. -/
def State.flashOp (s : State) (op : Nat) : State :=
  let m := s.mgmt
  if m.fbusy then s else
  let at_ := fun (n : Nat) => m.faddr / n * n
  let end_ := fun (s : State) (denied : Bool) => ({ s with mgmt := { s.mgmt with fbusy := true, denied := denied } } : State)
  match op with
  | 0 => end_ { s with mgmt := { m with fbuf := Mem.writeBytes m.fbuf 0 (s.flashBytes (at_ 256) 256) } } false
  | 1 => if s.flashDenied (at_ 256) 256 then end_ s true else end_ (s.setFlash (at_ 256) (Mem.bytes m.fbuf 0 256)) false
  | 2 =>
    if s.flashDenied (at_ 65536) 65536 then end_ s true
    else end_ { s with boot := { s.boot with flash := s.boot.flash.filter fun c => decide (c.1 < at_ 65536) || decide (at_ 65536 + 65536 ≤ c.1) } } false
  | _ => s

def execFlashRead (s : State) : Host.Outcome State Fault Refusal := event "FLASH_READ" (some (s.flashOp 0))
def execFlashProg (s : State) : Host.Outcome State Fault Refusal := event "FLASH_PROG" (some (s.flashOp 1))
def execFlashErase (s : State) : Host.Outcome State Fault Refusal := event "FLASH_ERASE" (some (s.flashOp 2))
def execFlashOpComplete (s : State) : Host.Outcome State Fault Refusal :=
  event "FLASH_OP_COMPLETE" (if s.mgmt.fbusy then some { s with mgmt := { s.mgmt with fbusy := false } } else none)

/-! ### Attestation (R477, R486) -/

def State.attestStart (s : State) : State :=
  if s.mgmt.abusy then s
  else if s.mgmt.actx ≠ 0 ∧ !s.live s.mgmt.actx then { s with mgmt := { s.mgmt with aerr := true } }
  else { s with mgmt := { s.mgmt with aerr := false, abusy := true } }

def execAttestGo (s : State) : Host.Outcome State Fault Refusal := event "ATTEST_GO" (some (s.inMaquette s.attestStart))

/-- The report without its signature: bytes 0x00 to 0xD7 (R477). -/
def State.reportBody (s : State) : List Byte :=
  let n := s.mgmt.actx
  let x := (s.ctx n).getD {}
  let cmeas : BitVec 384 := if n = 0 then 0 else Config.sha384 x.loaded
  wordBytes (s.reg false 0 &&& ~~~0xFFFFFFFF#64) ++ wordBytes (Config.uidOf Config.uniqueSecret)
    ++ leBytes 48 s.boot.meas0.toNat ++ leBytes 48 s.boot.meas1.toNat ++ leBytes 48 cmeas.toNat
    ++ wordBytes (fields [((s.boot.phase == .maquette).toNat, 1), ((n != 0 && x.sealed).toNat, 0)])
    ++ leBytes 48 s.mgmt.anonce.toNat

def execAttestReportDone (s : State) : Host.Outcome State Fault Refusal :=
  event "ATTEST_REPORT_DONE" (
    if !s.mgmt.abusy then none else
    let body := s.reportBody
    let l := body ++ leBytes 96 (Config.signature (Config.deviceKey Config.uniqueSecret) (Config.sha384 body)).toNat
    some { s with mgmt := { s.mgmt with abusy := false, arep := Mem.writeBytes [] 0 l } })

/-! ### BOOTCTL and reset (R469, R473, R479) -/

/-- The device is reset: the flash and the reason codes stay, time starts at zero (R25), and the start begins at step 1. -/
def State.deviceReset (s : State) : State :=
  { State.reset with
    agenda := s.agenda, freeCtr := s.freeCtr, out := s.out,
    boot := { phase := .rom, flash := s.boot.flash, reasons := s.boot.reasons } }

/-- A step of the start fails with a reason code (R469). -/
def State.failStart (s : State) (reason : Nat) : State :=
  ({ s with boot := { s.boot with reasons := (s.boot.reasons <<< 8) ||| BitVec.ofNat 24 reason } } : State).deviceReset

def State.bootControl (s : State) (v : Word) : State :=
  if bits v 63 48 ≠ 0xC0DE then s else
  let s := if v.getLsbD 1 then s.setBootcnt 0 else s
  if v.getLsbD 0 then s.deviceReset else s

def execBootctl (value : Word) (s : State) : Host.Outcome State Fault Refusal := event "BOOTCTL" (some (s.bootControl value))

/-! ### The debugger (R380, R483) -/

/-- The undecided TYPE 1 records of a context. -/
def Ctx.debugRecords (x : Ctx) : List (Nat × TrapRec) := x.recs.filter fun r => r.2.type == 1 && !r.2.dec && r.2.thread

/-- A TYPE 1 record is decided as a resume, as eresume does it (R375, R483). -/
def State.debugResumeRec (s : State) (n : Nat) (p : Nat × TrapRec) : State := s.withPackage n fun s =>
  match s.ctx n with
  | none => s
  | some x => match s.recordAddr x p.1 with
    | some a => ((s.markDecided n p.1).resumeTagged p.2.core p.2.slot a).freeRecord n p.1
    | none => (s.markDecided n p.1).freeRecord n p.1

/-- Change every thread of a core: resident, saved, or in its inbox on its way from another core (R225). -/
def Core.mapThreads (c : Core) (f : Thread → Thread) : Core :=
  let item := fun (i : InboxItem) => match i with
    | .roamer t => InboxItem.roamer (f t)
    | i => i
  { c with
    slots := Tab.mapV c.slots (fun _ t => f t), saved := Tab.mapV c.saved (fun _ v => { v with th := f v.th }), inbox := c.inbox.map item
    evictWhy := match c.evictWhy with
      | .record i => .record (item i)
      | w => w }

/-- Change every thread of a context, on its cores or in what the plinth has saved of it (R383). -/
def State.mapThreads (s : State) (n : Nat) (f : Thread → Thread) : State :=
  ({ s with cores := Tab.mapV s.cores fun _ c => if c.ctx = some n then c.mapThreads f else c } : State).updCtx n fun x =>
    { x with package := { x.package with cores := x.package.cores.map fun c => c.mapThreads f } }

/-- A debugger is detached (R483): step mode ends, and each undecided TYPE 1 record is decided as a resume; a stopped thread
that has no record goes on. -/
def State.detachDebugger (s : State) : State :=
  let n := s.mgmt.dbgCtx
  if !s.mgmt.attach then s else
  let stopped := fun (s : State) (p : Nat × Nat) => match s.tagged p.1 p.2 with
    | some t => (match t.run with
      | .stopped _ none => true
      | _ => false)
    | none => false
  let s := ((s.ctx n).getD {}).debugRecords.foldl (fun (s : State) p => s.debugResumeRec n p) s
  let s := s.withPackage n fun s => s.updCtx n fun x => { x with waiting := x.waiting.filter fun p => !stopped s p }
  let s := s.mapThreads n fun t => { t with step := false, stopDue := none, run := match t.run with
    | .stopped _ none => .ready
    | r => r }
  { s with mgmt := { s.mgmt with attach := false } }

def State.attachDebugger (s : State) (v : Word) : State :=
  let n := bits v 7 0
  let s := if s.mgmt.attach && v.getLsbD 8 && n == s.mgmt.dbgCtx then s else s.detachDebugger
  let ok := v.getLsbD 8 && s.live n && !((s.ctx n).getD {}).sealed
  { s with mgmt := { s.mgmt with dbgCtx := n, attach := ok } }

def execDebugAttachSelect (value : Word) (s : State) : Host.Outcome State Fault Refusal :=
  event "DEBUG_ATTACH_SELECT" (some (s.inMaquette (s.attachDebugger value)))

def State.setStepMode (s : State) (v : Word) : State :=
  if !s.mgmt.attach then s else
  s.mapThreads s.mgmt.dbgCtx fun t =>
    if v.getLsbD 1 ∨ t.tid.toNat = bits v 63 32 then { t with step := v.getLsbD 0 } else t

def execDebugStepMode (value : Word) (s : State) : Host.Outcome State Fault Refusal := event "DEBUG_STEP_MODE" (some (s.inMaquette (s.setStepMode value)))

/-- The record a decision names (R483). -/
def State.debugRecord (s : State) (v : Word) : Option (Nat × TrapRec) :=
  match if s.mgmt.attach then s.ctx s.mgmt.dbgCtx else none with
  | some x => (x.recordAt (v &&& ~~~0x1FF#64)).filter fun p => p.2.type == 1 && !p.2.dec && p.2.thread
  | none => none

def State.dbgOk (s : State) (ok : Bool) : State := { s with mgmt := { s.mgmt with dbgOk := ok } }

/-- A TYPE 1 record is decided as a kill, as ekill does it: at once, and BUSY reads 1 until the thread's count is zero and it has
ended (R375, R483). -/
def State.debugKillRec (s : State) (n : Nat) (p : Nat × TrapRec) : State :=
  let s := s.markDecided n p.1
  ({ s with mgmt := { s.mgmt with dbgOk := true, dbgKill := s.mgmt.dbgKill ++ [(n, p.1)] } } : State).withPackage n fun s =>
    s.debugKillEnds (n, p.1)

def execDebugResume (value : Word) (s : State) : Host.Outcome State Fault Refusal :=
  event "DEBUG_RESUME" (if bits value 1 0 ≠ 1 then none else some (s.inMaquette (match s.debugRecord value with
    | some p => (s.debugResumeRec s.mgmt.dbgCtx p).dbgOk true
    | none => s.dbgOk false)))

def execDebugKill (value : Word) (s : State) : Host.Outcome State Fault Refusal :=
  event "DEBUG_KILL" (if bits value 1 0 ≠ 2 then none else some (s.inMaquette (match s.debugRecord value with
    | some p => s.debugKillRec s.mgmt.dbgCtx p
    | none => s.dbgOk false)))

/-! ### Register writes (R478) -/

/-- A write of a whole word of the registers, with the behaviour the register has. -/
def State.writeWord (s : State) (plinth : Bool) (off : Nat) (v : Word) : State :=
  if s.boot.phase = .maquette ∧ ¬ (off < 0x1000 ∨ (0x40000 ≤ off ∧ off < 0x40200)) then s
  else if off = 0x18 then s.bootControl v
  else if off = 0x1008 then s.setFqlog v
  else if off = 0x1018 then s.setMqlog v
  else if off = 0x4000 then s.command v
  else if off = 0x10000 then s.attachDebugger v
  else if off = 0x10008 then s.setStepMode v
  else if off = 0x10010 then match bits v 1 0, s.debugRecord v with
    | 1, some p => (s.debugResumeRec s.mgmt.dbgCtx p).dbgOk true
    | 2, some p => s.debugKillRec s.mgmt.dbgCtx p
    | 1, none | 2, none => s.dbgOk false
    | _, _ => s
  else if off = 0x30040 then if v.getLsbD 0 then s.attestStart else s
  else if off = 0x40008 then s.flashOp (bits v 1 0)
  else if 0x20100 ≤ off ∧ off < 0x20500 then s.writeTrigger ((off - 0x20100) / 64) ((off - 0x20100) % 64 / 8) v
  else s.setReg plinth off v

/-- A store of the plinth into the memory window waits for the DRAM (R394). -/
def State.windowSleeps (s : State) (off : Nat) : Bool :=
  s.selfRefresh && inMemWindow off && !s.winSealed && match (s.winPlace off).1 with
    | .die d => decide (dramBase ≤ d)
    | _ => false

/-- A write of 1, 2, 4 or 8 aligned bytes of a register that only stores its fields (R478). -/
def execRegisterWrite (plinth : Bool) (off size : Nat) (value : Word) (s : State) : Host.Outcome State Fault Refusal :=
  event "REGISTER_WRITE" (
    if !(size == 1 || size == 2 || size == 4 || size == 8) ∨ off % size ≠ 0 ∨ regActs (off / 8 * 8) then none
    else some (s.setReg plinth (off / 8 * 8) (s.mergeReg plinth off size value)))

end Sys2Proof.Machine
end

