-- ==== Sys2Proof/Machine/EvBoot.lean ====
section
/-! DEFINITION. Events of the start, of contexts and of the supply (17 R468-R475, R487-R491; 08 R228-R234; 13 R402). -/

namespace Sys2Proof.Machine

/-! ### The boot ROM (R469 steps 1 to 5, R470, R472) -/

/-- The contents of the armature table are in range (R470). -/
def armatureOk (a : Armature) : Bool :=
  decide (2 ≤ a.width) && decide (a.width ≤ 8) && decide (a.ranks.length = 66) && decide a.ranks.Nodup && a.ranks.all (· ≤ 65)

/-- MEAS0 is the digest of the armature table (R468, R469). -/
def State.measTable (s : State) : BitVec 384 := Config.sha384 (s.flashBytes 0 0x10000)

/-- MEAS1 is the digest of the image used, that is of its slot (R468, R469; log entry 51). -/
def State.measImage (s : State) (slotB : Bool) : BitVec 384 :=
  Config.sha384 (s.flashBytes (if slotB then 0x1000000 else 0x100000) 0xF00000)

/-- The ROM takes steps 1 to 5, on what it finds; the plinth is released at their end, with its watchdog running. -/
def State.romStart (s : State) (rom : RomFinding) : State :=
  if 3 ≤ s.bootcnt then { s with boot := { s.boot with phase := .maquette } } else
  let s := s.setBootcnt (s.bootcnt + 1)
  if !rom.fuses then s.failStart 7
  else if !rom.armatureSig then s.failStart 1
  else if !armatureOk rom.armature then s.failStart 6
  else
    let b := s.activeB
    let ok := fun (x : Bool) => if x then rom.imageB else rom.imageA
    if !ok b && !ok (!b) then s.failStart 2 else
    let used := if ok b then b else !b
    { s with boot := { s.boot with
        phase := .plinth, wdog := s.time, slotB := used, armature := rom.armature,
        meas0 := s.measTable, meas1 := s.measImage used } }

def execPowerOnReset (rom : RomFinding) (s : State) : Host.Outcome State Fault Refusal :=
  event "POWER_ON_RESET" (if s.boot.phase = .held ∨ s.boot.phase = .rom then some (s.romStart rom) else none)

/-! ### The plinth (R469 steps 6 and 7) -/

/-- The tables the plinth loads at step 6: routes (R434), the root of device-private memory, QTBASE, DUMPBASE; and what the host
set in the configuration space of its link (R271). -/
def State.loadTables (s : State) (t : BringUp) : State :=
  { s with
    routing := ((List.range 16).zip t.routes).foldl (fun (r : Tab Nat) p => Tab.set r p.1 (if p.2 ≤ 4 then p.2 else 7)) []
    roots := match t.droot with
      | some w => Tab.set s.roots 256 w
      | none => s.roots
    qs := { s.qs with qtbase := t.qtbase }
    heel := { s.heel with dumpbase := t.dumpbase }
    host := { s.host with atomicEnable := t.atomicEnable } }

/-- A port is trained: it learns the chip beyond it, or is fenced as a lasting error (R431, R412). -/
def State.trainPort (s : State) (p : Nat × Option Nat) : State :=
  if !s.knowsItself then s else
  match p.2 with
  | some c => s.train p.1 c
  | none => s.fenceUnit ⟨.port p.1, false, true⟩

def execPlinthBringup (trained : BringUp) (s : State) : Host.Outcome State Fault Refusal :=
  event "PLINTH_BRINGUP" (
    if s.boot.phase ≠ .plinth then none
    else if !trained.dram then some (s.failStart 3)
    else if !trained.host then some (s.failStart 4)
    else
      let s := ((List.range 4).zip trained.ports).foldl (fun (s : State) p => s.trainPort p) (s.loadTables trained)
      let s := s.setBootcnt 0
      some { s with boot := { s.boot with phase := .done } })

/-- 2 s from step 5, or from the last write of pwdog, without step 7 (R469, R487). -/
def execPlinthWatchdogExpiry (s : State) : Host.Outcome State Fault Refusal :=
  event "PLINTH_WATCHDOG_EXPIRY" (
    if s.boot.phase = .plinth ∧ 2000000000 ≤ (s.time - s.boot.wdog).toNat then some (s.failStart 5) else none)

/-! ### The marker and power loss (R471, R472, R488) -/

/-- A marker record of 512 bytes (R471). -/
def markerRecord (slotB : Bool) : List Byte :=
  let body := leBytes 4 0x4C4D534D ++ [if slotB then 1#8 else 0#8] ++ List.replicate 0x1F7 0#8
  body ++ leBytes 4 (crcBytes body).toNat

/-- Every rail but the flash's contents is lost: the device is held in reset (R488). Time starts at zero again (R490). -/
def State.losePower (s : State) : State :=
  let s := s.deviceReset
  { s with boot := { s.boot with phase := .held } }

def execPowerLoss (s : State) : Host.Outcome State Fault Refusal := event "POWER_LOSS" (some s.losePower)

/-- The plinth writes the primary record in full and then the secondary; `written` bytes of the two are written before power
fails, or all 1,024. -/
def execMarkerFlip (slotB : Bool) (written : Nat) (s : State) : Host.Outcome State Fault Refusal :=
  event "MARKER_FLIP" (
    if s.boot.phase ≠ .done ∨ 1024 < written then none else
    let r := markerRecord slotB
    let s := s.setFlash 0x10000 ((r ++ r).take written)
    some (if written < 1024 then s.losePower else s))

/-! ### Contexts (R161, R190, R228-R234, R238, R296, R341, R367, R439, R491) -/

/-- The cores of a new context: free ones, of one island that runs, outside the plinth column. -/
def State.coresFree (s : State) (l : List Nat) : Bool :=
  let island := islandOf (l.headD 0)
  !l.isEmpty && decide l.Nodup && (s.island island).st == .active
    && l.all fun c => decide (c < 528) && islandOf c == island && !s.isPlinth c && !(s.core c).fenced && (s.core c).ctx.isNone

/-- The slices of a new context (R228). -/
def State.slicesFree (s : State) (n island : Nat) (l : List Nat) : Bool :=
  !l.isEmpty && decide (l.length ≤ 146) && decide l.Nodup && l.all fun k => s.sliceFree n island k

/-- The trap settings are in range (R367). -/
def settingsOk (p : CtxSpec) : Bool :=
  decide (4 ≤ p.trlog) && decide (p.trlog ≤ 12) && decide (p.hprio ≤ 15)
    && p.hset.all (fun v => decide (v < p.place.cores.length))
    && (p.hwdt == 0 || (decide (1000000 ≤ p.hwdt) && decide (p.hwdt ≤ 60000000000)))
    && decide (p.trbase.toNat % 4096 = 0) && decide (privateBase ≤ p.trbase.toNat) && decide (p.trbase.toNat < privateBase + 2 ^ 47)

/-- The owner of each tile: cluster, tile, core. By default the core at position c of its cluster owns a(2c) and a(2c + 1)
(R296). -/
def tileMapOf (p : CtxSpec) : List (Nat × Nat × Nat) :=
  p.tiles.getD (p.place.cores.flatMap fun c => [(clusterOf c, 2 * (c % 8), c), (clusterOf c, 2 * (c % 8) + 1, c)])

/-- Tiles go to cores of their cluster, bank entries to clusters with a core of the context, and none has an owner. -/
def State.unitsFree (s : State) (p : CtxSpec) : Bool :=
  decide ((tileMapOf p).map fun t => (t.1, t.2.1)).Nodup && decide p.bank.Nodup
    && (tileMapOf p).all (fun t => decide (t.2.1 < 16) && p.place.cores.contains t.2.2 && clusterOf t.2.2 == t.1
        && ((s.cluster t.1).me.owner.get? t.2.1).isNone)
    && p.bank.all (fun b => decide (b.2 < 32) && p.place.cores.any (fun c => clusterOf c == b.1)
        && ((s.cluster b.1).kse.bank.get? b.2).isNone)

/-- The frames of a new context belong to the device until now, and lie in local DRAM (R1, R475). -/
def State.framesFree (s : State) (p : CtxSpec) : Bool :=
  decide p.frames.Nodup && p.frames.all fun f => decide ((f + 1) * 2 ^ 17 ≤ 256000000000) && (s.keyIndex.get? f).isNone

def State.specOk (s : State) (p : CtxSpec) : Bool :=
  decide (1 ≤ p.num) && decide (p.num ≤ 255) && (s.ctx p.num).isNone && decide (p.tenant < 256)
    && s.coresFree p.place.cores && s.slicesFree p.num (islandOf (p.place.cores.headD 0)) p.place.slices
    && settingsOk p && s.unitsFree p && p.granules.all (fun g => decide (g.1 < 16 * p.place.slices.length))
    && p.rights.all (fun r => decide (r.1 < 65536)) && s.framesFree p && p.handlers.all (fun h => decide (h.1 < 4096) && bits h.2.2 7 0 == p.num)

/-- An entry of the handler table from its two words (R439). -/
def handlerOf (w0 w1 : Word) : Handler :=
  { hpc := w0, en := w1.getLsbD 63, srcm := w1.extractLsb' 32 16, vca := bits w1 31 16, sd := w1.extractLsb' 14 2,
    pmax := bits w1 11 8, ctx := bits w1 7 0 }

/-- The context a specification describes, before its owner map. -/
def specCtx (p : CtxSpec) : Ctx :=
  { tenant := p.tenant, sealed := p.sealedCtx, cores := p.place.cores, slices := p.place.slices,
    granules := p.granules.foldl (fun (t : Tab (BitVec 16)) g => Tab.set t g.1 g.2) []
    rights := p.rights.foldl (fun (t : Tab Byte) r => Tab.set t r.1 (r.2 &&& 0x1F#8)) [], tables := p.tables
    trbase := p.trbase, trlog := p.trlog, hpc := p.hpc, hprio := p.hprio, hset := p.hset, hwdt := p.hwdt,
    preempt := p.preempt, wakeRight := p.wakeRight }

/-- The frames take the key of context `n`, 0 the device's: under a new key a frame's bytes are free values (R475). -/
def State.rekey (s : State) (n : Nat) (frames : List Nat) : State :=
  frames.foldl (fun (s : State) f =>
    let ws := (List.range (2 ^ 14)).map fun i => Config.freeWord (s.freeCtr + i)
    { s with mem := Mem.writeBytes s.mem (dramBase + 2 ^ 17 * f) (ws.flatMap wordBytes), freeCtr := s.freeCtr + 2 ^ 14,
             keyIndex := if n = 0 then Tab.erase s.keyIndex f else Tab.set s.keyIndex f n }) s

/-- The runtime has written the listed domains and rights to the tables it keeps in local DRAM (R233, R234). -/
def State.writeTables (s : State) (p : CtxSpec) : State :=
  match p.tables with
  | none => s
  | some (r, g) =>
    let s := p.rights.foldl (fun (s : State) x => s.write (dramBase + r + x.1) 1 x.2.toNat) s
    p.granules.foldl (fun (s : State) x => s.write (dramBase + g + 2 * x.1) 2 x.2.toNat) s

/-- A context is created: its slices zero and full (R232), its tiles zero with clear latches (R161), its bank entries empty. -/
def State.createContext (s : State) (p : CtxSpec) : State :=
  let x := specCtx p
  let s := s.putSlices p.place.slices [] []
  let s := (s.rekey p.num p.frames).writeTables p
  let s := s.setCtx p.num { x with owners := x.entering }
  -- The line-buffer channels of its clusters are emptied (R335).
  let s := p.place.cores.foldl (fun (s : State) c =>
    (s.updCe (clusterOf c) fun e => { e with bufs := [] }).updCore c fun k => { k.vacated [] with ctx := some p.num }) s
  let s := (tileMapOf p).foldl (fun (s : State) t => s.updMe t.1 fun m =>
    { m with owner := Tab.set m.owner t.2.1 t.2.2, tiles := Tab.erase m.tiles t.2.1, latch := Tab.erase m.latch t.2.1 }) s
  let s := p.bank.foldl (fun (s : State) b => s.updKse b.1 fun k => { k with bank := Tab.set k.bank b.2 { ctx := p.num } }) s
  { s with
    roots := match p.root with
      | some w => Tab.set s.roots p.tenant w
      | none => s.roots
    qs := { s.qs with handlers := p.handlers.foldl (fun (t : Tab Handler) h => Tab.set t h.1 (handlerOf h.2.1 h.2.2)) s.qs.handlers } }

def execContextCreate (spec : CtxSpec) (s : State) : Host.Outcome State Fault Refusal :=
  event "CONTEXT_CREATE" (if s.boot.phase = .done ∧ s.specOk spec then some (s.createContext spec) else none)

/-- A context's frames return to the device, and its key is destroyed (R475). -/
def State.dropKeys (s : State) (n : Nat) : State := s.rekey 0 ((s.keyIndex.filter fun p => p.2 == n).map (·.1))

/-- An engine operation of a context still runs. -/
def State.engineBusy (s : State) (n : Nat) : Bool :=
  s.clusters.any fun k => k.2.me.jobs.any (fun j => j.ctx == n) || k.2.ce.copies.any (fun c => c.ctx == n)
    || k.2.kse.queue.any (fun c => c.ctx == n)

/-- A context ends (R491): its threads end, its queued engine operations go, and what it held is free. Its entry goes once no
started engine operation of it runs. -/
def State.finishContext (s : State) (n : Nat) (x : Ctx) : State :=
  let s := if x.dead then s else
    let s := s.orphanAll x.cores
    let s : State := { s with
      messages := s.messages.filter fun p => !x.cores.contains p.1
      clusters := Tab.mapV s.clusters (fun _ k => k.discard n s.time) }
    s.endContext n
  if s.engineBusy n then s else { s.dropKeys n with ctxs := Tab.erase s.ctxs n }

def execContextEnd (ctx : Nat) (s : State) : Host.Outcome State Fault Refusal :=
  event "CONTEXT_END" (match s.ctx ctx with
    | some x => if ctx = 0 ∨ (x.dead && s.engineBusy ctx) then none else some (s.finishContext ctx x)
    | none => none)

/-! ### In-field tests (R402, R403) -/

/-- The plinth refreshes the curve of a burst cluster, 8 points, or the point of a watch cluster, while no context holds a core
of it; the energy is charged to context 0. -/
def execInFieldTest (cluster : Nat) (curve : List (Nat × Nat)) (s : State) : Host.Outcome State Fault Refusal :=
  event "IN_FIELD_TEST" (
    let ok := if cluster < 64 then decide (curve.length = 8) && curve.all (fun f => decide (500 ≤ f.1) && decide (f.1 ≤ 1200))
      else decide (cluster < 66) && curve.map (·.1) == [400]
    let held := (List.range 8).any fun i => (s.core (8 * cluster + i)).ctx.isSome
    if !ok || held then none else
    let a := s.boot.armature
    let old := a.curves ++ List.replicate (66 - a.curves.length) []
    let s := s.charge 0
    some { s with boot := { s.boot with armature := { a with curves := old.set cluster curve } } })

end Sys2Proof.Machine
end

