-- ==== Sys2Proof/Machine/EvDrain.lean ====
section
/-! DEFINITION. The head entry of a store buffer leaves it (04 R121, R122; 09 R255, R275; 13 R377; R409): a store becomes
visible or is sent, a release marker is used up. -/

namespace Sys2Proof.Machine

/-- A store outside the SRAM window counts as outstanding and takes the next sequence number (R122, R377). -/
def State.countStore (s : State) (core slot : Nat) : State :=
  s.updThread core slot fun t => { t with outst := t.outst + 1, seq := t.seq + 1 }

/-- Record what became of a counted store that has been performed. -/
def State.outcome (s : State) (n : Nat) (o : Option Byte) : State :=
  { s with inflight := Tab.update s.inflight n fun i => { i with outcome := some o } }

/-- A scalar store below an 8-byte boundary lies in the word that holds it. -/
def alignedData (off : Nat) (d : Vec) (en : BitVec 64) : Vec × BitVec 64 := (d <<< (8 * (off % 8)), en <<< (off % 8))

/-- A plinth thread's store of enabled bytes into management space: through the memory window, or into registers word by word (R227,
R478). -/
def State.storeRegs (s : State) (off : Nat) (d : Vec) (en : BitVec 64) : State :=
  if s.boot.phase ≠ .maquette ∧ inMemWindow off then (s.winStore off d en).getD s else
  let (d, en) := alignedData off d en
  (List.range 8).foldl (fun (s : State) i =>
    let e := en.extractLsb' (8 * i) 8
    if e = 0#8 then s else
    let at_ := off / 8 * 8 + 8 * i
    let v := d.extractLsb' (64 * i) 64
    let mask : Word := (List.range 8).foldl (fun (m : Word) k => if e.getLsbD k then m ||| (0xFF#64 <<< (8 * k)) else m) 0
    s.writeWord true at_ ((s.reg true at_ &&& ~~~mask) ||| (v &&& mask))) s

/-- A store that a thread's buffer or a pair's compare queues hold at their head leaves by `pop`: `also` names the other thread of a
pair. None while it stays there. -/
def State.drainStore (s : State) (core slot : Nat) (also : List (Nat × Nat)) (pop : State → State) (a : Word) (d : Vec) (en : BitVec 64)
    (formed : Word) : Option State :=
  let n := s.ctxOf core
  let x := (s.ctx n).getD {}
  match s.thread core slot with
  | none => none
  | some t =>
    -- A counted store, performed or sent: the number it has among the requests is that of the state it is made in.
    let counted := fun (s : State) =>
      let s := s.sendCounted core slot t.seq formed none
      pop (also.foldl (fun (s : State) p => s.countStore p.1 p.2) (s.countStore core slot))
    let done := fun (s : State) (o : Option Byte) => some ((counted s).outcome s.nextReq o)
    let room := decide (t.outst < 65535)
    match region x.tenant a with
    | .sram c o => match x.phys c o with
      | some p => match s.serve p (.write d en) with
        | (.val _, s) => some (pop s)
        | (.err code, s) => some ((pop s).refuseLate core slot code t.seq formed)
      | none => some (pop s)
    | .mgmt off => if !room then none else if s.windowSleeps off then s.dramExit? none else done (s.storeRegs off d en) none
    | .paged p =>
      if !room ∨ t.sbParked then none else s.walkExits p false <|
      let (w, s) := s.translate p
      (match w with
        | .dram q => s.dramExits p (match (s.fillLine p q true).serve q (.write d en) with
          | (.val _, s) => done s none
          | (.err code, s) => done s (some code))
        | .refused m level w0 => done (if m then s.postMalformed p n level w0 else s) (some 0x20#8)
        | .absent =>
          let park := fun (s : State) (c : Nat × Nat) => s.updThread c.1 c.2 fun t => { t with sbParked := true }
          some (((core, slot) :: also).foldl park (s.postPage p n core true false))
        | .host h =>
          let s := (s.updThread core slot fun t => { t with hostWrites := true }).hostStore n p h d en true
          done (also.foldl (fun (s : State) p => s.updThread p.1 p.2 fun t => { t with hostWrites := true }) s) none
        | .chip c q =>
          if (s.portTo c).isNone then done s (some 0x21#8) else
          let k := s.nextReq
          let r : Req := { src := .store core slot t.seq, ctx := n, addr := a, acc := .write d en, st := .sent (some c) }
          some (((counted s).setReq k r).emit (.fabric c 0 (.access k (Word.ofNat q) (.write d en)) x.sealed)))
    | .none => some (pop s)

/-- A store of a paired thread goes from its buffer to its compare queue of 16, while that has room (R409). -/
def Thread.toCompare (t : Thread) (a : Word) (d : Vec) (en : BitVec 64) (formed : Word) : Thread :=
  { t with sb := t.sb.drop 1, cmpq := t.cmpq ++ [.store a d en formed] }

/-- The store at the head of a thread's compare queue has been performed: it has left the buffer. -/
def State.popCmp (s : State) (core slot : Nat) : State :=
  (s.updThread core slot fun t => { t with cmpq := t.cmpq.drop 1, sbParked := false, fenceLeft := t.fenceLeft - 1 }).updCore core fun c =>
    { c with drained := Tab.set c.drained slot (c.drained.getD slot 0 + 1) }

/-- The head entry of a slot's store buffer leaves it. A marker of `.fab` leaves once nothing is outstanding; one of `.sys`
leaves by RELEASE_COMPLETE. A store of a paired thread leaves for its compare queue (R409). -/
def execStoreBufferDrain (core slot : Nat) (s : State) : Host.Outcome State Fault Refusal :=
  event "STORE_BUFFER_DRAIN" (match s.thread core slot with
    | none => none
    | some t => match t.sb with
      | .marker .core :: _ | .marker .die :: _ => some (s.popSb core slot)
      | .marker .fab :: _ => if t.outst = 0 ∧ t.cmpq.isEmpty then some (s.popSb core slot) else none
      | .store a d en formed :: _ =>
        if t.twin.isNone then s.drainStore core slot [] (·.popSb core slot) a d en formed
        else if 16 ≤ t.cmpq.length then none
        else some (s.setThread core slot (t.toCompare a d en formed))
      | _ => none)

/-! ### The compare of a redundant pair (R409, R410) -/

/-- The entries at the heads of both compare queues are compared, and performed once (R409, R410). -/
def execPairCompare (core slot : Nat) (s : State) : Host.Outcome State Fault Refusal :=
  event "PAIR_COMPARE" (match s.pairOf core slot with
    | none => none
    | some (p, q) => match s.thread p.1 p.2, s.thread q.1 q.2 with
      | some t, some u => match t.cmpq, u.cmpq with
        | x :: tx, y :: uy =>
          if x.view ≠ y.view then some (s.mismatch p q x y) else
          match x with
          | .store a d en formed => s.drainStore p.1 p.2 [q] (fun s => (s.popCmp p.1 p.2).popCmp q.1 q.2) a d en formed
          | _ => ((s.setThread p.1 p.2 { t with cmpq := tx }).setThread q.1 q.2 { u with cmpq := uy }).performPair p q t x
        | _, _ => none
      | _, _ => none)

end Sys2Proof.Machine
end

