-- ==== Sys2Proof/Machine/Dispatch.lean ====
section
/-! DEFINITION. The meaning of every row of the opcode table: one arm per constructor of Instr. -/

namespace Sys2Proof.Machine

def exec (i : Instr) (s : State) : Host.Outcome State Fault Refusal :=
  match i with
  | .lineFetchComplete core slot ext => Sys2Proof.Machine.execLineFetchComplete core slot ext s
  | .syncAttempt core slot => Sys2Proof.Machine.execSyncAttempt core slot s
  | .syncAttemptResult core slot => Sys2Proof.Machine.execSyncAttemptResult core slot s
  | .atomicUnitStep n => Sys2Proof.Machine.execAtomicUnitStep n s
  | .releaseComplete core slot => Sys2Proof.Machine.execReleaseComplete core slot s
  | .sfuRequestStart core => Sys2Proof.Machine.execSfuRequestStart core s
  | .sfuRequestComplete core => Sys2Proof.Machine.execSfuRequestComplete core s
  | .dividerComplete core slot => Sys2Proof.Machine.execDividerComplete core slot s
  | .streamReadAhead core slot sreg ext => Sys2Proof.Machine.execStreamReadAhead core slot sreg ext s
  | .joinReevaluate core slot => Sys2Proof.Machine.execJoinReevaluate core slot s
  | .msendArrival n => Sys2Proof.Machine.execMsendArrival n s
  | .messageDelivery n => Sys2Proof.Machine.execMessageDelivery n s
  | .semaphoreCycleUpdate core => Sys2Proof.Machine.execSemaphoreCycleUpdate core s
  | .parkedInstructionRetry core slot => Sys2Proof.Machine.execParkedInstructionRetry core slot s
  | .waitLimitExpiry core slot => Sys2Proof.Machine.execWaitLimitExpiry core slot s
  | .linkWordArrival core east => Sys2Proof.Machine.execLinkWordArrival core east s
  | .meJobStart cluster => Sys2Proof.Machine.execMeJobStart cluster s
  | .meJobComplete cluster => Sys2Proof.Machine.execMeJobComplete cluster s
  | .meIdleGate cluster => Sys2Proof.Machine.execMeIdleGate cluster s
  | .meWakeComplete cluster => Sys2Proof.Machine.execMeWakeComplete cluster s
  | .retrieverCycle core => Sys2Proof.Machine.execRetrieverCycle core s
  | .copyStart cluster core => Sys2Proof.Machine.execCopyStart cluster core s
  | .copyGranuleCount cluster core id unit ext => Sys2Proof.Machine.execCopyGranuleCount cluster core id unit ext s
  | .copyComplete cluster core id => Sys2Proof.Machine.execCopyComplete cluster core id s
  | .copyEndFault cluster core id => Sys2Proof.Machine.execCopyEndFault cluster core id s
  | .kseCommandStart cluster => Sys2Proof.Machine.execKseCommandStart cluster s
  | .kseCommandComplete cluster => Sys2Proof.Machine.execKseCommandComplete cluster s
  | .rinvAnswer core slot answer => Sys2Proof.Machine.execRinvAnswer core slot answer s
  | .invocationArrival pkt => Sys2Proof.Machine.execInvocationArrival pkt s
  | .lzresArrival src target => Sys2Proof.Machine.execLzresArrival src target s
  | .lzrelArrival src token => Sys2Proof.Machine.execLzrelArrival src token s
  | .lzSegmentArrival seg => Sys2Proof.Machine.execLzSegmentArrival seg s
  | .lzTornTimeout core lz => Sys2Proof.Machine.execLzTornTimeout core lz s
  | .sigupdArrival src => Sys2Proof.Machine.execSigupdArrival src s
  | .sigwaitReevaluate core slot => Sys2Proof.Machine.execSigwaitReevaluate core slot s
  | .pairCompare core slot => Sys2Proof.Machine.execPairCompare core slot s
  | .trapRecordDeferred ctx => Sys2Proof.Machine.execTrapRecordDeferred ctx s
  | .handlerWatchdogExpiry ctx rec => Sys2Proof.Machine.execHandlerWatchdogExpiry ctx rec s
  | .storeBufferDrain core slot => Sys2Proof.Machine.execStoreBufferDrain core slot s
  | .homeAgentRequest src => Sys2Proof.Machine.execHomeAgentRequest src s
  | .homeResponse n ext => Sys2Proof.Machine.execHomeResponse n ext s
  | .storeAck n => Sys2Proof.Machine.execStoreAck n s
  | .lateRefusal n link => Sys2Proof.Machine.execLateRefusal n link s
  | .plbFillComplete core slot => Sys2Proof.Machine.execPlbFillComplete core slot s
  | .hostAtomicopCompletion n reply => Sys2Proof.Machine.execHostAtomicopCompletion n reply s
  | .slotAllocatorLaunch core => Sys2Proof.Machine.execSlotAllocatorLaunch core s
  | .stealSweep core => Sys2Proof.Machine.execStealSweep core s
  | .stealBackoffExpiry core => Sys2Proof.Machine.execStealBackoffExpiry core s
  | .threadRestore core => Sys2Proof.Machine.execThreadRestore core s
  | .pmcPowerLimit quad => Sys2Proof.Machine.execPmcPowerLimit quad s
  | .evictSave core slot => Sys2Proof.Machine.execEvictSave core slot s
  | .parkEvictExpiry core => Sys2Proof.Machine.execParkEvictExpiry core s
  | .preempt core => Sys2Proof.Machine.execPreempt core s
  | .doorbell q value => Sys2Proof.Machine.execDoorbell q value s
  | .queueEnable q => Sys2Proof.Machine.execQueueEnable q s
  | .qsPick ext => Sys2Proof.Machine.execQsPick ext s
  | .qsWaitEvaluate q ext => Sys2Proof.Machine.execQsWaitEvaluate q ext s
  | .qsFaultParkExpiry q => Sys2Proof.Machine.execQsFaultParkExpiry q s
  | .qsSignalAck q ext => Sys2Proof.Machine.execQsSignalAck q ext s
  | .migrationDrain ctx => Sys2Proof.Machine.execMigrationDrain ctx s
  | .migrationCopy ctx place => Sys2Proof.Machine.execMigrationCopy ctx place s
  | .migrationResume ctx => Sys2Proof.Machine.execMigrationResume ctx s
  | .migrationTimeout ctx => Sys2Proof.Machine.execMigrationTimeout ctx s
  | .migrationReportWrite ctx => Sys2Proof.Machine.execMigrationReportWrite ctx s
  | .contextSave ctx out => Sys2Proof.Machine.execContextSave ctx out s
  | .contextRestore ctx place => Sys2Proof.Machine.execContextRestore ctx place s
  | .coreMigration src dst => Sys2Proof.Machine.execCoreMigration src dst s
  | .forwardQuietExpiry core n => Sys2Proof.Machine.execForwardQuietExpiry core n s
  | .burstIdleEntry => Sys2Proof.Machine.execBurstIdleEntry s
  | .burstRetainEntry => Sys2Proof.Machine.execBurstRetainEntry s
  | .burstOffEntry => Sys2Proof.Machine.execBurstOffEntry s
  | .watchDozeEntry => Sys2Proof.Machine.execWatchDozeEntry s
  | .dramSelfRefreshEntry => Sys2Proof.Machine.execDramSelfRefreshEntry s
  | .islandWake island target => Sys2Proof.Machine.execIslandWake island target s
  | .islandWakeComplete island => Sys2Proof.Machine.execIslandWakeComplete island s
  | .dramExitComplete => Sys2Proof.Machine.execDramExitComplete s
  | .clockChange core mhz => Sys2Proof.Machine.execClockChange core mhz s
  | .energyUpdate => Sys2Proof.Machine.execEnergyUpdate s
  | .triggerEvaluate entry ext => Sys2Proof.Machine.execTriggerEvaluate entry ext s
  | .triggerCooldownExpiry entry => Sys2Proof.Machine.execTriggerCooldownExpiry entry s
  | .triggerEntryWrite entry word value => Sys2Proof.Machine.execTriggerEntryWrite entry word value s
  | .scHeel => Sys2Proof.Machine.execScHeel s
  | .heelFreezeComplete => Sys2Proof.Machine.execHeelFreezeComplete s
  | .scReleaseResume => Sys2Proof.Machine.execScReleaseResume s
  | .scReleaseKill => Sys2Proof.Machine.execScReleaseKill s
  | .scAckwin ms => Sys2Proof.Machine.execScAckwin ms s
  | .heelAckWindowExpiry => Sys2Proof.Machine.execHeelAckWindowExpiry s
  | .errorDetected err => Sys2Proof.Machine.execErrorDetected err s
  | .patrolScrub => Sys2Proof.Machine.execPatrolScrub s
  | .thermalThrottle => Sys2Proof.Machine.execThermalThrottle s
  | .thermalTrip => Sys2Proof.Machine.execThermalTrip s
  | .timeTick => Sys2Proof.Machine.execTimeTick s
  | .flitReceive port flit => Sys2Proof.Machine.execFlitReceive port flit s
  | .linkControlReceive port ctl => Sys2Proof.Machine.execLinkControlReceive port ctl s
  | .linkAckTimeout port => Sys2Proof.Machine.execLinkAckTimeout port s
  | .linkTrainingComplete port announced => Sys2Proof.Machine.execLinkTrainingComplete port announced s
  | .linkTrainingLost port => Sys2Proof.Machine.execLinkTrainingLost port s
  | .wake value => Sys2Proof.Machine.execWake value s
  | .fqrd value => Sys2Proof.Machine.execFqrd value s
  | .mqrd value => Sys2Proof.Machine.execMqrd value s
  | .mreply tag value status => Sys2Proof.Machine.execMreply tag value status s
  | .msixModerationExpiry vec => Sys2Proof.Machine.execMsixModerationExpiry vec s
  | .plbInvalidate cmd => Sys2Proof.Machine.execPlbInvalidate cmd s
  | .translationInvalidate cmd => Sys2Proof.Machine.execTranslationInvalidate cmd s
  | .routeCacheDrop cmd => Sys2Proof.Machine.execRouteCacheDrop cmd s
  | .tableWrite cmd => Sys2Proof.Machine.execTableWrite cmd s
  | .mgmtCommandComplete => Sys2Proof.Machine.execMgmtCommandComplete s
  | .fqlog value => Sys2Proof.Machine.execFqlog value s
  | .mqlog value => Sys2Proof.Machine.execMqlog value s
  | .memoryWindowRead off size ext => Sys2Proof.Machine.execMemoryWindowRead off size ext s
  | .memoryWindowWrite off size value => Sys2Proof.Machine.execMemoryWindowWrite off size value s
  | .energyAccountLowRead ctx => Sys2Proof.Machine.execEnergyAccountLowRead ctx s
  | .flashRead => Sys2Proof.Machine.execFlashRead s
  | .flashProg => Sys2Proof.Machine.execFlashProg s
  | .flashErase => Sys2Proof.Machine.execFlashErase s
  | .flashOpComplete => Sys2Proof.Machine.execFlashOpComplete s
  | .attestGo => Sys2Proof.Machine.execAttestGo s
  | .attestReportDone => Sys2Proof.Machine.execAttestReportDone s
  | .bootctl value => Sys2Proof.Machine.execBootctl value s
  | .debugAttachSelect value => Sys2Proof.Machine.execDebugAttachSelect value s
  | .debugStepMode value => Sys2Proof.Machine.execDebugStepMode value s
  | .debugResume value => Sys2Proof.Machine.execDebugResume value s
  | .debugKill value => Sys2Proof.Machine.execDebugKill value s
  | .registerWrite plinth off size value => Sys2Proof.Machine.execRegisterWrite plinth off size value s
  | .powerOnReset rom => Sys2Proof.Machine.execPowerOnReset rom s
  | .plinthBringup trained => Sys2Proof.Machine.execPlinthBringup trained s
  | .plinthWatchdogExpiry => Sys2Proof.Machine.execPlinthWatchdogExpiry s
  | .markerFlip slotB written => Sys2Proof.Machine.execMarkerFlip slotB written s
  | .contextCreate spec => Sys2Proof.Machine.execContextCreate spec s
  | .contextEnd ctx => Sys2Proof.Machine.execContextEnd ctx s
  | .powerLoss => Sys2Proof.Machine.execPowerLoss s
  | .inFieldTest cluster curve => Sys2Proof.Machine.execInFieldTest cluster curve s
  | .nop g => Sys2Proof.Machine.execNop g s
  | .brk g => Sys2Proof.Machine.execBrk g s
  | .brkCode g code => Sys2Proof.Machine.execBrkCode g code s
  | .trap g code => Sys2Proof.Machine.execTrap g code s
  | .eret g => Sys2Proof.Machine.execEret g s
  | .add g d a b => Sys2Proof.Machine.execAdd g d a b s
  | .sub g d a b => Sys2Proof.Machine.execSub g d a b s
  | .land g d a b => Sys2Proof.Machine.execLand g d a b s
  | .lor g d a b => Sys2Proof.Machine.execLor g d a b s
  | .lxor g d a b => Sys2Proof.Machine.execLxor g d a b s
  | .andn g d a b => Sys2Proof.Machine.execAndn g d a b s
  | .shl g d a b => Sys2Proof.Machine.execShl g d a b s
  | .shr g d a b => Sys2Proof.Machine.execShr g d a b s
  | .sar g d a b => Sys2Proof.Machine.execSar g d a b s
  | .rol g d a b => Sys2Proof.Machine.execRol g d a b s
  | .min g d a b => Sys2Proof.Machine.execMin g d a b s
  | .max g d a b => Sys2Proof.Machine.execMax g d a b s
  | .minu g d a b => Sys2Proof.Machine.execMinu g d a b s
  | .maxu g d a b => Sys2Proof.Machine.execMaxu g d a b s
  | .addSat g d a b => Sys2Proof.Machine.execAddSat g d a b s
  | .subSat g d a b => Sys2Proof.Machine.execSubSat g d a b s
  | .addSatu g d a b => Sys2Proof.Machine.execAddSatu g d a b s
  | .subSatu g d a b => Sys2Proof.Machine.execSubSatu g d a b s
  | .sel g d a b c => Sys2Proof.Machine.execSel g d a b c s
  | .addImm g d a imm => Sys2Proof.Machine.execAddImm g d a imm s
  | .landImm g d a imm => Sys2Proof.Machine.execLandImm g d a imm s
  | .lorImm g d a imm => Sys2Proof.Machine.execLorImm g d a imm s
  | .lxorImm g d a imm => Sys2Proof.Machine.execLxorImm g d a imm s
  | .andnImm g d a imm => Sys2Proof.Machine.execAndnImm g d a imm s
  | .minImm g d a imm => Sys2Proof.Machine.execMinImm g d a imm s
  | .maxImm g d a imm => Sys2Proof.Machine.execMaxImm g d a imm s
  | .minuImm g d a imm => Sys2Proof.Machine.execMinuImm g d a imm s
  | .maxuImm g d a imm => Sys2Proof.Machine.execMaxuImm g d a imm s
  | .addSatImm g d a imm => Sys2Proof.Machine.execAddSatImm g d a imm s
  | .addSatuImm g d a imm => Sys2Proof.Machine.execAddSatuImm g d a imm s
  | .shlImm g d a n => Sys2Proof.Machine.execShlImm g d a n s
  | .shrImm g d a n => Sys2Proof.Machine.execShrImm g d a n s
  | .sarImm g d a n => Sys2Proof.Machine.execSarImm g d a n s
  | .rolImm g d a n => Sys2Proof.Machine.execRolImm g d a n s
  | .li g d imm => Sys2Proof.Machine.execLi g d imm s
  | .liI32 g d imm => Sys2Proof.Machine.execLiI32 g d imm s
  | .liTe g d imm => Sys2Proof.Machine.execLiTe g d imm s
  | .mul g d a b => Sys2Proof.Machine.execMul g d a b s
  | .mulh g d a b => Sys2Proof.Machine.execMulh g d a b s
  | .mulhu g d a b => Sys2Proof.Machine.execMulhu g d a b s
  | .div g d a b => Sys2Proof.Machine.execDiv g d a b s
  | .divu g d a b => Sys2Proof.Machine.execDivu g d a b s
  | .rem g d a b => Sys2Proof.Machine.execRem g d a b s
  | .remu g d a b => Sys2Proof.Machine.execRemu g d a b s
  | .clz g d a => Sys2Proof.Machine.execClz g d a s
  | .ctz g d a => Sys2Proof.Machine.execCtz g d a s
  | .popc g d a => Sys2Proof.Machine.execPopc g d a s
  | .bswap g d a => Sys2Proof.Machine.execBswap g d a s
  | .sextB g d a => Sys2Proof.Machine.execSextB g d a s
  | .sextH g d a => Sys2Proof.Machine.execSextH g d a s
  | .sextW g d a => Sys2Proof.Machine.execSextW g d a s
  | .zextB g d a => Sys2Proof.Machine.execZextB g d a s
  | .zextH g d a => Sys2Proof.Machine.execZextH g d a s
  | .zextW g d a => Sys2Proof.Machine.execZextW g d a s
  | .bext g d a pos len => Sys2Proof.Machine.execBext g d a pos len s
  | .bins g d a pos len => Sys2Proof.Machine.execBins g d a pos len s
  | .lea g d a b scale disp => Sys2Proof.Machine.execLea g d a b scale disp s
  | .cmpEq g d a b => Sys2Proof.Machine.execCmpEq g d a b s
  | .cmpNe g d a b => Sys2Proof.Machine.execCmpNe g d a b s
  | .cmpLt g d a b => Sys2Proof.Machine.execCmpLt g d a b s
  | .cmpGe g d a b => Sys2Proof.Machine.execCmpGe g d a b s
  | .cmpLtu g d a b => Sys2Proof.Machine.execCmpLtu g d a b s
  | .cmpGeu g d a b => Sys2Proof.Machine.execCmpGeu g d a b s
  | .cmpGt g d a b => Sys2Proof.Machine.execCmpGt g d a b s
  | .cmpLe g d a b => Sys2Proof.Machine.execCmpLe g d a b s
  | .cmpGtu g d a b => Sys2Proof.Machine.execCmpGtu g d a b s
  | .cmpLeu g d a b => Sys2Proof.Machine.execCmpLeu g d a b s
  | .cmpTst g d a b => Sys2Proof.Machine.execCmpTst g d a b s
  | .cmpNtst g d a b => Sys2Proof.Machine.execCmpNtst g d a b s
  | .cmpEqImm g d a imm => Sys2Proof.Machine.execCmpEqImm g d a imm s
  | .cmpNeImm g d a imm => Sys2Proof.Machine.execCmpNeImm g d a imm s
  | .cmpLtImm g d a imm => Sys2Proof.Machine.execCmpLtImm g d a imm s
  | .cmpGeImm g d a imm => Sys2Proof.Machine.execCmpGeImm g d a imm s
  | .cmpLtuImm g d a imm => Sys2Proof.Machine.execCmpLtuImm g d a imm s
  | .cmpGeuImm g d a imm => Sys2Proof.Machine.execCmpGeuImm g d a imm s
  | .cmpGtImm g d a imm => Sys2Proof.Machine.execCmpGtImm g d a imm s
  | .cmpLeImm g d a imm => Sys2Proof.Machine.execCmpLeImm g d a imm s
  | .cmpGtuImm g d a imm => Sys2Proof.Machine.execCmpGtuImm g d a imm s
  | .cmpLeuImm g d a imm => Sys2Proof.Machine.execCmpLeuImm g d a imm s
  | .cmpTstImm g d a imm => Sys2Proof.Machine.execCmpTstImm g d a imm s
  | .cmpNtstImm g d a imm => Sys2Proof.Machine.execCmpNtstImm g d a imm s
  | .pand g d a b => Sys2Proof.Machine.execPand g d a b s
  | .por g d a b => Sys2Proof.Machine.execPor g d a b s
  | .pxor g d a b => Sys2Proof.Machine.execPxor g d a b s
  | .pnot g d a => Sys2Proof.Machine.execPnot g d a s
  | .fadd g d a b t rm => Sys2Proof.Machine.execFadd g d a b t rm s
  | .fsub g d a b t rm => Sys2Proof.Machine.execFsub g d a b t rm s
  | .fmul g d a b t rm => Sys2Proof.Machine.execFmul g d a b t rm s
  | .fdiv g d a b t rm => Sys2Proof.Machine.execFdiv g d a b t rm s
  | .fsqrt g d a t rm => Sys2Proof.Machine.execFsqrt g d a t rm s
  | .fmin g d a b t => Sys2Proof.Machine.execFmin g d a b t s
  | .fmax g d a b t => Sys2Proof.Machine.execFmax g d a b t s
  | .fcmpEq g d a b t => Sys2Proof.Machine.execFcmpEq g d a b t s
  | .fcmpNe g d a b t => Sys2Proof.Machine.execFcmpNe g d a b t s
  | .fcmpLt g d a b t => Sys2Proof.Machine.execFcmpLt g d a b t s
  | .fcmpLe g d a b t => Sys2Proof.Machine.execFcmpLe g d a b t s
  | .fcmpUn g d a b t => Sys2Proof.Machine.execFcmpUn g d a b t s
  | .fcvt g d a t t2 rm => Sys2Proof.Machine.execFcvt g d a t t2 rm s
  | .fclass g d a t => Sys2Proof.Machine.execFclass g d a t s
  | .fma g d a b c t rm => Sys2Proof.Machine.execFma g d a b c t rm s
  | .fmaNa g d a b c t rm => Sys2Proof.Machine.execFmaNa g d a b c t rm s
  | .fmaNc g d a b c t rm => Sys2Proof.Machine.execFmaNc g d a b c t rm s
  | .fmaNaNc g d a b c t rm => Sys2Proof.Machine.execFmaNaNc g d a b c t rm s
  | .mov g d a => Sys2Proof.Machine.execMov g d a s
  | .movF g d a => Sys2Proof.Machine.execMovF g d a s
  | .mfs g d idx => Sys2Proof.Machine.execMfs g d idx s
  | .mts g a idx => Sys2Proof.Machine.execMts g a idx s
  | .pwdogWrite g a => Sys2Proof.Machine.execPwdogWrite g a s
  | .bootcntWrite g a => Sys2Proof.Machine.execBootcntWrite g a s
  | .br g off head => Sys2Proof.Machine.execBr g off head s
  | .jmp g d => Sys2Proof.Machine.execJmp g d s
  | .call g d off head => Sys2Proof.Machine.execCall g d off head s
  | .callReg g d a => Sys2Proof.Machine.execCallReg g d a s
  | .ret g d => Sys2Proof.Machine.execRet g d s
  | .loop g d off head => Sys2Proof.Machine.execLoop g d off head s
  | .ldB g d a b disp => Sys2Proof.Machine.execLdB g d a b disp s
  | .ldH g d a b disp => Sys2Proof.Machine.execLdH g d a b disp s
  | .ldW g d a b disp => Sys2Proof.Machine.execLdW g d a b disp s
  | .ldD g d a b disp => Sys2Proof.Machine.execLdD g d a b disp s
  | .ldsB g d a b disp => Sys2Proof.Machine.execLdsB g d a b disp s
  | .ldsH g d a b disp => Sys2Proof.Machine.execLdsH g d a b disp s
  | .ldsW g d a b disp => Sys2Proof.Machine.execLdsW g d a b disp s
  | .ldBS g d a b disp => Sys2Proof.Machine.execLdBS g d a b disp s
  | .ldHS g d a b disp => Sys2Proof.Machine.execLdHS g d a b disp s
  | .ldWS g d a b disp => Sys2Proof.Machine.execLdWS g d a b disp s
  | .ldDS g d a b disp => Sys2Proof.Machine.execLdDS g d a b disp s
  | .ldsBS g d a b disp => Sys2Proof.Machine.execLdsBS g d a b disp s
  | .ldsHS g d a b disp => Sys2Proof.Machine.execLdsHS g d a b disp s
  | .ldsWS g d a b disp => Sys2Proof.Machine.execLdsWS g d a b disp s
  | .stB g d a b disp => Sys2Proof.Machine.execStB g d a b disp s
  | .stH g d a b disp => Sys2Proof.Machine.execStH g d a b disp s
  | .stW g d a b disp => Sys2Proof.Machine.execStW g d a b disp s
  | .stD g d a b disp => Sys2Proof.Machine.execStD g d a b disp s
  | .stBS g d a b disp => Sys2Proof.Machine.execStBS g d a b disp s
  | .stHS g d a b disp => Sys2Proof.Machine.execStHS g d a b disp s
  | .stWS g d a b disp => Sys2Proof.Machine.execStWS g d a b disp s
  | .stDS g d a b disp => Sys2Proof.Machine.execStDS g d a b disp s
  | .vld g d a b t m => Sys2Proof.Machine.execVld g d a b t m s
  | .vldS g d a b t m => Sys2Proof.Machine.execVldS g d a b t m s
  | .vgather g d a b t m => Sys2Proof.Machine.execVgather g d a b t m s
  | .vst g d a b t m => Sys2Proof.Machine.execVst g d a b t m s
  | .vscatter g d a b t m => Sys2Proof.Machine.execVscatter g d a b t m s
  | .ldsync g d a disp => Sys2Proof.Machine.execLdsync g d a disp s
  | .ldsyncKeep g d a disp => Sys2Proof.Machine.execLdsyncKeep g d a disp s
  | .stsync g d a disp => Sys2Proof.Machine.execStsync g d a disp s
  | .stfill g d a disp => Sys2Proof.Machine.execStfill g d a disp s
  | .feset g a disp => Sys2Proof.Machine.execFeset g a disp s
  | .feclr g a disp => Sys2Proof.Machine.execFeclr g a disp s
  | .feread g d a disp => Sys2Proof.Machine.execFeread g d a disp s
  | .amoAdd g d a b t o sc => Sys2Proof.Machine.execAmoAdd g d a b t o sc s
  | .amoAnd g d a b t o sc => Sys2Proof.Machine.execAmoAnd g d a b t o sc s
  | .amoOr g d a b t o sc => Sys2Proof.Machine.execAmoOr g d a b t o sc s
  | .amoXor g d a b t o sc => Sys2Proof.Machine.execAmoXor g d a b t o sc s
  | .amoMin g d a b t o sc => Sys2Proof.Machine.execAmoMin g d a b t o sc s
  | .amoMax g d a b t o sc => Sys2Proof.Machine.execAmoMax g d a b t o sc s
  | .amoSwap g d a b t o sc => Sys2Proof.Machine.execAmoSwap g d a b t o sc s
  | .amoCas g d a b c t o sc => Sys2Proof.Machine.execAmoCas g d a b c t o sc s
  | .fence g o sc => Sys2Proof.Machine.execFence g o sc s
  | .plbload g d a => Sys2Proof.Machine.execPlbload g d a s
  | .plbinval g a b => Sys2Proof.Machine.execPlbinval g a b s
  | .scflush g a b => Sys2Proof.Machine.execScflush g a b s
  | .scinval g a => Sys2Proof.Machine.execScinval g a s
  | .prefetch g a => Sys2Proof.Machine.execPrefetch g a s
  | .prefetchW g a => Sys2Proof.Machine.execPrefetchW g a s
  | .vaddInt g d a b t sat m => Sys2Proof.Machine.execVaddInt g d a b t sat m s
  | .vsubInt g d a b t sat m => Sys2Proof.Machine.execVsubInt g d a b t sat m s
  | .vmulInt g d a b t sat m => Sys2Proof.Machine.execVmulInt g d a b t sat m s
  | .vminInt g d a b t m => Sys2Proof.Machine.execVminInt g d a b t m s
  | .vmaxInt g d a b t m => Sys2Proof.Machine.execVmaxInt g d a b t m s
  | .vabsInt g d a t sat m => Sys2Proof.Machine.execVabsInt g d a t sat m s
  | .vnegInt g d a t sat m => Sys2Proof.Machine.execVnegInt g d a t sat m s
  | .vshl g d a b t sat m => Sys2Proof.Machine.execVshl g d a b t sat m s
  | .vshr g d a b t m => Sys2Proof.Machine.execVshr g d a b t m s
  | .vsar g d a b t m => Sys2Proof.Machine.execVsar g d a b t m s
  | .vrand g d a b t m => Sys2Proof.Machine.execVrand g d a b t m s
  | .vaddIntScalar g d a b t sat m => Sys2Proof.Machine.execVaddIntScalar g d a b t sat m s
  | .vsubIntScalar g d a b t sat m => Sys2Proof.Machine.execVsubIntScalar g d a b t sat m s
  | .vmulIntScalar g d a b t sat m => Sys2Proof.Machine.execVmulIntScalar g d a b t sat m s
  | .vminIntScalar g d a b t m => Sys2Proof.Machine.execVminIntScalar g d a b t m s
  | .vmaxIntScalar g d a b t m => Sys2Proof.Machine.execVmaxIntScalar g d a b t m s
  | .vshlScalar g d a b t sat m => Sys2Proof.Machine.execVshlScalar g d a b t sat m s
  | .vshrScalar g d a b t m => Sys2Proof.Machine.execVshrScalar g d a b t m s
  | .vsarScalar g d a b t m => Sys2Proof.Machine.execVsarScalar g d a b t m s
  | .vaddFp g d a b t rm m => Sys2Proof.Machine.execVaddFp g d a b t rm m s
  | .vsubFp g d a b t rm m => Sys2Proof.Machine.execVsubFp g d a b t rm m s
  | .vmulFp g d a b t rm m => Sys2Proof.Machine.execVmulFp g d a b t rm m s
  | .vminFp g d a b t m => Sys2Proof.Machine.execVminFp g d a b t m s
  | .vmaxFp g d a b t m => Sys2Proof.Machine.execVmaxFp g d a b t m s
  | .vabsFp g d a t m => Sys2Proof.Machine.execVabsFp g d a t m s
  | .vnegFp g d a t m => Sys2Proof.Machine.execVnegFp g d a t m s
  | .vaddFpScalar g d a b t rm m => Sys2Proof.Machine.execVaddFpScalar g d a b t rm m s
  | .vsubFpScalar g d a b t rm m => Sys2Proof.Machine.execVsubFpScalar g d a b t rm m s
  | .vmulFpScalar g d a b t rm m => Sys2Proof.Machine.execVmulFpScalar g d a b t rm m s
  | .vminFpScalar g d a b t m => Sys2Proof.Machine.execVminFpScalar g d a b t m s
  | .vmaxFpScalar g d a b t m => Sys2Proof.Machine.execVmaxFpScalar g d a b t m s
  | .vfma g d a b c t rm m => Sys2Proof.Machine.execVfma g d a b c t rm m s
  | .vfmaNa g d a b c t rm m => Sys2Proof.Machine.execVfmaNa g d a b c t rm m s
  | .vfmaNc g d a b c t rm m => Sys2Proof.Machine.execVfmaNc g d a b c t rm m s
  | .vfmaNaNc g d a b c t rm m => Sys2Proof.Machine.execVfmaNaNc g d a b c t rm m s
  | .vcmpEq g d a b t m => Sys2Proof.Machine.execVcmpEq g d a b t m s
  | .vcmpNe g d a b t m => Sys2Proof.Machine.execVcmpNe g d a b t m s
  | .vcmpLt g d a b t m => Sys2Proof.Machine.execVcmpLt g d a b t m s
  | .vcmpLe g d a b t m => Sys2Proof.Machine.execVcmpLe g d a b t m s
  | .vcmpGt g d a b t m => Sys2Proof.Machine.execVcmpGt g d a b t m s
  | .vcmpGe g d a b t m => Sys2Proof.Machine.execVcmpGe g d a b t m s
  | .vcmpUn g d a b t m => Sys2Proof.Machine.execVcmpUn g d a b t m s
  | .vcmpEqScalar g d a b t m => Sys2Proof.Machine.execVcmpEqScalar g d a b t m s
  | .vcmpNeScalar g d a b t m => Sys2Proof.Machine.execVcmpNeScalar g d a b t m s
  | .vcmpLtScalar g d a b t m => Sys2Proof.Machine.execVcmpLtScalar g d a b t m s
  | .vcmpLeScalar g d a b t m => Sys2Proof.Machine.execVcmpLeScalar g d a b t m s
  | .vcmpGtScalar g d a b t m => Sys2Proof.Machine.execVcmpGtScalar g d a b t m s
  | .vcmpGeScalar g d a b t m => Sys2Proof.Machine.execVcmpGeScalar g d a b t m s
  | .vcmpUnScalar g d a b t m => Sys2Proof.Machine.execVcmpUnScalar g d a b t m s
  | .vsel g d a b t m => Sys2Proof.Machine.execVsel g d a b t m s
  | .vcompress g d a c t m => Sys2Proof.Machine.execVcompress g d a c t m s
  | .vexpand g d a t m => Sys2Proof.Machine.execVexpand g d a t m s
  | .vperm g d a b t m => Sys2Proof.Machine.execVperm g d a b t m s
  | .vbcast g d a t m => Sys2Proof.Machine.execVbcast g d a t m s
  | .vredAdd g d a t sat rm m => Sys2Proof.Machine.execVredAdd g d a t sat rm m s
  | .vredMax g d a t m => Sys2Proof.Machine.execVredMax g d a t m s
  | .vredMin g d a t m => Sys2Proof.Machine.execVredMin g d a t m s
  | .vredmaxIdx g d a c t m => Sys2Proof.Machine.execVredmaxIdx g d a c t m s
  | .vredminIdx g d a c t m => Sys2Proof.Machine.execVredminIdx g d a c t m s
  | .vscanAdd g d a t sat rm m => Sys2Proof.Machine.execVscanAdd g d a t sat rm m s
  | .vcvt g d a b t t2 rm => Sys2Proof.Machine.execVcvt g d a b t t2 rm s
  | .vlog2 g d a rm m => Sys2Proof.Machine.execVlog2 g d a rm m s
  | .vexp2 g d a rm m => Sys2Proof.Machine.execVexp2 g d a rm m s
  | .vrcp g d a rm m => Sys2Proof.Machine.execVrcp g d a rm m s
  | .vrsqrt g d a rm m => Sys2Proof.Machine.execVrsqrt g d a rm m s
  | .vsqrt g d a rm m => Sys2Proof.Machine.execVsqrt g d a rm m s
  | .vsin g d a rm m => Sys2Proof.Machine.execVsin g d a rm m s
  | .vcos g d a rm m => Sys2Proof.Machine.execVcos g d a rm m s
  | .vdiv g d a b t rm m => Sys2Proof.Machine.execVdiv g d a b t rm m s
  | .vrem g d a b t m => Sys2Proof.Machine.execVrem g d a b t m s
  | .vdivScalar g d a b t rm m => Sys2Proof.Machine.execVdivScalar g d a b t rm m s
  | .vremScalar g d a b t m => Sys2Proof.Machine.execVremScalar g d a b t m s
  | .sbind g d a b c => Sys2Proof.Machine.execSbind g d a b c s
  | .sunbind g d => Sys2Proof.Machine.execSunbind g d s
  | .stest g d a => Sys2Proof.Machine.execStest g d a s
  | .vmovg g d a b t => Sys2Proof.Machine.execVmovg g d a b t s
  | .gmovv g d a b t => Sys2Proof.Machine.execGmovv g d a b t s
  | .vand g d a b t m => Sys2Proof.Machine.execVand g d a b t m s
  | .vor g d a b t m => Sys2Proof.Machine.execVor g d a b t m s
  | .vxor g d a b t m => Sys2Proof.Machine.execVxor g d a b t m s
  | .vnot g d a t m => Sys2Proof.Machine.execVnot g d a t m s
  | .vandScalar g d a b t m => Sys2Proof.Machine.execVandScalar g d a b t m s
  | .vorScalar g d a b t m => Sys2Proof.Machine.execVorScalar g d a b t m s
  | .vxorScalar g d a b t m => Sys2Proof.Machine.execVxorScalar g d a b t m s
  | .fork g d a b lendBit pv dom prio => Sys2Proof.Machine.execFork g d a b lendBit pv dom prio s
  | .join g a => Sys2Proof.Machine.execJoin g a s
  | .spawn g d a b => Sys2Proof.Machine.execSpawn g d a b s
  | .halt g => Sys2Proof.Machine.execHalt g s
  | .yield g d => Sys2Proof.Machine.execYield g d s
  | .lend g on => Sys2Proof.Machine.execLend g on s
  | .pin g d on => Sys2Proof.Machine.execPin g d on s
  | .callat g d a b => Sys2Proof.Machine.execCallat g d a b s
  | .retm g a => Sys2Proof.Machine.execRetm g a s
  | .msend g a b k => Sys2Proof.Machine.execMsend g a b k s
  | .mrecv g d c => Sys2Proof.Machine.execMrecv g d c s
  | .mwait g d => Sys2Proof.Machine.execMwait g d s
  | .mtry g d c pd => Sys2Proof.Machine.execMtry g d c pd s
  | .ksig g a k => Sys2Proof.Machine.execKsig g a k s
  | .ksub g a k => Sys2Proof.Machine.execKsub g a k s
  | .kwait g a k => Sys2Proof.Machine.execKwait g a k s
  | .kset g a k => Sys2Proof.Machine.execKset g a k s
  | .kread g d k => Sys2Proof.Machine.execKread g d k s
  | .ttarm g d a b k => Sys2Proof.Machine.execTtarm g d a b k s
  | .ttcancel g d a => Sys2Proof.Machine.execTtcancel g d a s
  | .qbind g d mode => Sys2Proof.Machine.execQbind g d mode s
  | .qstat g d q => Sys2Proof.Machine.execQstat g d q s
  | .roam g a => Sys2Proof.Machine.execRoam g a s
  | .mma g d a b c asy ad nb na tile td => Sys2Proof.Machine.execMma g d a b c asy ad nb na tile td s
  | .accld g d a c asy tile td => Sys2Proof.Machine.execAccld g d a c asy tile td s
  | .accst g d a b c asy int rm tile td => Sys2Proof.Machine.execAccst g d a b c asy int rm tile td s
  | .acczero g d c asy tile td => Sys2Proof.Machine.execAcczero g d c asy tile td s
  | .mpack g d a b asy td => Sys2Proof.Machine.execMpack g d a b asy td s
  | .munpack g d a b asy td => Sys2Proof.Machine.execMunpack g d a b asy td s
  | .mwaitj g d a => Sys2Proof.Machine.execMwaitj g d a s
  | .mpoll g d a => Sys2Proof.Machine.execMpoll g d a s
  | .mwake g => Sys2Proof.Machine.execMwake g s
  | .cpy g d a b c quiet dim td => Sys2Proof.Machine.execCpy g d a b c quiet dim td s
  | .cpyMc g d a b c msk quiet dim td => Sys2Proof.Machine.execCpyMc g d a b c msk quiet dim td s
  | .cpyLb g d a b c quiet inv ch td => Sys2Proof.Machine.execCpyLb g d a b c quiet inv ch td s
  | .cpyRing g d a b c quiet dim td => Sys2Proof.Machine.execCpyRing g d a b c quiet dim td s
  | .ksproj g a ent td => Sys2Proof.Machine.execKsproj g a ent td s
  | .kstore g a b c ent td => Sys2Proof.Machine.execKstore g a b c ent td s
  | .kgather g d a b c qv rad ent td => Sys2Proof.Machine.execKgather g d a b c qv rad ent td s
  | .kfence g td => Sys2Proof.Machine.execKfence g td s
  | .kstat g d td => Sys2Proof.Machine.execKstat g d td s
  | .kbuild g a ent td => Sys2Proof.Machine.execKbuild g a ent td s
  | .rinv g d a td => Sys2Proof.Machine.execRinv g d a td s
  | .rinvT g d a td => Sys2Proof.Machine.execRinvT g d a td s
  | .rinvCard g d a b td => Sys2Proof.Machine.execRinvCard g d a b td s
  | .lzcfg g d a lz td => Sys2Proof.Machine.execLzcfg g d a lz td s
  | .lzres g d a td => Sys2Proof.Machine.execLzres g d a td s
  | .lzrel g d a td => Sys2Proof.Machine.execLzrel g d a td s
  | .lzcpy g d a b c quiet off td => Sys2Proof.Machine.execLzcpy g d a b c quiet off td s
  | .sigupd g a b op td => Sys2Proof.Machine.execSigupd g a b op td s
  | .sigwait g a b cmp td => Sys2Proof.Machine.execSigwait g a b cmp td s
  | .migpt g => Sys2Proof.Machine.execMigpt g s
  | .trig g d a ent => Sys2Proof.Machine.execTrig g d a ent s
  | .wakeGo g d a => Sys2Proof.Machine.execWakeGo g d a s
  | .wakeHold g d a => Sys2Proof.Machine.execWakeHold g d a s
  | .wakeDrop g d a => Sys2Proof.Machine.execWakeDrop g d a s
  | .pair g d a b => Sys2Proof.Machine.execPair g d a b s
  | .heelack g a => Sys2Proof.Machine.execHeelack g a s
  | .eresume g d a => Sys2Proof.Machine.execEresume g d a s
  | .ekill g d a => Sys2Proof.Machine.execEkill g d a s

end Sys2Proof.Machine
end

