-- ==== Sys2Proof/Machine/Plan.lean ====
section
/-! DEFINITION. The model's default order of events (log entry 2): what is offered after each round of one cycle on every
core of a context. The agenda of State comes before it, so any other order the spec allows can be given there. -/

namespace Sys2Proof.Machine

/-- What a thread may wait for, and what its store buffer holds (04 R121, 06 R187, 08 R236, 09 R264). -/
def threadOffers (core slot : Nat) (t : Thread) : List Instr :=
  (if t.sb.isEmpty then [] else [.storeBufferDrain core slot]) ++
  (if t.sb.isEmpty && !t.hostWrites then [] else [.releaseComplete core slot]) ++
  (if t.cmpq.isEmpty then [] else [.pairCompare core slot]) ++
  (if t.pending.isSome then [.dividerComplete core slot] else []) ++
  (match t.run with
    | .parked (.plb _) _ _ => [.plbFillComplete core slot]
    | .parked (.line _) _ _ => [.lineFetchComplete core slot none]
    | .parked (.sync true) _ _ => [.syncAttempt core slot, .syncAttemptResult core slot]
    | .parked (.join _) _ _ => [.joinReevaluate core slot]
    | .parked .release _ _ => [.releaseComplete core slot]
    | _ => [])

/-- A core's own units and its scheduling (05 R152, 06 R168-R183). -/
def coreOffers (n : Nat) (c : Core) : List Instr :=
  c.slots.flatMap (fun p => threadOffers n p.1 p.2) ++
  (c.saved.filterMap fun p => match p.2.th.run with
    | .parked (.join _) _ _ => some (.joinReevaluate n (16 + p.1))
    | _ => none) ++
  (if c.sfuFifo.isEmpty then [] else [.sfuRequestStart n]) ++
  (if c.slots.any fun p => p.2.pending.isSome then [.sfuRequestComplete n] else []) ++
  (match c.evicting with
    | some k => [.evictSave n k]
    | none => [.parkEvictExpiry n, .preempt n]) ++
  [.stealBackoffExpiry n, .stealSweep n] ++ c.forwards.map fun f => .forwardQuietExpiry n f.1

/-- A cluster's engines (10 R304-R311, 11 R325-R337, R348). -/
def clusterOffers (k : Nat) (u : Cluster) : List Instr :=
  (if u.me.jobs.isEmpty then [.meIdleGate k] else [.meWakeComplete k, .meJobStart k, .meJobComplete k]) ++
  ((List.range 8).map fun i => .copyStart k (8 * k + i)) ++
  (u.ce.copies.flatMap fun c =>
    ((c.progress.flatMap fun p => match c.form with
      | .lz | .card => [(c.segments.findIdx? fun g => g.1 == p.target && g.2.1 == p.done).getD 0]
      | .lb => [p.done]
      | _ => (List.range 4).map (p.done + ·)).eraseDups.map fun n => .copyGranuleCount k c.core c.id.toNat n none) ++
    [.copyComplete k c.core c.id.toNat, .copyEndFault k c.core c.id.toNat]) ++
  (if u.kse.queue.isEmpty then [] else [.kseCommandStart k, .kseCommandComplete k])

/-- Requests beyond the cores (08 R243, 09 R266, 13 R377, 15 R455). -/
def reqOffers (n : Nat) (r : Req) : List Instr :=
  match r.st with
  | .queued | .fenced => [match r.acc with
    | .lzres a => .lzresArrival (.own n) a
    | .lzrel t => .lzrelArrival (.own n) t
    | .signal _ _ => .sigupdArrival (.own n)
    | _ => .homeAgentRequest (.own n), .homeAgentRequest (.own n), .atomicUnitStep n]
  | .answered _ => [.homeResponse n none]
  | _ => []

def inflightOffers (n : Nat) (i : Inflight) : List Instr :=
  (if i.msend.isSome then [.msendArrival n] else []) ++ (match i.outcome with
    | some none => [.storeAck n]
    | some (some _) => [.lateRefusal n false]
    | none => [])

/-- Contexts (13 R369-R372, R389-R392). -/
def ctxOffers (n : Nat) (x : Ctx) : List Instr :=
  [.trapRecordDeferred n] ++ (x.recs.map fun r => .handlerWatchdogExpiry n r.1) ++
  (if x.migrating then [.migrationDrain n, .migrationResume n, .migrationTimeout n, .migrationReportWrite n] else [.migrationReportWrite n])

/-- The queue scheduler (06 R192-R199). -/
def qsOffers (q : Qs) : List Instr :=
  (q.queues.flatMap fun p => (if p.2.parked.isSome then [.qsFaultParkExpiry p.1] else []) ++ match p.2.st with
    | .wait => [.qsWaitEvaluate p.1 none]
    | .ready => if p.2.sent then [.qsSignalAck p.1 none] else []
    | _ => []) ++ [.qsPick none]

/-- The rest of the chip (13 R394-R406, 15 R430-R433, 17 R469-R486). -/
def State.chipOffers (s : State) : List Instr :=
  (s.localInv.map fun p => .invocationArrival p.2.2) ++ (s.messages.map fun _ => .messageDelivery 0) ++
  (if s.burst.waking.isSome then [.islandWakeComplete 0] else []) ++ (if s.watch.waking.isSome then [.islandWakeComplete 1] else []) ++
  (if s.dramExit then [.dramExitComplete] else []) ++
  (if s.heel.freeze = .freezing then [.heelFreezeComplete] else []) ++
  (if s.heel.deadline.isSome then [.heelAckWindowExpiry] else []) ++
  (s.triggers.flatMap fun t => match t.2.st with
    | .armed => [.triggerEvaluate t.1 none]
    | .cooling => [.triggerCooldownExpiry t.1]
    | _ => []) ++
  (s.host.moderated.map fun v => .msixModerationExpiry v) ++
  (if s.mgmt.busy.isSome then [.mgmtCommandComplete] else []) ++ (if s.mgmt.fbusy then [.flashOpComplete] else []) ++
  (if s.mgmt.abusy then [.attestReportDone] else []) ++ (if s.boot.phase = .plinth then [.plinthWatchdogExpiry] else []) ++
  (s.lz.filterMap fun p => match p.2.st with
    | .torn _ _ _ => some (.lzTornTimeout (p.1 / 16) (p.1 % 16))
    | _ => none) ++
  (s.ports.filterMap fun p => if p.2.replay.isEmpty then none else some (.linkAckTimeout p.1)) ++
  [.burstIdleEntry, .watchDozeEntry, .dramSelfRefreshEntry]

/-- While the device is held in reset nothing happens but the rails' coming into range, or their loss (R488). -/
def State.heldInReset (s : State) (m : Move) : Bool :=
  s.boot.phase == .held && match m with
    | .event i | .offer i => (match i with
      | .powerOnReset _ | .powerLoss => false
      | _ => true)
    | .cycle _ => true

/-- A round: a cycle of each core of a context, then every event whose occasion may be present. Every 40th round the crystal
ticks. -/
def State.plan (s : State) : List Move :=
  let cycles : List Move := s.cores.filterMap fun c => if c.2.ctx.isSome then some (.cycle c.1) else none
  let offers : List Instr :=
    (s.cores.flatMap fun c => coreOffers c.1 c.2) ++ (s.clusters.flatMap fun k => clusterOffers k.1 k.2) ++
    (s.reqs.flatMap fun r => reqOffers r.1 r.2) ++ (s.inflight.flatMap fun i => inflightOffers i.1 i.2) ++
    (s.ctxs.flatMap fun x => ctxOffers x.1 x.2) ++ qsOffers s.qs ++ s.chipOffers ++
    (if s.turn % 40 = 39 then [.timeTick, .energyUpdate] else [])
  cycles ++ offers.map Move.offer

end Sys2Proof.Machine
end

