-- ==== Sys2Proof/Machine/Step.lean ====
section
/-! DEFINITION. One step of the chip: the head of the agenda, or, with an empty agenda, the plan of the next round (log
entries 1 and 2). A cycle of a core fetches, decodes and executes in `State.coreCycle`. -/

namespace Sys2Proof.Machine

/-- One thing happens, unless the device is held in reset. -/
def State.take (s : State) (m : Move) : Host.Outcome State Fault Refusal :=
  if s.heldInReset m then .next s else
  match m with
  | .cycle c => s.coreCycle c
  | .event i => exec i s
  | .offer i => match exec i s with
    | .next t => .next t
    | _ => .next s

def step (s : State) : Host.Outcome State Fault Refusal :=
  match s.agenda with
  | m :: rest => ({ s with agenda := rest } : State).take m
  | [] => .next { s with agenda := s.plan, turn := s.turn + 1 }

/-- The line of an instruction, alone: its head, a nop behind it, its tail at the end (R42). -/
def fetchLineOf (h : BitVec 16) (t : Word) : Nat :=
  0x1000 + h.toNat * 2 ^ 16 + 0x0400 * 2 ^ 32 + (match tailParcels (h.extractLsb' 0 2) with
    | 0 => 0
    | n => t.toNat % 2 ^ (16 * n) * 2 ^ (512 - 16 * n))

/-- The state with one instruction where the next step fetches: context 1 on core 512 and slice 128, its thread in slot 0
READY at head 1 of the slice's first line, whose page the PLB and whose line the line buffers hold (log entry 9). -/
def State.withFetchWord (s : State) (nbits w : Nat) : State :=
  let h := BitVec.ofNat 16 (w / 2 ^ (nbits - 16))
  let t := Word.ofNat (w % 2 ^ (nbits - 16))
  let pc := Word.ofNat (sramBase + 2)
  let th : Thread := { pc := pc }
  let core : Core := { ctx := some 1, slots := [(0, th)], ilb := [sramBase / 64],
                       plb := [{ base := sramBase, size := 2 ^ 17, domain := 0, rights := 0x1F#8 }] }
  let x : Ctx := { cores := [512], slices := [128], rights := [(0, 0x1F#8)] }
  { (s.write (sramAt 128 0) 64 (fetchLineOf h t)) with
    agenda := [.cycle 512]
    cores := Tab.set s.cores 512 core
    ctxs := Tab.set s.ctxs 1 x
    watch := ⟨.active, none⟩
    boot := { s.boot with phase := if s.boot.phase = .held then .rom else s.boot.phase }
    heel := { s.heel with freeze := .none }
    fencedBlocks := s.fencedBlocks.filter (· != sramAt 128 0 / 4096) }

end Sys2Proof.Machine
end

