-- ==== Sys2Proof/Safety.lean ====
section
/-! DEFINITION. The words of the statements: the invariant of the model, the thread that issues, its operand fields at hand,
the line it goes on in, and the state in which its instruction has completed (R18-R21, R32-R37). -/

namespace Sys2Proof.Machine

/-- The form of memory: cells rising with no zero byte listed, empty words rising (log entry 4). -/
def State.Inv (s : State) : Prop := Mem.wf s.mem = true ∧ NatSet.okFrom 0 s.empties = true

/-- Thread `t` of core `c`, slot `k` issues an instruction whose guard reads 1; it is not in the debugger's step mode, and
no earlier attempt of the instruction has entered the next line or reserved an engine entry. -/
structure Issues (s : State) (c k : Nat) (t : Thread) (g : Guard) : Prop where
  cur : s.cur = some (c, k)
  here : s.thread c k = some t
  guard : Exec.pget t g = true
  step : t.step = false
  entered : t.entered = none
  held : t.heldEntry = none

/-! ### Register fields (R18-R21) -/

/-- The channel a register field names for reading or writing: `some none` for a field that needs no word, none for a port
that is not bound so, or any port or link of a paired thread. -/
def fieldChan (t : Thread) (wr : Bool) : Reg → Option (Option Chan)
  | .x n => if t.twin.isSome then none else match t.ports[n.val] with
    | some b => if b.wr = wr then some (some (.queue b.queue)) else none
    | none => none
  | .lw => if t.twin.isSome then none else some (some .west)
  | .le => if t.twin.isSome then none else some (some .east)
  | _ => some none

/-- A link toward a row end (R21). -/
def rowEndAt (s : State) (c : Nat) (ch : Chan) : Bool :=
  ch == .west && (Exec.linkEnd s c false).isNone || ch == .east && (Exec.linkEnd s c true).isNone

/-- How often a channel stands in a list. -/
def uses (l : List Chan) (ch : Chan) : Nat := (l.filter (· == ch)).length

/-- Every port and link among the sources has its words, every one among the destinations its room, none is a row end. -/
def fieldsReady (s : State) (c k : Nat) (t : Thread) (srcs dsts : List Reg) : Bool :=
  match srcs.mapM (fieldChan t false), dsts.mapM (fieldChan t true) with
  | some rd, some wr =>
    let pops := rd.filterMap id
    let rooms := wr.filterMap id
    rooms.all (fun ch => !rowEndAt s c ch)
      && pops.all (fun ch => decide (uses pops ch ≤ (Exec.present s c k ch).length))
      && rooms.all (fun ch => decide (uses rooms ch ≤ Exec.room s c k ch))
  | _, _ => false

/-- One source field: its value, and the state with its word taken. -/
def takeField (c k : Nat) (t : Thread) (acc : List Word × State) (r : Reg) : List Word × State :=
  match fieldChan t false r with
  | some (some ch) => (acc.1 ++ [(Exec.present acc.2 c k ch).headD 0], Exec.popChan acc.2 c ch)
  | _ => (acc.1 ++ [Exec.regVal t r], acc.2)

/-- The values of source fields in their order, and the state with the words of ports and links taken. -/
def takeFields (s : State) (c k : Nat) (t : Thread) (srcs : List Reg) : List Word × State :=
  srcs.foldl (takeField c k t) ([], s)

/-- Write a destination field: a general register, nothing for z, a word pushed for a port or link. -/
def putField (c : Nat) (d : Reg) (w : Word) (p : State × Thread) : State × Thread :=
  match d with
  | .g n => (p.1, { p.2 with g := p.2.g.set n w })
  | .z => p
  | d => match fieldChan p.2 true d with
    | some (some ch) => (Exec.pushChan p.1 c ch w, p.2)
    | _ => p

/-! ### Going on (R32, R36, R187) -/

/-- The pc of the next head in program order. -/
def nextHead (t : Thread) : Word :=
  let n := match t.line with
    | some l => Exec.headCount l.bytes
    | none => Exec.headIdx t.pc + 1
  if Exec.headIdx t.pc < n then Word.ofNat (Exec.lineNum t.pc * 64 + 2 * (Exec.headIdx t.pc + 1))
  else Word.ofNat ((Exec.lineNum t.pc + 1) * 64 + 2)

/-- The number an address has in the PLB and in the store buffer: its alias resolved (R227). -/
def State.keyOf (s : State) (c : Nat) (a : Word) : Nat := plbKey ((s.ctx (s.ctxOf c)).getD {}).tenant a

/-- The PLB entry that the checks of an instruction find for an address, and the state with it used: the one an earlier attempt
of the instruction has found, for its checks are made once, or that of the PLB (R236, R237). -/
def entryAt (s : State) (c : Nat) (t : Thread) (a : Word) : Option (PlbEntry × State) :=
  match t.filled.find? fun f => f.1 == s.keyOf c a / 2 ^ 17 with
  | some (_, some e) => some (e, s)
  | some (_, none) => none
  | none => (plbFind (s.core c).plb (s.keyOf c a)).map fun e => (e, s.updCore c fun k => { k with plb := plbTouch k.plb e })

/-- The line `n` at a checked place, as the thread has it: one that a line fetch has brought, or one that the line buffers hold
(R187). -/
def lineHeld (s : State) (c : Nat) (t : Thread) (p : Place) (n : Nat) : Option Line :=
  match t.fetched with
  | some (.line l) => if l.num = n then some l else none
  | some (.refused _ _) => none
  | none => if (s.core c).ilb.contains n then match Exec.lineBytes s p with
      | some (.ok b) => some ⟨n, b⟩
      | _ => none
    else none

/-- A line that can be entered without waiting, with the right X, and the state with the PLB entry used (R36, R37, R187). -/
def bufferedLine (s : State) (c : Nat) (t : Thread) (n : Nat) : Option (Line × State) :=
  let a := Word.ofNat (n * 64)
  if t.fenceLeft ≠ 0 then none else
  match s.mapCheck c ((s.ctx (s.ctxOf c)).getD {}) a with
  | .error _ => none
  | .ok p =>
    let checked : Option State := match p with
      | .mgmt _ => some s
      | _ => match entryAt s c t a with
        | some (e, s1) => if e.rights &&& rX = rX then some s1 else none
        | none => none
    match checked, lineHeld s c t p n with
    | some s1, some l => if Exec.lineOk l.bytes then some (l, s1) else none
    | _, _ => none

/-- The line of a pc that a thread enters without waiting, and the state after it: the line it has entered, or one that the
line buffers hold. None where the entry waits or faults. -/
def lineAt (s : State) (c : Nat) (t : Thread) (pc : Word) : Option (Line × State) :=
  if pc.getLsbD 0 ∨ Exec.headIdx pc = 0 then none else
  let found := match t.line with
    | some l => if l.num = Exec.lineNum pc then some (l, s) else bufferedLine s c t (Exec.lineNum pc)
    | none => bufferedLine s c t (Exec.lineNum pc)
  match found with
  | some (l, s') => if Exec.headIdx pc ≤ Exec.headCount l.bytes then some (l, s') else none
  | none => none

/-- The state in which thread `t` has completed its instruction and stands at `pc` in line `l`, to issue `lat` cycles later. -/
def retired (s : State) (c k : Nat) (t : Thread) (pc : Word) (l : Line) (lat : Nat) : State :=
  s.setThread c k (Exec.Thread.done t pc l ((s.core c).cycle + lat))

/-- Executing `i` parks its thread with its registers as they were; from cycle `at_` of its core on, and not before, its result is
written: the thread is then `t'`, ready at `pc` (R101, R139). -/
def CompletesAt (i : Instr) (s : State) (c k : Nat) (t' : Thread) (pc : Word) (l : Line) (at_ : Nat) : Prop :=
  ∃ s1 t t1, exec i s = .next s1 ∧ s.thread c k = some t ∧ s1.thread c k = some t1
    ∧ t1.g = t.g ∧ t1.v = t.v ∧ t1.fpctl = t.fpctl ∧ t1.pc = t.pc ∧ t1.run = .parked .unit 0 0
    ∧ (∀ n, at_ ≤ n → ∃ s2, exec (.dividerComplete c k) (s1.updCore c fun x => { x with cycle := n }) = .next s2
      ∧ s2.thread c k = some (Exec.Thread.done { t' with pending := none } pc l at_))
    ∧ (∀ n, n < at_ → exec (.dividerComplete c k) (s1.updCore c fun x => { x with cycle := n })
      = .refused (.cannotOccur "DIVIDER_COMPLETE"))

/-- Executing `i` completes: whatever line of `pc` is at hand in the state and thread `p` its effect has made, exec answers
the state in which the thread stands there; an instruction with L above 16 parks, and stands there L cycles later (R101). -/
def Completes (i : Instr) (s : State) (c k : Nat) (p : State × Thread) (pc : Word) (lat : Nat) : Prop :=
  ∀ l s', lineAt p.1 c p.2 pc = some (l, s') →
    if lat ≤ 16 then exec i s = .next (retired s' c k p.2 pc l lat)
    else CompletesAt i s c k p.2 pc l ((s'.core c).cycle + lat)

/-- Thread `t` issues an instruction whose guard reads 1, at its first attempt or a later one, and has the line of its next head
at hand: entered by an earlier attempt, or the line it stands in. -/
structure Continues (s : State) (c k : Nat) (t : Thread) (g : Guard) (l : Line) : Prop where
  cur : s.cur = some (c, k)
  here : s.thread c k = some t
  guard : Exec.pget t g = true
  step : t.step = false
  line : t.entered = some (nextHead t, l) ∨ (t.entered = none ∧ t.line = some l ∧ l.num = Exec.lineNum (nextHead t))
  fits : Exec.headIdx (nextHead t) ≤ Exec.headCount l.bytes

/-- Functions of one, two or three source values. -/
def op1 {α : Type} (f : Word → α) (v : List Word) : α := f (v.headD 0)
def op2 {α : Type} (f : Word → Word → α) (v : List Word) : α := f (v.headD 0) ((v.drop 1).headD 0)
def op3 {α : Type} (f : Word → Word → Word → α) (v : List Word) : α := f (v.headD 0) ((v.drop 1).headD 0) ((v.drop 2).headD 0)

/-- Source fields read, a function of their values written to `d`. -/
def result (s : State) (c k : Nat) (t : Thread) (srcs : List Reg) (d : Reg) (f : List Word → Word) : State × Thread :=
  let r := takeFields s c k t srcs
  putField c d (f r.1) (r.2, t)

/-- The same for a function that also sets flags of fpctl (R22). -/
def resultF (s : State) (c k : Nat) (t : Thread) (srcs : List Reg) (d : Reg) (f : List Word → Word × Flags) : State × Thread :=
  let r := takeFields s c k t srcs
  putField c d (f r.1).1 (r.2, { t with fpctl := t.fpctl ||| (f r.1).2.word })

/-- Source fields read, a predicate written; p0 discards it (R15). -/
def resultP (s : State) (c k : Nat) (t : Thread) (srcs : List Reg) (d : PReg) (f : List Word → Bool) : State × Thread :=
  let r := takeFields s c k t srcs
  (r.2, { t with pred := Exec.setPred t.pred d (f r.1) })

/-- An operation on values of a type that lie in the low bits of registers (R75, R116), with its flags. -/
def fpOp2 (ty : Ty) (f : Nat → Nat → Nat × Flags) (x y : Word) : Word × Flags :=
  (Word.ofNat (f (ty.low x) (ty.low y)).1, (f (ty.low x) (ty.low y)).2)
def fpOp3 (ty : Ty) (f : Nat → Nat → Nat → Nat × Flags) (x y z : Word) : Word × Flags :=
  (Word.ofNat (f (ty.low x) (ty.low y) (ty.low z)).1, (f (ty.low x) (ty.low y) (ty.low z)).2)

/-- A comparison of two registers as values of a type: a predicate and flags (R117). -/
def resultPF (s : State) (c k : Nat) (t : Thread) (srcs : List Reg) (d : PReg) (f : List Word → Bool × Flags) : State × Thread :=
  let r := takeFields s c k t srcs
  (r.2, { t with fpctl := t.fpctl ||| (f r.1).2.word, pred := Exec.setPred t.pred d (f r.1).1 })

/-- Executing `i` takes a trap with a code at the instruction itself (R369). -/
def TrapsWith (i : Instr) (s : State) (c k : Nat) (t : Thread) (code : Byte) (addr : Word) : Prop :=
  exec i s = .next (s.takeTrap c k { code := code, pc := t.pc, rpc := t.pc, addr := addr })

/-- Executing `i` completes after it has entered the next line: `p` is the state and thread at that entry, and `u` what the
instruction then does to the state and the thread (R32, R33). -/
def CompletesAfter (i : Instr) (s : State) (c k : Nat) (p : State × Thread) (u : State → State × Thread) (lat : Nat) : Prop :=
  ∀ l s', lineAt p.1 c p.2 (nextHead p.2) = some (l, s') →
    exec i s = .next (retired (u s').1 c k (u s').2 (nextHead p.2) l lat)

/-- Executing `i` parks the thread on a wait: its pc, its general registers and memory stay as they are (R24, R32). -/
def Parks (i : Instr) (s : State) (c k : Nat) (t : Thread) (w : Wait) : Prop :=
  ∃ s' t' lim n, exec i s = .next s' ∧ s'.thread c k = some t' ∧ t'.run = .parked w lim n ∧ t'.pc = t.pc ∧ t'.g = t.g ∧ s'.mem = s.mem

/-- The instruction a thread stands at, executed for it, gives `s'` (R32). -/
def Reissues (s : State) (c k : Nat) (s' : State) : Prop :=
  ∃ t o r, s.thread c k = some t ∧ t.refusal = none ∧ t.poisoned = false ∧ t.decoded = some (.ok (o, r))
    ∧ exec (o.instr r) { s with cur := some (c, k) } = .next s'

/-! ### Stops (R368, R369) -/

/-- What a stop leaves of a thread: it stands stopped as it was, what its instruction held apart, with its registers and its store
buffer (R163, R369). -/
def Stopped (t' t : Thread) (run : Run) : Prop :=
  t'.run = run ∧ t'.pc = t.pc ∧ t'.g = t.g ∧ t'.v = t.v ∧ t'.m = t.m ∧ t'.pred = t.pred ∧ t'.fpctl = t.fpctl ∧ t'.line = t.line
    ∧ t'.streams = t.streams ∧ t'.ports = t.ports ∧ t'.sb = t.sb ∧ t'.outst = t.outst

/-- The record of a stop that the device has written at `a`, and nothing else of memory changed: what it shows of thread `t` of context
`n` on core `c`, slot `k` (R368). -/
def RecordShows (s' s : State) (a n c k : Nat) (t : Thread) (st : Stop) (type : Nat) : Prop :=
  s'.word a = fields [(st.seq.toNat, 48), (st.code.toNat, 40), (type, 36), (st.imp.toNat, 35), (if t.outst = 0 then 1 else 0, 34), (n, 16)]
    ∧ s'.word (a + 0x08) = fields [(s.ownChip, 60), (islandOf c, 59), (clusterOf c, 52), (quadOf c, 44), (c, 34), (k, 30)]
    ∧ s'.word (a + 0x10) = st.pc ∧ s'.word (a + 0x18) = st.addr
    ∧ s'.word (a + 0x20) = fields [(t.tid.toNat, 32), (st.jobid.toNat, 16), (st.junit, 14), (st.jstate, 12), (st.tile, 8), (st.ecode.toNat, 0)]
    ∧ s'.word (a + 0x28) = s.time
    ∧ (∀ i : Fin 24, s'.word (a + 0x40 + 8 * i.val) = t.g[i])
    ∧ s'.word (a + 0x100) = t.pred.zeroExtend 64 ∧ s'.word (a + 0x108) = t.fpctl ∧ s'.word (a + 0x110) = Word.ofNat t.wlim
    ∧ s'.word (a + 0x118) = st.rpc
    ∧ (∀ i, (i = 6 ∨ i = 7 ∨ 36 ≤ i ∧ i < 64) → s'.word (a + 8 * i) = 0)
    ∧ ∀ b, (b < a ∨ a + 512 ≤ b) → s'.byte b = s.byte b

/-- The record of a notice that the device has written at `a`: it names no thread and shows no thread state, and nothing else of memory
changed (R368). -/
def NoticeShows (s' s : State) (a n c : Nat) (st : Stop) : Prop :=
  s'.word a = fields [(st.seq.toNat, 48), (st.code.toNat, 40), (st.type, 36), (st.imp.toNat, 35), (1, 34), (n, 16)]
    ∧ s'.word (a + 0x08) = fields [(s.ownChip, 60), (islandOf c, 59), (clusterOf c, 52), (quadOf c, 44), (c, 34), (15, 30)]
    ∧ s'.word (a + 0x10) = st.pc ∧ s'.word (a + 0x18) = st.addr
    ∧ s'.word (a + 0x20) = fields [(0, 32), (st.jobid.toNat, 16), (st.junit, 14), (st.jstate, 12), (st.tile, 8), (st.ecode.toNat, 0)]
    ∧ s'.word (a + 0x28) = s.time
    ∧ (∀ i, 6 ≤ i → i < 64 → s'.word (a + 8 * i) = 0)
    ∧ ∀ b, (b < a ∨ a + 512 ≤ b) → s'.byte b = s.byte b

/-! ### Accesses (R29, R121, R122, R226, R235) -/

/-- An address that is mapped and whose PLB entry gives the needed rights: its place, and the state with the entry used. -/
def accessAt (s : State) (c : Nat) (t : Thread) (a : Word) (need : Byte) : Option (Place × State) :=
  match s.mapCheck c ((s.ctx (s.ctxOf c)).getD {}) a with
  | .error _ => none
  | .ok (.mgmt off) => some (.mgmt off, s)
  | .ok p => match entryAt s c t a with
    | some (e, s1) => if e.rights &&& need = need then some (p, s1) else none
    | none => none

/-- Several addresses, one after another. -/
def accessesAt (s : State) (c : Nat) (t : Thread) : List (Word × Byte) → Option (List Place × State)
  | [] => some ([], s)
  | (a, need) :: l => match accessAt s c t a need with
    | some (p, s1) => (accessesAt s1 c t l).map fun q => (p :: q.1, q.2)
    | none => none

/-- What load `i` of an instruction, of the bytes `en` among `n` from a checked address finds: the answer it was sent; else, in the
own quad slice, the youngest buffered store that has one of the bytes, where it has all of them, or memory. Any other place is
asked (R101). None where it waits or faults. -/
def loaded (s : State) (c : Nat) (t : Thread) (a : Word) (n : Nat) (en : BitVec 64) (p : Place) (i : Nat := 0) : Option Vec :=
  match t.replies[i]? with
  | some (.val v) => some v
  | some (.err _) => none
  | none => if t.twin.isSome then none else match p with
    | .sram q => if q / 2 ^ 21 ≠ quadOf c then none else
      match t.sb.reverse.find? fun e => (Exec.SbEntry.hits (s.keyOf c a) en e).1 with
      | some e => if (Exec.SbEntry.hits (s.keyOf c a) en e).2 then some (Exec.SbEntry.from (s.keyOf c a) e) else none
      | none => if s.fencedAt q then none else some (BitVec.ofNat 512 (s.read q n))
    | _ => none

/-- What several loads find whose elements are each asked: the answers of earlier attempts, in their order (R101, R124). -/
def answeredAll : List Word → List Reply → Option (List Vec)
  | [], _ => some []
  | _ :: l, .val v :: rs => (answeredAll l rs).map (v :: ·)
  | _, _ => none

/-- The address under which a load outside the own quad slice is asked, and where its request stands when it enters the network:
answered by the buffer or the register it reads, or on its way. None where it waits for the buffer first (R101, R121, R122). -/
def askedAs (s : State) (c : Nat) (t : Thread) (a : Word) (n : Nat) (en : BitVec 64) (p : Place) : Option (Word × ReqState) :=
  match t.sb.reverse.find? fun e => (Exec.SbEntry.hits (s.keyOf c a) en e).1 with
  | some e => if (Exec.SbEntry.hits (s.keyOf c a) en e).2
      then some (Word.ofNat (s.keyOf c a), .answered (.val (Exec.SbEntry.from (s.keyOf c a) e))) else none
  | none => match p with
    | .sram _ => some (Word.ofNat (s.keyOf c a), .queued)
    | .paged q => some (q, .queued)
    | .mgmt off => match s.winFar off with
      | some q => some (q, .queued)
      | none => some (Word.ofNat (s.keyOf c a), .answered (.val (s.regBytes true off n)))

/-- Executing `i` parks the thread for the answer of a request that it has entered; its registers and memory stay (R24, R32, R101). -/
def Asks (i : Instr) (s : State) (c k : Nat) (t : Thread) (q : Req) : Prop :=
  ∃ s' t' lim n, exec i s = .next s' ∧ s'.thread c k = some t' ∧ t'.run = .parked .request lim n ∧ t'.pc = t.pc ∧ t'.g = t.g
    ∧ s'.mem = s.mem ∧ s'.reqs = Tab.set s.reqs s.nextReq q ∧ s'.nextReq = s.nextReq + 1

/-- Every store of the thread has left it (R251, R409). -/
def Drained (t : Thread) : Prop := t.sb = [] ∧ t.cmpq = []

/-- A release at a scope has nothing to wait for (R255). -/
def Released (t : Thread) : Scope → Prop
  | .core | .die => Drained t
  | .fab => Drained t ∧ t.outst = 0
  | .sys => Drained t ∧ t.outst = 0 ∧ t.hostWrites = false

/-- The latency of a load: 8 from the own quad slice (R101). -/
def loadLat (c : Nat) : Place → Nat
  | .sram q => if q / 2 ^ 21 = quadOf c then 8 else 1
  | _ => 1

/-! ### What an engine instruction checks at issue (R48, R292-R294, R329, R334, R350) -/

/-- The TD wait of an instruction passes at once (R48). -/
def TdReady (s : State) (c : Nat) (td : Td) : Prop :=
  td.wt = 0 ∨ (Tab.getD (s.core c).sems td.ws.toNat {}).p = false ∧ td.wt.toNat ≤ (Tab.getD (s.core c).sems td.ws.toNat {}).v

/-- A span of SRAM within the slices of the context, each of its granules with the right: the state with the PLB used. -/
def spanAt (s : State) (c : Nat) (t : Thread) (lo hi : Int) (need : Byte) : Option State :=
  let x := (s.ctx (s.ctxOf c)).getD {}
  if lo < sramBase ∨ (sramBase + x.slices.length * 2 ^ 21 : Int) ≤ hi ∨ hi < lo ∨ 256 < x.slices.length then none else
    (accessesAt s c t ((List.range (hi.toNat / 2 ^ 17 - lo.toNat / 2 ^ 17 + 1)).map fun i =>
      (Word.ofNat (max lo.toNat ((lo.toNat / 2 ^ 17 + i) * 2 ^ 17)), need))).map (·.2)

/-- Several spans, one after another. -/
def spansAt (c : Nat) (t : Thread) : State → List ((Int × Int) × Byte) → Option State
  | s, [] => some s
  | s, (p, need) :: l => (spanAt s c t p.1 p.2 need).bind fun s => spansAt c t s l

/-- A copy's span, given as runs of bytes, in one row of the address map (R329). -/
def runsAt (s : State) (c : Nat) (t : Thread) (runs : List (Int × Nat)) (need : Byte) : Option State :=
  let row := spanRow (Word.ofInt (runs.headD (0, 1)).1)
  let first := fun (r : Int × Nat) => (Word.ofInt r.1).toNat
  if row.isNone ∨ (runs.any fun r => decide (spanRow (Word.ofInt r.1) ≠ row) || decide (spanRow (Word.ofInt (r.1 + r.2 - 1)) ≠ row)
      || decide ((Word.ofInt (r.1 + r.2 - 1)).toNat < first r)) then none
  else if row = some 3 then
    if runs.all fun r => decide (first r + r.2 ≤ sramBase + ((s.ctx (s.ctxOf c)).getD {}).slices.length * 2 ^ 21) then
      spansAt c t s (runs.map fun r => (((first r : Int), (first r : Int) + r.2 - 1), need))
    else none
  else some s

/-- The operands of a KSE instruction: address, alignment, bytes checked, right needed (R350). -/
def operandsAt (s : State) (c : Nat) (t : Thread) (l : List (Word × Nat × Nat × Byte)) : Option State :=
  if l.all fun o => decide (o.1.toNat % o.2.1 = 0) && (spanRow o.1).isSome && decide (spanRow (o.1 + Word.ofNat (o.2.2.1 - 1)) = spanRow o.1) then
    spansAt c t s ((l.filter fun o => decide (spanRow o.1 = some 3) && decide (o.2.2.1 ≠ 0)).map fun o =>
      (((o.1.toNat : Int), (o.1.toNat : Int) + o.2.2.1 - 1), o.2.2.2))
  else none

/-- Bytes of an aligned record, the `i`-th that the instruction reads; none for one in management space. -/
def recordAt (s : State) (c : Nat) (t : Thread) (a : Word) (n : Nat) (i : Nat := 0) : Option (Vec × State) :=
  if a.toNat % n ≠ 0 then none else match accessAt s c t a rR with
    | some (.mgmt _, _) | none => none
    | some (p, s1) => (loaded s1 c t a n (Exec.firstBytes n) p i).map fun v => (v, s1)

/-- The matrix record a field names, the `i`-th that the instruction reads; none where it has no such field. -/
def shapeAt (s : State) (c : Nat) (t : Thread) (i : Nat) : Option Word → Option (Shape × State)
  | none => some (.ofWords 0 0 0 0, s)
  | some a => (recordAt s c t a 32 i).map fun p =>
    (.ofWords (p.1.extractLsb' 0 64) (p.1.extractLsb' 64 64) (p.1.extractLsb' 128 64) (p.1.extractLsb' 192 64), p.2)

/-! ### Vectors (R16, R134, R135) -/

/-- Vector registers that are no streams. -/
def plainRegs (t : Thread) (l : List VReg) : Prop := ∀ v ∈ l, streamOf t v = none

/-- `w` holds the results of `f` in the elements that a mask makes active, and `old` elsewhere (R134). -/
def Merged (ty : Ty) (mask : Word) (old w : Vec) (f : Nat → Nat × Flags) : Prop :=
  ∀ i, i < ty.count → elem ty w i = if mask.getLsbD i then (f i).1 % 2 ^ ty.width else elem ty old i

/-- The flags of the active elements (R134). -/
def activeFlags (ty : Ty) (mask : Word) (f : Nat → Nat × Flags) : Flags :=
  Flags.all ((List.range ty.count).map fun i => if mask.getLsbD i then (f i).2 else .none)

/-- The thread with a vector register written and flags set. -/
def withVector (t : Thread) (d : VReg) (w : Vec) (fl : Flags) : Thread :=
  { t with v := t.v.setIfInBounds d.toNat w, fpctl := t.fpctl ||| fl.word }

/-- Executing `i` writes to the plain vector register `d` the results of `f` in its active elements and keeps the others, sets
the flags of the active ones, and completes. `s1` is the state with its scalar sources read. -/
def VectorResult (i : Instr) (s : State) (c k : Nat) (t : Thread) (s1 : State) (d : VReg) (ty : Ty) (mask : Word)
    (f : Nat → Nat × Flags) (lat : Nat) : Prop :=
  ∃ w, Merged ty mask (vget t d) w f ∧ Completes i s c k (s1, withVector t d w (activeFlags ty mask f)) (nextHead t) lat

/-! ### Streams as operands (R135, R136, R155) -/

/-- A vector source field: the value of a register, or the next vector of its read stream, which goes on by one; the zero vector once
it is exhausted. -/
def takeVec (acc : List VIn × Thread) (r : VReg) : List VIn × Thread :=
  match streamOf acc.2 r with
  | none => (acc.1 ++ [.val (vget acc.2 r)], acc.2)
  | some st =>
    if st.pos < st.total then
      (acc.1 ++ [.mem (st.addr st.pos) st.ahead.head?], acc.2.setStream r (some { st with pos := st.pos + 1, ahead := st.ahead.drop 1 }))
    else (acc.1 ++ [.val 0], acc.2.setStream r (some { st with ovr := true }))

/-- The values of vector sources, `i` of which have been read: a vector of a stream as an earlier attempt had it, or as it was read ahead,
or as a load of its address finds it. -/
def vecValues (s : State) (c : Nat) (t : Thread) : Nat → List VIn → List Place → Option (List Vec)
  | _, [], _ => some []
  | i, .val v :: l, ps => (vecValues s c t i l ps).map (v :: ·)
  | i, .mem a ahead :: l, p :: ps =>
    (match t.replies[i]?, ahead with
    | none, some v => some v
    | _, _ => loaded s c t a 64 (Exec.firstBytes 64) p i).bind fun v => (vecValues s c t (i + 1) l ps).map (v :: ·)
  | _, .mem _ _ :: _, [] => none

/-- Vector sources whose vectors are at hand: their values, the thread with the streams gone on, and the state with the PLB used. None
where one waits or traps. -/
def takeVecs (s : State) (c : Nat) (t : Thread) (srcs : List VReg) : Option (List Vec × Thread × State) :=
  let q := srcs.foldl takeVec ([], t)
  let reads := q.1.filterMap Exec.VIn.check
  if (srcs.any fun r => (streamOf t r).any (·.wr)) ∨ (reads.any fun x => decide (x.1.toNat % 64 ≠ 0)) then none else
  (accessesAt s c t (reads.map fun x => (x.1, rR))).bind fun p => (vecValues p.2 c t 0 q.1 p.1).map fun vs => (vs, q.2, p.2)

/-- Executing `i`, whose vector sources are at hand in the state `s1` in which its scalar sources are read, writes the results of `f` in
the active elements: to a register, or as one entry of the store buffer at the next address of a write stream, which goes on by one
whatever the mask. -/
def StreamResult (i : Instr) (s : State) (c k : Nat) (t : Thread) (s1 : State) (d : VReg) (srcs : List VReg) (ty : Ty) (mask : Word)
    (f : List Vec → Nat → Nat × Flags) (lat : Nat) : Prop :=
  ∀ vs t1 s2, takeVecs s1 c t srcs = some (vs, t1, s2) →
    let fl := (activeFlags ty mask (f vs)).word
    let en := enables ty mask
    (streamOf t d = none → ∃ w, Merged ty mask (vget t d) w (f vs)
      ∧ Completes i s c k (s2, withVector t1 d w (activeFlags ty mask (f vs))) (nextHead t) lat)
    ∧ ∀ st, streamOf t d = some st → st.wr = true →
      (st.total ≤ st.pos → Completes i s c k (s2, { t1.setStream d (some { st with ovr := true }) with fpctl := t.fpctl ||| fl }) (nextHead t) lat)
      ∧ (st.pos < st.total → en = 0 →
        Completes i s c k (s2, { t1.setStream d (some { st with pos := st.pos + 1 }) with fpctl := t.fpctl ||| fl }) (nextHead t) lat)
      ∧ (st.pos < st.total → en ≠ 0 → t.sb.length < 8 → ∀ p s3, (st.addr st.pos).toNat % 64 = 0 →
        accessAt s2 c t (st.addr st.pos) rW = some (p, s3) →
        ∃ v : Vec, (∀ j, j < ty.count → mask.getLsbD j = true → elem ty v j = (f vs j).1 % 2 ^ ty.width)
          ∧ Completes i s c k (s3, { t1.setStream d (some { st with pos := st.pos + 1 }) with
              fpctl := t.fpctl ||| fl, sb := t.sb ++ [.store (Word.ofNat (s3.keyOf c (st.addr st.pos))) v en (st.addr st.pos)] }) (nextHead t) lat)

end Sys2Proof.Machine
end

