-- ==== Sys2Proof/Certificates/Slice0/Obligations.lean ====
section
/-! DEFINITION. The statements for the provers. Each docstring names the rules of spec/ it formalises; a statement that rests
on a choice of the model names the log entry. -/

open Sys2Proof Sys2Proof.Machine

/-! ### Scalar instructions -/

/-- R103, R105, R108, R101: register-register arithmetic and logic, sel, the multiplies and lea complete with the result
of their rule in the destination, one cycle later (four for the multiplies), and change nothing else. That a multiply which names a port or link takes four
cycles too is the model's choice (DESIGN CHOICE, log entry 65). -/
def Obligations.AluRegisterForms : Prop :=
  ∀ (s : State) (c k : Nat) (t : Thread) (g : Guard) (d a b : Reg), Issues s c k t g →
    fieldsReady s c k t [a, b] [d] = true →
    let done := fun (i : Instr) (f : Word → Word → Word) (lat : Nat) =>
      Completes i s c k (result s c k t [a, b] d (op2 f)) (nextHead t) lat
    done (.add g d a b) (fun x y => x + y) 1
    ∧ done (.sub g d a b) (fun x y => x - y) 1
    ∧ done (.land g d a b) (fun x y => x &&& y) 1
    ∧ done (.lor g d a b) (fun x y => x ||| y) 1
    ∧ done (.lxor g d a b) (fun x y => x ^^^ y) 1
    ∧ done (.andn g d a b) (fun x y => x &&& ~~~y) 1
    ∧ done (.shl g d a b) (fun x y => x <<< (y.toNat % 64)) 1
    ∧ done (.shr g d a b) (fun x y => x >>> (y.toNat % 64)) 1
    ∧ done (.sar g d a b) (fun x y => x.sshiftRight (y.toNat % 64)) 1
    ∧ done (.rol g d a b) (fun x y => (x <<< (y.toNat % 64)) ||| (x >>> (64 - y.toNat % 64))) 1
    ∧ done (.min g d a b) (fun x y => if x.toInt < y.toInt then x else y) 1
    ∧ done (.max g d a b) (fun x y => if y.toInt < x.toInt then x else y) 1
    ∧ done (.minu g d a b) (fun x y => if x.toNat < y.toNat then x else y) 1
    ∧ done (.maxu g d a b) (fun x y => if y.toNat < x.toNat then x else y) 1
    ∧ (∀ p : PReg, done (.sel g d a b p) (fun x y => if p = 0 ∨ t.pred.getLsbD p.toNat = true then x else y) 1)
    ∧ done (.mul g d a b) (fun x y => x * y) 4
    ∧ done (.mulh g d a b) (fun x y => ((x.signExtend 128 * y.signExtend 128) >>> 64).setWidth 64) 4
    ∧ done (.mulhu g d a b) (fun x y => ((x.zeroExtend 128 * y.zeroExtend 128) >>> 64).setWidth 64) 4
    ∧ (∀ (n : BitVec 2) (disp : BitVec 11),
        done (.lea g d a b n disp) (fun x y => x + (y <<< n.toNat) + disp.signExtend 64) 1)

/-- R103, R74: the saturating forms write the exact result clamped to the range, and set SAT in fpctl exactly when the
clamp changed it. R103, R111, R112: the immediate forms, li and mov. -/
def Obligations.ImmediateForms : Prop :=
  (∀ (s : State) (c k : Nat) (t : Thread) (g : Guard) (d a b : Reg) (imm : BitVec 21), Issues s c k t g →
      let sat : Flags := { sat := true }
      let signed := fun (v : Int) => if v < -2 ^ 63 then (Word.ofInt (-2 ^ 63), sat) else if 2 ^ 63 - 1 < v
        then (Word.ofInt (2 ^ 63 - 1), sat) else (Word.ofInt v, Flags.none)
      let unsigned := fun (v : Int) => if v < 0 then (0, sat) else if 2 ^ 64 - 1 < v
        then (BitVec.allOnes 64, sat) else (Word.ofInt v, Flags.none)
      let two := fun (i : Instr) (f : Word → Word → Word × Flags) =>
        fieldsReady s c k t [a, b] [d] = true → Completes i s c k (resultF s c k t [a, b] d (op2 f)) (nextHead t) 1
      let one := fun (i : Instr) (f : Word → Word × Flags) =>
        fieldsReady s c k t [a] [d] = true → Completes i s c k (resultF s c k t [a] d (op1 f)) (nextHead t) 1
      two (.addSat g d a b) (fun x y => signed (x.toInt + y.toInt))
      ∧ two (.subSat g d a b) (fun x y => signed (x.toInt - y.toInt))
      ∧ two (.addSatu g d a b) (fun x y => unsigned ((x.toNat : Int) + y.toNat))
      ∧ two (.subSatu g d a b) (fun x y => unsigned ((x.toNat : Int) - y.toNat))
      ∧ one (.addSatImm g d a imm) (fun x => signed (x.toInt + imm.toInt))
      ∧ one (.addSatuImm g d a imm) (fun x => unsigned ((x.toNat : Int) + imm.toNat)))
  ∧ (∀ (s : State) (c k : Nat) (t : Thread) (g : Guard) (d a : Reg), Issues s c k t g →
      (fieldsReady s c k t [a] [d] = true →
        let done := fun (i : Instr) (f : Word → Word) => Completes i s c k (result s c k t [a] d (op1 f)) (nextHead t) 1
        (∀ imm : BitVec 21,
          let se : Word := imm.signExtend 64
          let ze : Word := imm.zeroExtend 64
          done (.addImm g d a imm) (fun x => x + se)
          ∧ done (.landImm g d a imm) (fun x => x &&& se)
          ∧ done (.lorImm g d a imm) (fun x => x ||| se)
          ∧ done (.lxorImm g d a imm) (fun x => x ^^^ se)
          ∧ done (.andnImm g d a imm) (fun x => x &&& ~~~se)
          ∧ done (.minImm g d a imm) (fun x => if x.toInt < se.toInt then x else se)
          ∧ done (.maxImm g d a imm) (fun x => if se.toInt < x.toInt then x else se)
          ∧ done (.minuImm g d a imm) (fun x => if x.toNat < ze.toNat then x else ze)
          ∧ done (.maxuImm g d a imm) (fun x => if ze.toNat < x.toNat then x else ze))
        ∧ (∀ n : BitVec 6,
          done (.shlImm g d a n) (fun x => x <<< n.toNat)
          ∧ done (.shrImm g d a n) (fun x => x >>> n.toNat)
          ∧ done (.sarImm g d a n) (fun x => x.sshiftRight n.toNat)
          ∧ done (.rolImm g d a n) (fun x => (x <<< n.toNat) ||| (x >>> (64 - n.toNat))))
        ∧ done (.mov g d a) (fun x => x))
      ∧ (fieldsReady s c k t [] [d] = true →
        let put := fun (i : Instr) (w : Word) => Completes i s c k (result s c k t [] d (fun _ => w)) (nextHead t) 1
        (∀ imm : BitVec 16, put (.li g d imm) (imm.signExtend 64))
        ∧ (∀ imm : BitVec 32, put (.liI32 g d imm) (imm.signExtend 64))
        ∧ (∀ imm : Word, put (.liTe g d imm) imm)))

/-- R106, R107: counting, byte order, extension, and bit fields. -/
def Obligations.BitForms : Prop :=
  ∀ (s : State) (c k : Nat) (t : Thread) (g : Guard) (d a : Reg), Issues s c k t g →
    (fieldsReady s c k t [a] [d] = true →
      let done := fun (i : Instr) (f : Word → Word) => Completes i s c k (result s c k t [a] d (op1 f)) (nextHead t) 1
      done (.clz g d a) (fun x => if x = 0 then 64 else Word.ofNat (63 - Nat.log2 x.toNat))
      ∧ done (.ctz g d a) (fun x => Word.ofNat (((List.range 64).find? fun i => x.getLsbD i).getD 64))
      ∧ done (.popc g d a) (fun x => Word.ofNat ((List.range 64).countP fun i => x.getLsbD i))
      ∧ done (.bswap g d a) (fun x => x.extractLsb' 0 8 ++ x.extractLsb' 8 8 ++ x.extractLsb' 16 8 ++ x.extractLsb' 24 8
          ++ x.extractLsb' 32 8 ++ x.extractLsb' 40 8 ++ x.extractLsb' 48 8 ++ x.extractLsb' 56 8)
      ∧ done (.sextB g d a) (fun x => (x.extractLsb' 0 8).signExtend 64)
      ∧ done (.sextH g d a) (fun x => (x.extractLsb' 0 16).signExtend 64)
      ∧ done (.sextW g d a) (fun x => (x.extractLsb' 0 32).signExtend 64)
      ∧ done (.zextB g d a) (fun x => (x.extractLsb' 0 8).zeroExtend 64)
      ∧ done (.zextH g d a) (fun x => (x.extractLsb' 0 16).zeroExtend 64)
      ∧ done (.zextW g d a) (fun x => (x.extractLsb' 0 32).zeroExtend 64)
      ∧ (∀ pos len : BitVec 6, pos.toNat + len.toNat < 64 →
          done (.bext g d a pos len) (fun x => (x.extractLsb' pos.toNat (len.toNat + 1)).zeroExtend 64)))
    ∧ (∀ pos len : BitVec 6, fieldsReady s c k t [d, a] [d] = true → pos.toNat + len.toNat < 64 →
      ∃ f : Word → Word → Word, (∀ x y i, i < 64 → (f x y).getLsbD i =
          if pos.toNat ≤ i ∧ i ≤ pos.toNat + len.toNat then x.getLsbD (i - pos.toNat) else y.getLsbD i)
        ∧ Completes (.bins g d a pos len) s c k (result s c k t [d, a] d (op2 fun y x => f x y)) (nextHead t) 1)

/-- R109, R15, R110: compares and predicate operations write one predicate, a write of p0 is discarded, and p0 reads 1. -/
def Obligations.PredicateForms : Prop :=
  ∀ (s : State) (c k : Nat) (t : Thread) (g : Guard) (d : PReg), Issues s c k t g →
    (∀ a b : Reg, fieldsReady s c k t [a, b] [] = true →
      let done := fun (i : Instr) (f : Word → Word → Bool) => Completes i s c k (resultP s c k t [a, b] d (op2 f)) (nextHead t) 1
      done (.cmpEq g d a b) (fun x y => decide (x = y))
      ∧ done (.cmpNe g d a b) (fun x y => decide (x ≠ y))
      ∧ done (.cmpLt g d a b) (fun x y => decide (x.toInt < y.toInt))
      ∧ done (.cmpGe g d a b) (fun x y => decide (y.toInt ≤ x.toInt))
      ∧ done (.cmpLtu g d a b) (fun x y => decide (x.toNat < y.toNat))
      ∧ done (.cmpGeu g d a b) (fun x y => decide (y.toNat ≤ x.toNat))
      ∧ done (.cmpGt g d a b) (fun x y => decide (y.toInt < x.toInt))
      ∧ done (.cmpLe g d a b) (fun x y => decide (x.toInt ≤ y.toInt))
      ∧ done (.cmpGtu g d a b) (fun x y => decide (y.toNat < x.toNat))
      ∧ done (.cmpLeu g d a b) (fun x y => decide (x.toNat ≤ y.toNat))
      ∧ done (.cmpTst g d a b) (fun x y => decide (x &&& y ≠ 0))
      ∧ done (.cmpNtst g d a b) (fun x y => decide (x &&& y = 0)))
    ∧ (∀ (a : Reg) (imm : BitVec 21), fieldsReady s c k t [a] [] = true →
      let done := fun (i : Instr) (f : Word → Bool) => Completes i s c k (resultP s c k t [a] d (op1 f)) (nextHead t) 1
      let se : Word := imm.signExtend 64
      let ze : Word := imm.zeroExtend 64
      done (.cmpEqImm g d a imm) (fun x => decide (x = se))
      ∧ done (.cmpNeImm g d a imm) (fun x => decide (x ≠ se))
      ∧ done (.cmpLtImm g d a imm) (fun x => decide (x.toInt < se.toInt))
      ∧ done (.cmpGeImm g d a imm) (fun x => decide (se.toInt ≤ x.toInt))
      ∧ done (.cmpLtuImm g d a imm) (fun x => decide (x.toNat < ze.toNat))
      ∧ done (.cmpGeuImm g d a imm) (fun x => decide (ze.toNat ≤ x.toNat))
      ∧ done (.cmpGtImm g d a imm) (fun x => decide (se.toInt < x.toInt))
      ∧ done (.cmpLeImm g d a imm) (fun x => decide (x.toInt ≤ se.toInt))
      ∧ done (.cmpGtuImm g d a imm) (fun x => decide (ze.toNat < x.toNat))
      ∧ done (.cmpLeuImm g d a imm) (fun x => decide (x.toNat ≤ ze.toNat))
      ∧ done (.cmpTstImm g d a imm) (fun x => decide (x &&& se ≠ 0))
      ∧ done (.cmpNtstImm g d a imm) (fun x => decide (x &&& se = 0)))
    ∧ (∀ a b : PReg,
      let rd := fun (p : PReg) => decide (p = 0) || t.pred.getLsbD p.toNat
      let done := fun (i : Instr) (x : Bool) => Completes i s c k (s, { t with pred := Exec.setPred t.pred d x }) (nextHead t) 1
      done (.pand g d a b) (rd a && rd b) ∧ done (.por g d a b) (rd a || rd b) ∧ done (.pxor g d a b) (Bool.xor (rd a) (rd b))
      ∧ done (.pnot g d a) (!rd a))
    ∧ (∀ x : Bool, Exec.setPred t.pred 0 x = t.pred
      ∧ ∀ q : PReg, d ≠ 0 → (Exec.setPred t.pred d x).getLsbD q.toNat = if q = d then x else t.pred.getLsbD q.toNat)

/-- R95, R96: a division parks its thread with its registers as they were; from 4 + ⌈s/4⌉ cycles after its issue on, and
not before, DIVIDER_COMPLETE writes the quotient or remainder, and the thread is ready at the next head. -/
def Obligations.DivisionForms : Prop :=
  ∀ (s s' : State) (c k : Nat) (t : Thread) (g : Guard) (d a b : Reg) (l : Line), Issues s c k t g →
    fieldsReady s c k t [a, b] [d] = true →
    let lat := fun (y : Word) (q : Nat) => if y = 0 then 4 else 4 + ((if q = 0 then 0 else Nat.log2 q + 1) + 3) / 4
    let latU := fun (x y : Word) => lat y (x.toNat / y.toNat)
    let latS := fun (x y : Word) => lat y (x.toInt.natAbs / y.toInt.natAbs)
    let done := fun (i : Instr) (f : Word → Word → Word) (lat : Word → Word → Nat) =>
      let p := result s c k t [a, b] d (op2 f)
      let at_ := (s'.core c).cycle + op2 lat (takeFields s c k t [a, b]).1
      lineAt p.1 c p.2 (nextHead t) = some (l, s') →
      ∃ s1, exec i s = .next s1
        ∧ (∃ t1, s1.thread c k = some t1 ∧ t1.g = t.g ∧ t1.pc = t.pc ∧ t1.run = .parked .unit 0 0)
        ∧ (∀ n, at_ ≤ n → ∃ s2, exec (.dividerComplete c k) (s1.updCore c fun x => { x with cycle := n }) = .next s2
            ∧ s2.thread c k = some (Exec.Thread.done { p.2 with pending := none } (nextHead t) l at_))
        ∧ (∀ n, n < at_ → exec (.dividerComplete c k) (s1.updCore c fun x => { x with cycle := n })
            = .refused (.cannotOccur "DIVIDER_COMPLETE"))
    done (.divu g d a b) (fun x y => if y = 0 then BitVec.allOnes 64 else Word.ofNat (x.toNat / y.toNat)) latU
    ∧ done (.remu g d a b) (fun x y => if y = 0 then x else Word.ofNat (x.toNat % y.toNat)) latU
    ∧ done (.div g d a b) (fun x y => if y = 0 then BitVec.allOnes 64 else Word.ofInt (x.toInt.tdiv y.toInt)) latS
    ∧ done (.rem g d a b) (fun x y => if y = 0 then x else Word.ofInt (x.toInt.tmod y.toInt)) latS

/-- R115-R118, R101: the scalar floating-point forms complete with the value and the flags of the model's operation on the
low bits of their operands, in the rounding mode they select, after the latency of R101; with L above 16 the thread parks until
then. That a form which names a port or link keeps the latency of its operation is the model's choice (DESIGN CHOICE, log entry
65). -/
def Obligations.FloatForms : Prop :=
  ∀ (s : State) (c k : Nat) (t : Thread) (g : Guard) (d a b r : Reg) (p : PReg) (ty ty2 : Ty) (rm : Rm), Issues s c k t g →
    let m : RMode := match rm with
      | .rne => .rne | .rtz => .rtz | .rup => .rup | .rdn => .rdn
      | .dyn => .ofBits (t.fpctl.extractLsb' 0 2)
    let f := fmt ty
    let slow := if ty = .f64 then 28 else 14
    (fieldsReady s c k t [a, b] [d] = true →
      let two := fun (i : Instr) (op : Nat → Nat → Nat × Flags) (lat : Nat) =>
        Completes i s c k (resultF s c k t [a, b] d (op2 (fpOp2 ty op))) (nextHead t) lat
      two (.fadd g d a b ty rm) (fadd f m) 6 ∧ two (.fsub g d a b ty rm) (fsub f m) 6 ∧ two (.fmul g d a b ty rm) (fmul f m) 6
      ∧ two (.fdiv g d a b ty rm) (fdiv f m) slow
      ∧ two (.fmin g d a b ty) (fminmax f false) 6 ∧ two (.fmax g d a b ty) (fminmax f true) 6)
    ∧ (fieldsReady s c k t [a, b, r] [d] = true →
      let three := fun (i : Instr) (np nc : Bool) =>
        Completes i s c k (resultF s c k t [a, b, r] d (op3 (fpOp3 ty (ffma f m np nc)))) (nextHead t) 6
      three (.fma g d a b r ty rm) false false ∧ three (.fmaNa g d a b r ty rm) true false
      ∧ three (.fmaNc g d a b r ty rm) false true ∧ three (.fmaNaNc g d a b r ty rm) true true)
    ∧ (fieldsReady s c k t [a] [d] = true →
      Completes (.fsqrt g d a ty rm) s c k
        (resultF s c k t [a] d (op1 fun x => (Word.ofNat (fsqrt f m (ty.low x)).1, (fsqrt f m (ty.low x)).2))) (nextHead t) slow
      ∧ Completes (.fcvt g d a ty ty2 rm) s c k
        (resultF s c k t [a] d (op1 fun x => (ty.place (convert ty ty2 m (ty2.low x)).1, (convert ty ty2 m (ty2.low x)).2))) (nextHead t) 6
      ∧ Completes (.fclass g d a ty) s c k
        (result s c k t [a] d (op1 fun x => Word.ofNat (2 ^ fclassBit f (ty.low x)))) (nextHead t) 6)
    ∧ (fieldsReady s c k t [a, b] [] = true →
      let cmp := fun (i : Instr) (op : FCmp) =>
        Completes i s c k (resultPF s c k t [a, b] p (op2 fun x y => fcompare f op (ty.low x) (ty.low y))) (nextHead t) 6
      cmp (.fcmpEq g p a b ty) .eq ∧ cmp (.fcmpNe g p a b ty) .ne ∧ cmp (.fcmpLt g p a b ty) .lt
      ∧ cmp (.fcmpLe g p a b ty) .le ∧ cmp (.fcmpUn g p a b ty) .un)

/-- R113: mov.f pops the word of a link, writes it and forwards it to the other side; toward a row end it traps with 0x15
and the state the trap is taken in has every word still in place. R49, R127, R130, R36: br and call go to the line offset
and head of their tail, jmp, call and ret to the address of their register, with the link at the next head; loop counts
down; nop only advances. R131, R132, R368, R374: trap and brk stop their thread with code 0x00, the PC at the instruction,
the RPC at the next head, and their operand as the address, bit 16 set for brk; with a debugger attached to its context,
brk is a debugger stop. R15, R33, R101: an instruction of a thread whose guard reads 0 completes without effect, in one
cycle; its operands are not read. That mov.f traps before it waits for its word, and takes none, is the model's choice (DEDUCED, log
entry 14). -/
def Obligations.ControlTransfers : Prop :=
  (∀ (s : State) (c k : Nat) (t : Thread) (g : Guard) (d a : Reg), Issues s c k t g → (a = .lw ∨ a = .le) →
      let o : Reg := if a = .lw then .le else .lw
      (fieldsReady s c k t [a] [d, o] = true →
        let r := takeFields s c k t [a]
        Completes (.movF g d a) s c k (putField c o (r.1.headD 0) (putField c d (r.1.headD 0) (r.2, t))) (nextHead t) 1)
      ∧ ((d = .z ∨ ∃ n, d = .g n) → t.twin = none → (Exec.linkEnd s c (a == .lw)).isNone = true →
        TrapsWith (.movF g d a) s c k t 0x15#8 0))
  ∧ (∀ (s : State) (c k : Nat) (t : Thread) (g : Guard) (d a : Reg) (off : BitVec 22) (head : BitVec 5), Issues s c k t g →
      let target := Word.ofInt ((((t.pc.toNat / 64 : Nat) : Int) + off.toInt) * 64 + 2 * (head.toNat : Int))
      Completes (.br g off head) s c k (s, t) target 1
      ∧ Completes (.nop g) s c k (s, t) (nextHead t) 1
      ∧ (fieldsReady s c k t [d] [] = true →
        let r := takeFields s c k t [d]
        Completes (.jmp g d) s c k (r.2, t) (r.1.headD 0) 1 ∧ Completes (.ret g d) s c k (r.2, t) (r.1.headD 0) 1)
      ∧ ((d = .z ∨ ∃ n, d = .g n) → Completes (.call g d off head) s c k (putField c d (nextHead t) (s, t)) target 1)
      ∧ ((d = .z ∨ ∃ n, d = .g n) → fieldsReady s c k t [a] [] = true →
        let r := takeFields s c k t [a]
        Completes (.callReg g d a) s c k (putField c d (nextHead t) (r.2, t)) (r.1.headD 0) 1)
      ∧ (∀ n, d = .g n →
        let x := t.g[n] - 1
        Completes (.loop g d off head) s c k (s, { t with g := t.g.set n x }) (if x = 0 then nextHead t else target) 1))
  ∧ (∀ (s : State) (c k : Nat) (t : Thread) (g : Guard) (code : BitVec 16), Issues s c k t g →
      let stop := fun (addr : Word) => ({ code := 0, pc := t.pc, rpc := nextHead t, addr := addr } : Stop)
      exec (.trap g code) s = .next (s.takeTrap c k (stop (code.zeroExtend 64)))
      ∧ (¬ (s.mgmt.attach = true ∧ s.mgmt.dbgCtx = s.ctxOf c) →
        exec (.brkCode g code) s = .next (s.takeTrap c k (stop (code.zeroExtend 64 ||| 0x10000#64)))
        ∧ exec (.brk g) s = .next (s.takeTrap c k (stop 0x10000#64)))
      ∧ (s.mgmt.attach = true ∧ s.mgmt.dbgCtx = s.ctxOf c →
        exec (.brkCode g code) s = .next (s.takeStop c k (stop (code.zeroExtend 64)))
        ∧ exec (.brk g) s = .next (s.takeStop c k (stop 0))))
  ∧ (∀ (o : Op) (r : Raw) (s s' : State) (c k : Nat) (t : Thread) (l : Line),
      s.cur = some (c, k) → s.thread c k = some t → Exec.pget t r.g = false → t.step = false → t.entered = none →
      lineAt s c t (nextHead t) = some (l, s') →
      exec (o.instr r) s = .next (retired s' c k t (nextHead t) l 1))

/-- R25, R114, R487: mfs reads the register of an index; reserved indexes trap with 0x01, the indexes from 0x80 on with
0x08 outside the plinth column. R22, R24, R25, R114, R487: mts writes pred, fpctl and wlim, leaves their reserved bits,
and on the plinth column restarts the watchdog and writes the boot count; every other index traps. That an index which names no
register to write traps before the wait for the operand's word is the model's choice (DEDUCED, log entry 24). -/
def Obligations.SystemRegisters : Prop :=
  (∀ (s : State) (c k : Nat) (t : Thread) (g : Guard) (d : Reg), Issues s c k t g →
      (fieldsReady s c k t [] [d] = true →
        let reads := fun (i : BitVec 8) (w : Word) =>
          Completes (.mfs g d i) s c k (result s c k t [] d fun _ => w) (nextHead t) 1
        let n := fun (x : Nat) => Word.ofNat x
        reads 0x00 (t.tid.zeroExtend 64) ∧ reads 0x01 (n k) ∧ reads 0x02 (n c) ∧ reads 0x03 (n (c / 4)) ∧ reads 0x04 (n (c / 8))
        ∧ reads 0x05 (n (if c < 512 then 0 else 1)) ∧ reads 0x06 (n s.ownChip) ∧ reads 0x07 (n (s.ctxOf c))
        ∧ reads 0x08 (n (s.vcore c)) ∧ reads 0x09 s.time ∧ reads 0x0A (((s.ctx (s.ctxOf c)).getD {}).energy)
        ∧ reads 0x0B t.fpctl ∧ reads 0x0C (n t.wlim) ∧ reads 0x0D t.trapinfo ∧ reads 0x0E t.pc ∧ reads 0x0F (t.pred.zeroExtend 64)
        ∧ reads 0x10 (fields [(t.seq.toNat, 16), (t.outst, 0)]) ∧ reads 0x11 (n t.prio) ∧ reads 0x12 (n t.dom)
        ∧ reads 0x13 (n ((s.core c).cycle / 16)) ∧ (s.isPlinth c = true → reads 0x80 0 ∧ reads 0x81 (n s.bootcnt)))
      ∧ (∀ i : BitVec 8, 0x14 ≤ i.toNat → i.toNat < 0x80 → TrapsWith (.mfs g d i) s c k t 0x01#8 0)
      ∧ (∀ i : BitVec 8, 0x82 ≤ i.toNat → s.isPlinth c = true → TrapsWith (.mfs g d i) s c k t 0x01#8 0)
      ∧ (∀ i : BitVec 8, 0x80 ≤ i.toNat → s.isPlinth c = false → TrapsWith (.mfs g d i) s c k t 0x08#8 0))
  ∧ (∀ (s : State) (c k : Nat) (t : Thread) (g : Guard) (a : Reg), Issues s c k t g →
      (fieldsReady s c k t [a] [] = true →
        let r := takeFields s c k t [a]
        let x := r.1.headD 0
        let writes := fun (i : BitVec 8) (u : Thread) => Completes (.mts g a i) s c k (r.2, u) (nextHead t) 1
        writes 0x0B { t with fpctl := x &&& 0x3F3#64 }
        ∧ writes 0x0C { t with wlim := max (2 ^ 8) (min (2 ^ 28) (x.extractLsb' 0 29).toNat) }
        ∧ writes 0x0F { t with pred := x.extractLsb' 0 8 ||| 1#8 }
        ∧ (s.isPlinth c = true →
          CompletesAfter (.pwdogWrite g a) s c k (r.2, t) (fun s => ({ s with boot := { s.boot with wdog := s.time } }, t)) 1
          ∧ CompletesAfter (.bootcntWrite g a) s c k (r.2, t) (fun s => (s.setBootcnt (x.extractLsb' 0 32).toNat, t)) 1))
      ∧ (∀ i : BitVec 8, i.toNat < 0x80 → i ≠ 0x0B ∧ i ≠ 0x0C ∧ i ≠ 0x0F → TrapsWith (.mts g a i) s c k t 0x01#8 0)
      ∧ (∀ i : BitVec 8, 0x80 ≤ i.toNat → s.isPlinth c = false → TrapsWith (.mts g a i) s c k t 0x08#8 0)
      ∧ (s.isPlinth c = false → TrapsWith (.pwdogWrite g a) s c k t 0x08#8 0 ∧ TrapsWith (.bootcntWrite g a) s c k t 0x08#8 0))

/-! ### Memory, vector and synchronising instructions -/

/-- R119, R120, R122, R101: a load at base, index times 2^s and displacement writes the bytes found there, extended as its
form says, in whatever place they lie: of the own quad slice, from a buffered store of the thread or from memory, at once; of any other
place, a register and another slice among them, the thread parks for the answer of its request, and then it completes. -/
def Obligations.LoadForms : Prop :=
  ∀ (s : State) (c k : Nat) (t : Thread) (g : Guard) (d a b : Reg) (disp : BitVec 11), Issues s c k t g →
    fieldsReady s c k t [a, b] [d] = true →
    let r := takeFields s c k t [a, b]
    let done := fun (i : Instr) (n scale : Nat) (ext : Vec → Word) =>
      let ea := op2 (fun x y => x + (y <<< scale) + disp.signExtend 64) r.1
      let en := Exec.firstBytes n
      (∀ p s1 v, ea.toNat % n = 0 → accessAt r.2 c t ea rR = some (p, s1) → loaded s1 c t ea n en p = some v →
        Completes i s c k (putField c d (ext v) (s1, t)) (nextHead t) (loadLat c p))
      ∧ (∀ p s1 q, ea.toNat % n = 0 → accessAt r.2 c t ea rR = some (p, s1) → t.replies = [] → t.twin = none →
        (∀ a, p = .sram a → a / 2 ^ 21 ≠ quadOf c) → askedAs s1 c t ea n en p = some q →
        Asks i s c k t { src := .thread c k, ctx := s.ctxOf c, addr := q.1, acc := .read n, st := q.2 })
    done (.ldB g d a b disp) 1 0 (fun v => (v.setWidth 8).zeroExtend 64)
    ∧ done (.ldH g d a b disp) 2 0 (fun v => (v.setWidth 16).zeroExtend 64)
    ∧ done (.ldW g d a b disp) 4 0 (fun v => (v.setWidth 32).zeroExtend 64)
    ∧ done (.ldD g d a b disp) 8 0 (fun v => v.setWidth 64)
    ∧ done (.ldsB g d a b disp) 1 0 (fun v => (v.setWidth 8).signExtend 64)
    ∧ done (.ldsH g d a b disp) 2 0 (fun v => (v.setWidth 16).signExtend 64)
    ∧ done (.ldsW g d a b disp) 4 0 (fun v => (v.setWidth 32).signExtend 64)
    ∧ done (.ldBS g d a b disp) 1 0 (fun v => (v.setWidth 8).zeroExtend 64)
    ∧ done (.ldHS g d a b disp) 2 1 (fun v => (v.setWidth 16).zeroExtend 64)
    ∧ done (.ldWS g d a b disp) 4 2 (fun v => (v.setWidth 32).zeroExtend 64)
    ∧ done (.ldDS g d a b disp) 8 3 (fun v => v.setWidth 64)
    ∧ done (.ldsBS g d a b disp) 1 0 (fun v => (v.setWidth 8).signExtend 64)
    ∧ done (.ldsHS g d a b disp) 2 1 (fun v => (v.setWidth 16).signExtend 64)
    ∧ done (.ldsWS g d a b disp) 4 2 (fun v => (v.setWidth 32).signExtend 64)

/-- R120, R121, R101: a store with an entry of the store buffer free completes in one cycle; the buffer then holds, last,
the low bytes of D at the canonical address of base, index times 2^s and displacement, and no byte of memory has changed.
-/
def Obligations.StoreForms : Prop :=
  ∀ (s : State) (c k : Nat) (t : Thread) (g : Guard) (d a b : Reg) (disp : BitVec 11), Issues s c k t g →
    fieldsReady s c k t [a, b, d] [] = true → t.sb.length < 8 →
    let r := takeFields s c k t [a, b, d]
    let done := fun (i : Instr) (n scale : Nat) =>
      let ea := op2 (fun x y => x + (y <<< scale) + disp.signExtend 64) r.1
      let data : Vec := ((r.1.drop 2).headD 0).zeroExtend 512
      ∀ p s1, ea.toNat % n = 0 → accessAt r.2 c t ea rW = some (p, s1) →
        Completes i s c k (s1, { t with sb := t.sb ++ [.store (Word.ofNat (s1.keyOf c ea)) data (BitVec.ofNat 64 (2 ^ n - 1)) ea] })
          (nextHead t) 1
        ∧ s1.mem = s.mem
    done (.stB g d a b disp) 1 0 ∧ done (.stH g d a b disp) 2 0 ∧ done (.stW g d a b disp) 4 0 ∧ done (.stD g d a b disp) 8 0
    ∧ done (.stBS g d a b disp) 1 0 ∧ done (.stHS g d a b disp) 2 1 ∧ done (.stWS g d a b disp) 4 2
    ∧ done (.stDS g d a b disp) 8 3

/-- R29, R33, R226, R228, R235, R236: a scalar load or store traps with 0x13 at an address that is no multiple of its size, else
with the fault of the address map, else with 0x11 where its rights fill found no mapping, or with 0x10 where its PLB entry
lacks the right; the record names the address. -/
def Obligations.AccessTraps : Prop :=
  ∀ (s : State) (c k : Nat) (t : Thread) (g : Guard) (d a b : Reg) (disp : BitVec 11), Issues s c k t g →
    let bad := fun (srcs : List Reg) (need : Byte) (i : Instr × Nat × Nat) =>
      let r := takeFields s c k t srcs
      let x := (r.2.ctx (r.2.ctxOf c)).getD {}
      let ea := op2 (fun x y => x + (y <<< i.2.2) + disp.signExtend 64) r.1
      (ea.toNat % i.2.1 ≠ 0 → TrapsWith i.1 s c k t 0x13#8 ea)
      ∧ (∀ code, ea.toNat % i.2.1 = 0 → r.2.mapCheck c x ea = .error code → TrapsWith i.1 s c k t code ea)
      ∧ (∀ p, ea.toNat % i.2.1 = 0 → r.2.mapCheck c x ea = .ok p → (∀ off, p ≠ .mgmt off) →
          (∀ e s1, entryAt r.2 c t ea = some (e, s1) → e.rights &&& need ≠ need → TrapsWith i.1 s c k t 0x10#8 ea)
          ∧ (∀ n, (t.filled.find? fun f => f.1 == r.2.keyOf c ea / 2 ^ 17) = some (n, none) → TrapsWith i.1 s c k t 0x11#8 ea))
    (fieldsReady s c k t [a, b] [d] = true → ∀ i ∈ [((.ldB g d a b disp : Instr), 1, 0), (.ldH g d a b disp, 2, 0),
        (.ldW g d a b disp, 4, 0), (.ldD g d a b disp, 8, 0), (.ldsB g d a b disp, 1, 0), (.ldsH g d a b disp, 2, 0),
        (.ldsW g d a b disp, 4, 0), (.ldBS g d a b disp, 1, 0), (.ldHS g d a b disp, 2, 1), (.ldWS g d a b disp, 4, 2),
        (.ldDS g d a b disp, 8, 3), (.ldsBS g d a b disp, 1, 0), (.ldsHS g d a b disp, 2, 1), (.ldsWS g d a b disp, 4, 2)],
      bad [a, b] rR i)
    ∧ (fieldsReady s c k t [a, b, d] [] = true → ∀ i ∈ [((.stB g d a b disp : Instr), 1, 0), (.stH g d a b disp, 2, 0),
        (.stW g d a b disp, 4, 0), (.stD g d a b disp, 8, 0), (.stBS g d a b disp, 1, 0), (.stHS g d a b disp, 2, 1),
        (.stWS g d a b disp, 4, 2), (.stDS g d a b disp, 8, 3)], bad [a, b, d] rW i)

/-- R134, R135, R139, R140, R143, R150, R153: integer, logic and division forms on vector registers that are no streams:
each active element receives the result of its rule, each inactive one keeps its value; SAT is set where an active element
was clamped. -/
def Obligations.VectorIntegerForms : Prop :=
  ∀ (s : State) (c k : Nat) (t : Thread) (g : Guard) (d a b : VReg) (y z : Reg) (ty : Ty) (sat : Bool) (rm : Rm) (m : Option MReg),
    Issues s c k t g →
    let mask := maskOf t m
    let fit := fun (x : Int) => if sat then (ty.ofInt (ty.clamp x).1, ({ sat := (ty.clamp x).2 } : Flags)) else (ty.ofInt x, .none)
    let wrap := fun (x : Int) => (ty.ofInt x, Flags.none)
    let plain := fun (x : Nat) => (x, Flags.none)
    let I := ty.toInt
    let w := ty.width
    let slow := match ty.width with
      | 8 => 12 | 16 => 16 | 32 => 24 | _ => 40
    let A := elem ty (vget t a)
    let B := elem ty (vget t b)
    let mode : RMode := match rm with
      | .rne => .rne | .rtz => .rtz | .rup => .rup | .rdn => .rdn
      | .dyn => .ofBits (t.fpctl.extractLsb' 0 2)
    let quot := fun (a b : Nat) => if ty.isFloat then fdiv (fmt ty) mode a b
      else plain (if b = 0 then 2 ^ w - 1 else ty.ofInt ((I a).tdiv (I b)))
    let remd := fun (a b : Nat) => plain (if b = 0 then a else ty.ofInt ((I a).tmod (I b)))
    (plainRegs t [d, a, b] →
      let done := fun (i : Instr) (f : Nat → Nat × Flags) (lat : Nat) => VectorResult i s c k t s d ty mask f lat
      done (.vaddInt g d a b ty sat m) (fun i => fit (I (A i) + I (B i))) 1
      ∧ done (.vsubInt g d a b ty sat m) (fun i => fit (I (A i) - I (B i))) 1
      ∧ done (.vmulInt g d a b ty sat m) (fun i => fit (I (A i) * I (B i))) 1
      ∧ done (.vminInt g d a b ty m) (fun i => wrap (min (I (A i)) (I (B i)))) 1
      ∧ done (.vmaxInt g d a b ty m) (fun i => wrap (max (I (A i)) (I (B i)))) 1
      ∧ done (.vabsInt g d a ty sat m) (fun i => fit ((I (A i)).natAbs : Int)) 1
      ∧ done (.vnegInt g d a ty sat m) (fun i => fit (-(I (A i)))) 1
      ∧ done (.vshl g d a b ty sat m) (fun i => fit (I (A i) * 2 ^ (B i % w))) 1
      ∧ done (.vshr g d a b ty m) (fun i => plain (A i / 2 ^ (B i % w))) 1
      ∧ done (.vsar g d a b ty m) (fun i => wrap (sintOf w (A i) / 2 ^ (B i % w))) 1
      ∧ done (.vand g d a b ty m) (fun i => plain (A i &&& B i)) 1
      ∧ done (.vor g d a b ty m) (fun i => plain (A i ||| B i)) 1
      ∧ done (.vxor g d a b ty m) (fun i => plain (A i ^^^ B i)) 1
      ∧ done (.vnot g d a ty m) (fun i => plain (2 ^ w - 1 - A i)) 1
      ∧ done (.vdiv g d a b ty rm m) (fun i => quot (A i) (B i)) slow
      ∧ done (.vrem g d a b ty m) (fun i => remd (A i) (B i)) slow)
    ∧ (plainRegs t [d, a] → fieldsReady s c k t [y] [] = true →
      let r := takeFields s c k t [y]
      let Y := ty.low (r.1.headD 0)
      let done := fun (i : Instr) (f : Nat → Nat × Flags) (lat : Nat) => VectorResult i s c k t r.2 d ty mask f lat
      done (.vaddIntScalar g d a y ty sat m) (fun i => fit (I (A i) + I Y)) 1
      ∧ done (.vsubIntScalar g d a y ty sat m) (fun i => fit (I (A i) - I Y)) 1
      ∧ done (.vmulIntScalar g d a y ty sat m) (fun i => fit (I (A i) * I Y)) 1
      ∧ done (.vminIntScalar g d a y ty m) (fun i => wrap (min (I (A i)) (I Y))) 1
      ∧ done (.vmaxIntScalar g d a y ty m) (fun i => wrap (max (I (A i)) (I Y))) 1
      ∧ done (.vshlScalar g d a y ty sat m) (fun i => fit (I (A i) * 2 ^ (Y % w))) 1
      ∧ done (.vshrScalar g d a y ty m) (fun i => plain (A i / 2 ^ (Y % w))) 1
      ∧ done (.vsarScalar g d a y ty m) (fun i => wrap (sintOf w (A i) / 2 ^ (Y % w))) 1
      ∧ done (.vandScalar g d a y ty m) (fun i => plain (A i &&& Y)) 1
      ∧ done (.vorScalar g d a y ty m) (fun i => plain (A i ||| Y)) 1
      ∧ done (.vxorScalar g d a y ty m) (fun i => plain (A i ^^^ Y)) 1
      ∧ done (.vdivScalar g d a y ty rm m) (fun i => quot (A i) Y) slow
      ∧ done (.vremScalar g d a y ty m) (fun i => remd (A i) Y) slow)
    ∧ (plainRegs t [d] → fieldsReady s c k t [y, z] [] = true →
      let r := takeFields s c k t [y, z]
      VectorResult (.vrand g d y z ty m) s c k t r.2 d ty mask
        (fun i => plain (vrandElem ty (r.1.headD 0) ((r.1.drop 1).headD 0) i)) 4)

/-- R134, R135, R139, R141, R142, R145, R146: floating-point, select and permute forms on vector registers that are no
streams; a floating-point element is what the scalar operation gives, in the mode selected. -/
def Obligations.VectorFloatForms : Prop :=
  ∀ (s : State) (c k : Nat) (t : Thread) (g : Guard) (d a b e : VReg) (y : Reg) (ty : Ty) (rm : Rm) (m : Option MReg),
    Issues s c k t g →
    let mask := maskOf t m
    let f := fmt ty
    let mode : RMode := match rm with
      | .rne => .rne | .rtz => .rtz | .rup => .rup | .rdn => .rdn
      | .dyn => .ofBits (t.fpctl.extractLsb' 0 2)
    let plain := fun (x : Nat) => (x, Flags.none)
    let A := elem ty (vget t a)
    let B := elem ty (vget t b)
    let E := elem ty (vget t e)
    (plainRegs t [d, a, b] →
      let done := fun (i : Instr) (h : Nat → Nat × Flags) (lat : Nat) => VectorResult i s c k t s d ty mask h lat
      done (.vaddFp g d a b ty rm m) (fun i => fadd f mode (A i) (B i)) 6
      ∧ done (.vsubFp g d a b ty rm m) (fun i => fsub f mode (A i) (B i)) 6
      ∧ done (.vmulFp g d a b ty rm m) (fun i => fmul f mode (A i) (B i)) 6
      ∧ done (.vminFp g d a b ty m) (fun i => fminmax f false (A i) (B i)) 6
      ∧ done (.vmaxFp g d a b ty m) (fun i => fminmax f true (A i) (B i)) 6
      ∧ done (.vabsFp g d a ty m) (fun i => plain (fabsneg f false (A i))) 6
      ∧ done (.vnegFp g d a ty m) (fun i => plain (fabsneg f true (A i))) 6
      ∧ done (.vexpand g d a ty m) (fun i => plain (A ((List.range i).countP fun j => mask.getLsbD j))) 4
      ∧ done (.vperm g d a b ty m) (fun i => plain (A (B i % ty.count))) 4
      ∧ (∀ n : MReg, VectorResult (.vsel g d a b ty n) s c k t s d ty (BitVec.allOnes 64)
          (fun i => plain (if (maskOf t (some n)).getLsbD i then A i else B i)) 1))
    ∧ (plainRegs t [d, a, b, e] →
      let done := fun (i : Instr) (np nc : Bool) => VectorResult i s c k t s d ty mask (fun i => ffma f mode np nc (A i) (B i) (E i)) 6
      done (.vfma g d a b e ty rm m) false false ∧ done (.vfmaNa g d a b e ty rm m) true false
      ∧ done (.vfmaNc g d a b e ty rm m) false true ∧ done (.vfmaNaNc g d a b e ty rm m) true true)
    ∧ (fieldsReady s c k t [y] [] = true →
      let r := takeFields s c k t [y]
      let Y := ty.low (r.1.headD 0)
      let done := fun (i : Instr) (h : Nat → Nat × Flags) (lat : Nat) => VectorResult i s c k t r.2 d ty mask h lat
      (plainRegs t [d, a] →
        done (.vaddFpScalar g d a y ty rm m) (fun i => fadd f mode (A i) Y) 6
        ∧ done (.vsubFpScalar g d a y ty rm m) (fun i => fsub f mode (A i) Y) 6
        ∧ done (.vmulFpScalar g d a y ty rm m) (fun i => fmul f mode (A i) Y) 6
        ∧ done (.vminFpScalar g d a y ty m) (fun i => fminmax f false (A i) Y) 6
        ∧ done (.vmaxFpScalar g d a y ty m) (fun i => fminmax f true (A i) Y) 6)
      ∧ (plainRegs t [d] → done (.vbcast g d y ty m) (fun _ => plain Y) 1))

/-- R139, R144, R147, R148, R149, R159: compares into a mask, reductions and scans over the active elements, compress,
conversions and moves between vector and general registers, on vector registers that are no streams. -/
def Obligations.VectorCrossForms : Prop :=
  ∀ (s : State) (c k : Nat) (t : Thread) (g : Guard) (d a b : VReg) (dm : MReg) (x y : Reg) (ty ty2 : Ty) (sat : Bool) (rm : Rm)
    (part : BitVec 3) (m : Option MReg), Issues s c k t g →
    let mask := maskOf t m
    let mode : RMode := match rm with
      | .rne => .rne | .rtz => .rtz | .rup => .rup | .rdn => .rdn
      | .dyn => .ofBits (t.fpctl.extractLsb' 0 2)
    let A := elem ty (vget t a)
    let act := (List.range ty.count).filter fun i => mask.getLsbD i
    let compares := fun (s1 : State) (i : Instr) (f : Nat → Bool × Flags) => ∃ w : Word,
      (∀ j, w.getLsbD j = (decide (j < ty.count) && mask.getLsbD j && (f j).1))
      ∧ Completes i s c k (s1, { t with m := t.m.setIfInBounds dm.toNat w, fpctl := t.fpctl ||| (Flags.all
          ((List.range ty.count).map fun j => if mask.getLsbD j then (f j).2 else .none)).word }) (nextHead t) 1
    (plainRegs t [a, b] →
      let done := fun (i : Instr) (op : FCmp) => compares s i fun j => Vop.cmp ty op (A j) (elem ty (vget t b) j)
      done (.vcmpEq g dm a b ty m) .eq ∧ done (.vcmpNe g dm a b ty m) .ne ∧ done (.vcmpLt g dm a b ty m) .lt
      ∧ done (.vcmpLe g dm a b ty m) .le ∧ done (.vcmpGt g dm a b ty m) .gt ∧ done (.vcmpGe g dm a b ty m) .ge
      ∧ done (.vcmpUn g dm a b ty m) .un)
    ∧ (plainRegs t [a] → fieldsReady s c k t [y] [] = true →
      let r := takeFields s c k t [y]
      let done := fun (i : Instr) (op : FCmp) => compares r.2 i fun j => Vop.cmp ty op (A j) (ty.low (r.1.headD 0))
      done (.vcmpEqScalar g dm a y ty m) .eq ∧ done (.vcmpNeScalar g dm a y ty m) .ne ∧ done (.vcmpLtScalar g dm a y ty m) .lt
      ∧ done (.vcmpLeScalar g dm a y ty m) .le ∧ done (.vcmpGtScalar g dm a y ty m) .gt ∧ done (.vcmpGeScalar g dm a y ty m) .ge
      ∧ done (.vcmpUnScalar g dm a y ty m) .un)
    ∧ (plainRegs t [a] → fieldsReady s c k t [] [x] = true →
      let done := fun (i : Instr) (v : Nat × Flags) (lat : Nat) =>
        Completes i s c k (resultF s c k t [] x fun _ => (ty.place v.1, v.2)) (nextHead t) lat
      done (.vredAdd g x a ty sat rm m) (Vop.redAdd ty sat mode (act.map A)) (if ty.isFloat then 4 + ty.count else 4)
      ∧ done (.vredMax g x a ty m) (Vop.redMax ty true (act.map A)) 4
      ∧ done (.vredMin g x a ty m) (Vop.redMax ty false (act.map A)) 4)
    ∧ (plainRegs t [a] → fieldsReady s c k t [] [x, y] = true →
      let done := fun (i : Instr) (big : Bool) =>
        let v := Vop.redMax ty big (act.map A)
        let idx := Vop.redIdx ty v.1 (act.map fun i => (i, A i))
        Completes i s c k (putField c y idx (resultF s c k t [] x fun _ => (ty.place v.1, v.2))) (nextHead t) 4
      done (.vredmaxIdx g x a y ty m) true ∧ done (.vredminIdx g x a y ty m) false)
    ∧ (plainRegs t [d, a] →
      let n := 512 / max ty.width ty2.width
      let lo := if ty.width < ty2.width then part.toNat * n else 0
      let src := fun (i : Nat) => elem ty2 (vget t a) ((if ty2.width < ty.width then part.toNat * n else 0) + i)
      let conv := fun (i : Nat) => convert ty ty2 mode (src i)
      let upTo := fun (i : Nat) => (List.range (i + 1)).countP fun j => mask.getLsbD j
      let sums := Vop.sums ty sat mode (act.map A)
      (lo + n ≤ ty.count → ∃ w : Vec,
        (∀ i, i < ty.count → elem ty w i = if lo ≤ i ∧ i < lo + n then (conv (i - lo)).1 % 2 ^ ty.width else elem ty (vget t d) i)
        ∧ Completes (.vcvt g d a part ty ty2 rm) s c k (s, withVector t d w (Flags.all ((List.range n).map fun i => (conv i).2)))
            (nextHead t) 6)
      ∧ (∃ w : Vec, (∀ i, i < ty.count → elem ty w i = if upTo i = 0 then 0 else (sums[upTo i - 1]?.getD (0, .none)).1 % 2 ^ ty.width)
        ∧ Completes (.vscanAdd g d a ty sat rm m) s c k (s, { withVector t d w (sums.getLastD (0, .none)).2 with
            fpctl := (t.fpctl ||| (sums.getLastD (0, .none)).2.word) ||| (if ty.isFloat then Flags.none else Flags.all (sums.map (·.2))).word })
            (nextHead t) (if ty.isFloat then 4 + ty.count else 4))
      ∧ (fieldsReady s c k t [] [x] = true → ∃ w : Vec,
        (∀ i, i < ty.count → elem ty w i = (act.map A).getD i 0)
        ∧ Completes (.vcompress g d a x ty m) s c k
            (putField c x (Word.ofNat act.length) (s, { t with v := t.v.setIfInBounds d.toNat w })) (nextHead t) 4)
      ∧ (fieldsReady s c k t [y] [x] = true →
        Completes (.vmovg g x a y ty) s c k (result s c k t [y] x (op1 fun v => ty.place (A (v.toNat % ty.count)))) (nextHead t) 1)
      ∧ (fieldsReady s c k t [x, y] [] = true →
        let r := takeFields s c k t [x, y]
        let at_ := ((r.1.drop 1).headD 0).toNat % ty.count
        ∃ w : Vec, (∀ i, i < ty.count → elem ty w i = if i = at_ then ty.low (r.1.headD 0) else elem ty (vget t d) i)
          ∧ Completes (.gmovv g d x y ty) s c k (r.2, { t with v := t.v.setIfInBounds d.toNat w }) (nextHead t) 1))

/-- R151, R152: an SFU request parks its thread; with the unit free it starts one cycle after its issue and completes
nineteen cycles later, when the active elements receive the special function of the source and the thread stands at the
next head. -/
def Obligations.SpecialFunctionForms : Prop :=
  ∀ (s s' : State) (c k : Nat) (t : Thread) (g : Guard) (d a : VReg) (rm : Rm) (m : Option MReg) (l : Line), Issues s c k t g →
    plainRegs t [d, a] → (s.core c).sfuFifo = [] → (s.core c).sfuLast = none → (∀ p ∈ (s.core c).slots, p.2.pending = none) →
    lineAt s c t (nextHead t) = some (l, s') →
    let mode : RMode := match rm with
      | .rne => .rne | .rtz => .rtz | .rup => .rup | .rdn => .rdn
      | .dyn => .ofBits (t.fpctl.extractLsb' 0 2)
    let mask := maskOf t m
    let n0 := (s'.core c).cycle
    let at_ := fun (s : State) (n : Nat) => s.updCore c fun x => { x with cycle := n }
    let done := fun (i : Instr) (op : SfuOp) =>
      let f := fun (j : Nat) => sfu op mode (elem .f32 (vget t a) j)
      ∃ s1 s2 w, exec i s = .next s1 ∧ (∃ t1, s1.thread c k = some t1 ∧ t1.g = t.g ∧ t1.v = t.v ∧ t1.pc = t.pc ∧ t1.run = .parked .unit 0 0)
        ∧ exec (.sfuRequestStart c) (at_ s1 (n0 + 1)) = .next s2
        ∧ exec (.sfuRequestComplete c) (at_ s2 (n0 + 19)) = .refused (.cannotOccur "SFU_REQUEST_COMPLETE")
        ∧ Merged .f32 mask (vget t d) w f
        ∧ ∃ s3, exec (.sfuRequestComplete c) (at_ s2 (n0 + 20)) = .next s3
          ∧ s3.thread c k = some (Exec.Thread.done { withVector t d w (activeFlags .f32 mask f) with pending := none } (nextHead t) l (n0 + 20))
    done (.vlog2 g d a rm m) .log2 ∧ done (.vexp2 g d a rm m) .exp2 ∧ done (.vrcp g d a rm m) .rcp
    ∧ done (.vrsqrt g d a rm m) .rsqrt ∧ done (.vsqrt g d a rm m) .sqrt ∧ done (.vsin g d a rm m) .sin
    ∧ done (.vcos g d a rm m) .cos

/-- R123, R124: vld reads the bytes of its active elements in one access of 64 bytes; the strided and gathering forms read
each active element at its own address; the bytes of inactive elements keep their value. R124, R121: vst puts the bytes of
its active elements into one entry of the store buffer; with none active it takes no entry, which is the model's choice (DEDUCED,
log entry 30). vscatter, with its buffer empty and every page present, sends its active elements one by one, each once the one
before has been answered, and completes with the answer of the last. -/
def Obligations.VectorMemoryForms : Prop :=
  (∀ (s : State) (c k : Nat) (t : Thread) (g : Guard) (d e : VReg) (a b : Reg) (ty : Ty) (m : Option MReg), Issues s c k t g →
      plainRegs t [d, e] →
      let mask := maskOf t m
      let en := enables ty mask
      let act := (List.range ty.count).filter fun i => mask.getLsbD i
      let byte := fun (v : Vec) (i : Nat) => v.extractLsb' (8 * i) 8
      let put := fun (w : Vec) => { t with v := t.v.setIfInBounds d.toNat w }
      let scattered := fun (i : Instr) (r : State) (addr : Nat → Word) => ∀ ps s1 vs,
        (∀ j ∈ act, (addr j).toNat % ty.bytes = 0) →
        accessesAt r c t (act.map fun j => (addr j, rR)) = some (ps, s1) →
        answeredAll (act.map addr) t.replies = some vs →
        ∃ w : Vec, (∀ j, j < ty.count → elem ty w j = match (act.zip vs).lookup j with
            | some v => v.toNat % 2 ^ ty.width
            | none => elem ty (vget t d) j)
          ∧ Completes i s c k (s1, put w) (nextHead t) 1
      (fieldsReady s c k t [a, b] [] = true →
        let r := takeFields s c k t [a, b]
        let x := r.1.headD 0
        let y := (r.1.drop 1).headD 0
        (en = 0 → Completes (.vld g d a b ty m) s c k (r.2, put (vget t d)) (nextHead t) 1)
        ∧ (∀ p s1 v, en ≠ 0 → (x + y).toNat % 64 = 0 → accessAt r.2 c t (x + y) rR = some (p, s1) →
            loaded s1 c t (x + y) 64 en p = some v →
            ∃ w, (∀ i, i < 64 → byte w i = if en.getLsbD i then byte v i else byte (vget t d) i)
              ∧ Completes (.vld g d a b ty m) s c k (s1, put w) (nextHead t) (loadLat c p))
        ∧ scattered (.vldS g d a b ty m) r.2 (fun i => x + Word.ofNat i * y))
      ∧ (fieldsReady s c k t [a] [] = true →
        let r := takeFields s c k t [a]
        scattered (.vgather g d a e ty m) r.2 (fun i => r.1.headD 0 + Word.ofInt (sintOf ty.width (elem ty (vget t e) i)))))
  ∧ (∀ (s : State) (c k : Nat) (t : Thread) (g : Guard) (d e : VReg) (a b : Reg) (ty : Ty) (m : Option MReg) (l : Line),
      plainRegs t [d, e] →
      let mask := maskOf t m
      let en := enables ty mask
      let act := (List.range ty.count).filter fun i => mask.getLsbD i
      (Issues s c k t g → fieldsReady s c k t [a, b] [] = true →
        let r := takeFields s c k t [a, b]
        let x := op2 (fun x y => x + y) r.1
        (en = 0 → Completes (.vst g d a b ty m) s c k (r.2, t) (nextHead t) 1)
        ∧ (∀ p s1, en ≠ 0 → x.toNat % 64 = 0 → accessAt r.2 c t x rW = some (p, s1) → t.sb.length < 8 →
            Completes (.vst g d a b ty m) s c k
              (s1, { t with sb := t.sb ++ [.store (Word.ofNat (s1.keyOf c x)) (vget t d) en x] }) (nextHead t) 1))
      ∧ (fieldsReady s c k t [a] [] = true →
        let r := takeFields s c k t [a]
        let addr := fun i => r.1.headD 0 + Word.ofInt (sintOf ty.width (elem ty (vget t e) i))
        let paged := fun (p : Place) => match p with
          | .paged _ => true
          | _ => false
        let key := fun (st : State) (i : Nat) => Word.ofNat (st.keyOf c (addr i))
        let data := fun (i : Nat) => BitVec.ofNat 512 (elem ty (vget t d) i)
        let bytes := BitVec.ofNat 64 (2 ^ ty.bytes - 1)
        (act = [] → Issues s c k t g → Drained t → t.replies = [] → Completes (.vscatter g d a e ty m) s c k (r.2, t) (nextHead t) 1)
        ∧ (act ≠ [] → ¬Drained t → Issues s c k t g → t.replies = [] → (∀ i ∈ act, (addr i).toNat % ty.bytes = 0) →
            (accessesAt r.2 c t (act.map fun i => (addr i, rW))).isSome = true → Parks (.vscatter g d a e ty m) s c k t .sbEmpty)
        ∧ (∀ ps s1, act ≠ [] → (∀ i ∈ act, (addr i).toNat % ty.bytes = 0) →
            accessesAt r.2 c t (act.map fun i => (addr i, rW)) = some (ps, s1) →
            (∀ i s2, act.head? = some i → (∀ q, .paged q ∈ ps → (s1.translate q).1 ≠ .absent) → Issues s c k t g → Drained t → t.replies = [] →
              t.twin = none → lineAt s1 c t (nextHead t) = some (l, s2) →
              ∃ s3 t3 w lim n, exec (.vscatter g d a e ty m) s = .next s3 ∧ s3.thread c k = some t3 ∧ t3.pc = t.pc
                ∧ t3.run = .parked (.elem w) lim n ∧ t3.entered = some (nextHead t, l) ∧ s3.mem = s.mem
                ∧ match ps.head? with
                  | some (.mgmt _) => w = true ∧ t3.sb = [.store (key s1 i) (data i) bytes (addr i)]
                  | _ => w = false ∧ t3.sb = [] ∧ s3.reqs = Tab.set s.reqs s.nextReq
                      { src := .thread c k, ctx := s.ctxOf c, addr := key s1 i, acc := .write (data i) bytes })
            ∧ (Continues s c k t g l → t.sb = [] → t.replies.length = 1 + (ps.filter paged).length + act.length →
              (∀ r ∈ t.replies, ∃ v, r = .val v) →
              exec (.vscatter g d a e ty m) s = .next (retired s1 c k t (nextHead t) l 1)))))

/-- R154, R158: sbind binds a vector register with its base, strides and counts from the first vector on, after its checks
in order; sunbind unbinds it; stest gives its status word, 0 for an unbound register. R17, R135, R136, R155: a vector
source that names a read stream takes the next vector of the stream, zero once the stream is exhausted, when OVR is set; a
destination that names a write stream stores the enabled bytes at the next address; a stream used against its direction
traps with 0x01. The same of the element-wise forms of two and three sources, of the scalar-operand forms and of a comparison, for
any of their fields; several sources take successive vectors in field order. R125: a vld whose vD is a write stream stores what it
loads there; a vst whose vD is a read stream stores the stream's next vector. -/
def Obligations.StreamForms : Prop :=
  (∀ (s : State) (c k : Nat) (t : Thread) (g : Guard) (d : SReg) (x a b e : Reg), Issues s c k t g →
      let n := d.toNat
      (fieldsReady s c k t [a, b, e] [] = true →
        let r := takeFields s c k t [a, b, e]
        let base := r.1.headD 0
        let strides := (r.1.drop 1).headD 0
        let shape := (r.1.drop 2).headD 0
        let aligned := base.toNat % 64 = 0 ∧ strides.toNat % 2 ^ 32 % 64 = 0 ∧ strides.toNat / 2 ^ 32 % 64 = 0
        (¬aligned → TrapsWith (.sbind g d a b e) s c k t 0x13#8 0)
        ∧ (aligned → shape.toNat / 2 ^ 33 ≠ 0 → TrapsWith (.sbind g d a b e) s c k t 0x02#8 0)
        ∧ (aligned → shape.toNat / 2 ^ 33 = 0 → Drained t →
          Completes (.sbind g d a b e) s c k (r.2, { t with streams := t.streams.setIfInBounds n (some
            { base := base, s0 := strides.setWidth 32, s1 := (strides >>> 32).setWidth 32, c0 := shape.setWidth 16,
              c1 := (shape >>> 16).setWidth 16, wr := shape.getLsbD 32, pos := 0, ovr := false, ahead := [] }) }) (nextHead t) 1)
        ∧ (aligned → shape.toNat / 2 ^ 33 = 0 → ¬Drained t → Parks (.sbind g d a b e) s c k t .sbEmpty))
      ∧ Completes (.sunbind g d) s c k (s, { t with streams := t.streams.setIfInBounds n none }) (nextHead t) 1
      ∧ (fieldsReady s c k t [] [x] = true →
        let w : Word := match (t.streams[n]?).getD none with
          | none => 0
          | some st => fields [(st.ovr.toNat, 34), (st.wr.toNat, 33), (1, 32), (st.c0.toNat * st.c1.toNat - st.pos, 0)]
        Completes (.stest g x d) s c k (result s c k t [] x fun _ => w) (nextHead t) 1))
  ∧ (∀ (s : State) (c k : Nat) (t : Thread) (g : Guard) (d a : VReg) (y : Reg) (ty : Ty) (m : Option MReg) (st : Stream), Issues s c k t g →
      let mask := maskOf t m
      let en := enables ty mask
      let set := fun (t : Thread) (r : VReg) (x : Stream) => { t with streams := t.streams.setIfInBounds (r.toNat - 4) (some x) }
      let total := st.c0.toNat * st.c1.toNat
      let addr := st.base + st.s1.signExtend 64 * Word.ofNat (st.pos / st.c0.toNat) + st.s0.signExtend 64 * Word.ofNat (st.pos % st.c0.toNat)
      let inv := fun (v : Vec) (i : Nat) => (2 ^ ty.width - 1 - elem ty v i, Flags.none)
      (streamOf t a = some st → plainRegs t [d] →
        (st.wr = true → TrapsWith (.vnot g d a ty m) s c k t 0x01#8 0)
        ∧ (st.wr = false → total ≤ st.pos → ∃ w, Merged ty mask (vget t d) w (inv 0)
            ∧ Completes (.vnot g d a ty m) s c k (s, withVector (set t a { st with ovr := true }) d w .none) (nextHead t) 1)
        ∧ (∀ v, st.wr = false → st.pos < total → st.ahead.head? = some v → t.replies = [] → ∀ p s1, addr.toNat % 64 = 0 →
            accessAt s c t addr rR = some (p, s1) →
            ∃ w, Merged ty mask (vget t d) w (inv v) ∧ Completes (.vnot g d a ty m) s c k
              (s1, withVector (set t a { st with pos := st.pos + 1, ahead := st.ahead.drop 1 }) d w .none) (nextHead t) 1)
        ∧ (st.wr = false → st.pos < total → st.ahead = [] → ∀ p s1 v, addr.toNat % 64 = 0 →
            accessAt s c t addr rR = some (p, s1) → loaded s1 c t addr 64 (BitVec.allOnes 64) p = some v →
            ∃ w, Merged ty mask (vget t d) w (inv v) ∧ Completes (.vnot g d a ty m) s c k
              (s1, withVector (set t a { st with pos := st.pos + 1 }) d w .none) (nextHead t) 1))
      ∧ (streamOf t d = some st → fieldsReady s c k t [y] [] = true →
        let r := takeFields s c k t [y]
        (st.wr = false → TrapsWith (.vbcast g d y ty m) s c k t 0x01#8 0)
        ∧ (st.wr = true → total ≤ st.pos → Completes (.vbcast g d y ty m) s c k (r.2, set t d { st with ovr := true }) (nextHead t) 1)
        ∧ (st.wr = true → st.pos < total → en = 0 →
            Completes (.vbcast g d y ty m) s c k (r.2, set t d { st with pos := st.pos + 1 }) (nextHead t) 1)
        ∧ (st.wr = true → st.pos < total → en ≠ 0 → t.sb.length < 8 → ∀ p s1, addr.toNat % 64 = 0 →
            accessAt r.2 c t addr rW = some (p, s1) →
            ∃ v : Vec, (∀ i, i < ty.count → mask.getLsbD i = true → elem ty v i = ty.low (r.1.headD 0))
              ∧ Completes (.vbcast g d y ty m) s c k (s1, { set t d { st with pos := st.pos + 1 } with
                  sb := t.sb ++ [.store (Word.ofNat (s1.keyOf c addr)) v en addr] }) (nextHead t) 1)))
  ∧ (∀ (s : State) (c k : Nat) (t : Thread) (g : Guard) (d a b e : VReg) (y : Reg) (dm : MReg) (ty : Ty) (sat : Bool) (rm : Rm) (m : Option MReg),
      Issues s c k t g →
      let mask := maskOf t m
      let fit := fun (x : Int) => if sat then (ty.ofInt (ty.clamp x).1, ({ sat := (ty.clamp x).2 } : Flags)) else (ty.ofInt x, .none)
      let wrap := fun (x : Int) => (ty.ofInt x, Flags.none)
      let plain := fun (x : Nat) => (x, Flags.none)
      let I := ty.toInt
      let w := ty.width
      let mode : RMode := match rm with
        | .rne => .rne | .rtz => .rtz | .rup => .rup | .rdn => .rdn
        | .dyn => .ofBits (t.fpctl.extractLsb' 0 2)
      let one := fun (i : Instr) (h : Nat → Nat × Flags) (lat : Nat) =>
        StreamResult i s c k t s d [a] ty mask (fun vs j => h (elem ty (vs.headD 0) j)) lat
      let two := fun (i : Instr) (h : Nat → Nat → Nat × Flags) (lat : Nat) =>
        StreamResult i s c k t s d [a, b] ty mask (fun vs j => h (elem ty (vs.headD 0) j) (elem ty ((vs.drop 1).headD 0) j)) lat
      let three := fun (i : Instr) (h : Nat → Nat → Nat → Nat × Flags) (lat : Nat) =>
        StreamResult i s c k t s d [a, b, e] ty mask (fun vs j => h (elem ty (vs.headD 0) j) (elem ty ((vs.drop 1).headD 0) j)
          (elem ty ((vs.drop 2).headD 0) j)) lat
      one (.vabsInt g d a ty sat m) (fun x => fit ((I x).natAbs : Int)) 1
      ∧ one (.vnot g d a ty m) (fun x => plain (2 ^ w - 1 - x)) 1
      ∧ two (.vaddInt g d a b ty sat m) (fun x y => fit (I x + I y)) 1
      ∧ two (.vsubInt g d a b ty sat m) (fun x y => fit (I x - I y)) 1
      ∧ two (.vmulInt g d a b ty sat m) (fun x y => fit (I x * I y)) 1
      ∧ two (.vminInt g d a b ty m) (fun x y => wrap (min (I x) (I y))) 1
      ∧ two (.vmaxInt g d a b ty m) (fun x y => wrap (max (I x) (I y))) 1
      ∧ two (.vshr g d a b ty m) (fun x y => plain (x / 2 ^ (y % w))) 1
      ∧ two (.vand g d a b ty m) (fun x y => plain (x &&& y)) 1
      ∧ two (.vor g d a b ty m) (fun x y => plain (x ||| y)) 1
      ∧ two (.vxor g d a b ty m) (fun x y => plain (x ^^^ y)) 1
      ∧ two (.vaddFp g d a b ty rm m) (fun x y => fadd (fmt ty) mode x y) 6
      ∧ two (.vsubFp g d a b ty rm m) (fun x y => fsub (fmt ty) mode x y) 6
      ∧ two (.vmulFp g d a b ty rm m) (fun x y => fmul (fmt ty) mode x y) 6
      ∧ three (.vfma g d a b e ty rm m) (fun x y z => ffma (fmt ty) mode false false x y z) 6
      ∧ three (.vfmaNa g d a b e ty rm m) (fun x y z => ffma (fmt ty) mode true false x y z) 6
      ∧ (fieldsReady s c k t [y] [] = true →
        let r := takeFields s c k t [y]
        let Y := ty.low (r.1.headD 0)
        let scalar := fun (i : Instr) (h : Nat → Nat × Flags) (lat : Nat) =>
          StreamResult i s c k t r.2 d [a] ty mask (fun vs j => h (elem ty (vs.headD 0) j)) lat
        scalar (.vaddIntScalar g d a y ty sat m) (fun x => fit (I x + I Y)) 1
        ∧ scalar (.vmulIntScalar g d a y ty sat m) (fun x => fit (I x * I Y)) 1
        ∧ scalar (.vaddFpScalar g d a y ty rm m) (fun x => fadd (fmt ty) mode x Y) 6
        ∧ scalar (.vmulFpScalar g d a y ty rm m) (fun x => fmul (fmt ty) mode x Y) 6)
      ∧ (∀ vs t1 s2, takeVecs s c t [a, b] = some (vs, t1, s2) →
        let f := fun (j : Nat) => Vop.cmp ty .lt (elem ty (vs.headD 0) j) (elem ty ((vs.drop 1).headD 0) j)
        ∃ w : Word, (∀ j, w.getLsbD j = (decide (j < ty.count) && mask.getLsbD j && (f j).1))
          ∧ Completes (.vcmpLt g dm a b ty m) s c k (s2, { t1 with m := t.m.setIfInBounds dm.toNat w, fpctl := t.fpctl ||| (Flags.all
              ((List.range ty.count).map fun j => if mask.getLsbD j then (f j).2 else .none)).word }) (nextHead t) 1))
  ∧ (∀ (s : State) (c k : Nat) (t : Thread) (g : Guard) (d : VReg) (a b : Reg) (ty : Ty) (m : Option MReg) (st : Stream), Issues s c k t g →
      fieldsReady s c k t [a, b] [] = true → streamOf t d = some st →
      let r := takeFields s c k t [a, b]
      let x := op2 (fun x y => x + y) r.1
      let en := enables ty (maskOf t m)
      let total := st.c0.toNat * st.c1.toNat
      let addr := st.base + st.s1.signExtend 64 * Word.ofNat (st.pos / st.c0.toNat) + st.s0.signExtend 64 * Word.ofNat (st.pos % st.c0.toNat)
      let next := fun (t : Thread) (q : Stream) => { t with streams := t.streams.setIfInBounds (d.toNat - 4) (some q) }
      let put := fun (st : State) (t : Thread) (a : Word) (v : Vec) => { t with sb := t.sb ++ [.store (Word.ofNat (st.keyOf c a)) v en a] }
      (st.wr = false → TrapsWith (.vld g d a b ty m) s c k t 0x01#8 0)
      ∧ (st.wr = true →
        (en = 0 → Completes (.vld g d a b ty m) s c k
          (r.2, next t (if st.pos < total then { st with pos := st.pos + 1 } else { st with ovr := true })) (nextHead t) 1)
        ∧ (en ≠ 0 → total ≤ st.pos → ∀ p s1 v, x.toNat % 64 = 0 → accessAt r.2 c t x rR = some (p, s1) → loaded s1 c t x 64 en p = some v →
          Completes (.vld g d a b ty m) s c k (s1, next t { st with ovr := true }) (nextHead t) (loadLat c p))
        ∧ (en ≠ 0 → st.pos < total → t.sb.length < 8 → ∀ p q s1 v, x.toNat % 64 = 0 → addr.toNat % 64 = 0 →
          accessesAt r.2 c t [(x, rR), (addr, rW)] = some ([p, q], s1) → loaded s1 c t x 64 en p = some v →
          Completes (.vld g d a b ty m) s c k (s1, next (put s1 t addr v) { st with pos := st.pos + 1 }) (nextHead t) (loadLat c p))
        ∧ TrapsWith (.vst g d a b ty m) s c k t 0x01#8 0)
      ∧ (st.wr = false → t.sb.length < 8 →
        (total ≤ st.pos → en = 0 → Completes (.vst g d a b ty m) s c k (r.2, next t { st with ovr := true }) (nextHead t) 1)
        ∧ (total ≤ st.pos → ∀ p s1, en ≠ 0 → x.toNat % 64 = 0 → accessAt r.2 c t x rW = some (p, s1) →
          Completes (.vst g d a b ty m) s c k (s1, put s1 (next t { st with ovr := true }) x 0) (nextHead t) 1)
        ∧ (∀ p q s1 v, en ≠ 0 → st.pos < total → x.toNat % 64 = 0 → addr.toNat % 64 = 0 →
          accessesAt r.2 c t [(x, rW), (addr, rR)] = some ([q, p], s1) →
          (t.replies = [] ∧ st.ahead.head? = some v ∨ st.ahead = [] ∧ loaded s1 c t addr 64 (Exec.firstBytes 64) p = some v) →
          Completes (.vst g d a b ty m) s c k
            (s1, put s1 (next t { st with pos := st.pos + 1, ahead := st.ahead.drop 1 }) x v) (nextHead t) 1)
        ∧ (∀ p s1 v, en = 0 → st.pos < total → addr.toNat % 64 = 0 → accessAt r.2 c t addr rR = some (p, s1) →
          (t.replies = [] ∧ st.ahead.head? = some v ∨ st.ahead = [] ∧ loaded s1 c t addr 64 (Exec.firstBytes 64) p = some v) →
          Completes (.vst g d a b ty m) s c k
            (s1, next t { st with pos := st.pos + 1, ahead := st.ahead.drop 1 }) (nextHead t) 1)))

/-- R262-R264, R267: on the thread's own slice, with an empty store buffer, a synchronising access whose attempt succeeds
has its effect after the next line has been entered, and completes; one whose word is in the wrong state parks and changes
nothing. The answer of an attempt elsewhere completes it. A misaligned word traps with 0x13, an address outside the SRAM
with 0x10. -/
def Obligations.SynchronisingForms : Prop :=
  ∀ (s : State) (c k : Nat) (t : Thread) (g : Guard) (d a : Reg) (disp : BitVec 11),
    let loads := fun (i : Instr) (need : Byte) (ok : Bool → Bool) (f : State → Nat → Word × State) =>
      fieldsReady s c k t [a] [d] = true → Drained t →
      let r := takeFields s c k t [a]
      let ea := r.1.headD 0 + disp.signExtend 64
      (Issues s c k t g → ea.toNat % 8 ≠ 0 → TrapsWith i s c k t 0x13#8 ea)
      ∧ ∀ p s1, ea.toNat % 8 = 0 → accessAt r.2 c t ea need = some (p, s1) →
        (Issues s c k t g → (∀ q, p ≠ .sram q) → TrapsWith i s c k t 0x10#8 ea)
        ∧ (∀ q, p = .sram q → t.run = .ready → t.waited = none →
          (Issues s c k t g → t.replies = [] → t.twin = none → q / 2 ^ 21 = quadOf c → s.fencedAt q = false →
            (ok (s.full q) = true → CompletesAfter i s c k (s1, t)
              (fun st => putField c d (f st q).1 ((f st q).2, t)) 1)
            ∧ ∀ l s2, ok (s.full q) = false → lineAt s1 c t (nextHead t) = some (l, s2) → Parks i s c k t (.sync false))
          ∧ (∀ l v, Continues s c k t g l → t.replies = [.val v] →
            exec i s = .next (let p := putField c d (v.setWidth 64) (s1, t); retired p.1 c k p.2 (nextHead t) l 1)))
        ∧ (∀ q l lim m b, p = .sram q → Continues s c k t g l → t.replies = [] → t.run = .parked (.sync b) lim m → lim ≤ m + 1 →
          TrapsWith i s c k t 0x12#8 ea)
    loads (.ldsync g d a disp) (rR ||| rW ||| rS) id (fun st q => (st.word q, st.setEmpty q))
    ∧ loads (.ldsyncKeep g d a disp) (rR ||| rS) id (fun st q => (st.word q, st))
    ∧ loads (.feread g d a disp) (rR ||| rS) (fun _ => true) (fun st q => (if st.full q then 1 else 0, st))
    ∧ (let stores := fun (i : Instr) (srcs : List Reg) (need : Byte) (ok : Bool → Bool) (f : State → Nat → Word → State) =>
        fieldsReady s c k t srcs [] = true → Drained t →
        let r := takeFields s c k t srcs
        let ea := r.1.headD 0 + disp.signExtend 64
        let x := (r.1.drop 1).headD 0
        (Issues s c k t g → ea.toNat % 8 ≠ 0 → TrapsWith i s c k t 0x13#8 ea)
        ∧ ∀ q s1, ea.toNat % 8 = 0 → accessAt r.2 c t ea need = some (.sram q, s1) → t.run = .ready → t.waited = none →
          (Issues s c k t g → t.replies = [] → t.twin = none → q / 2 ^ 21 = quadOf c → s.fencedAt q = false →
            (ok (s.full q) = true → CompletesAfter i s c k (s1, t) (fun st => (f st q x, t)) 1)
            ∧ ∀ l s2, ok (s.full q) = false → lineAt s1 c t (nextHead t) = some (l, s2) → Parks i s c k t (.sync false))
          ∧ (∀ l v, Continues s c k t g l → t.replies = [.val v] → exec i s = .next (retired s1 c k t (nextHead t) l 1))
          ∧ (∀ l lim m b, Continues s c k t g l → t.replies = [] → t.run = .parked (.sync b) lim m → lim ≤ m + 1 →
            TrapsWith i s c k t 0x12#8 ea)
      stores (.stsync g d a disp) [a, d] (rW ||| rS) (!·) (fun st q x => (st.write q 8 x.toNat).setFull q)
      ∧ stores (.stfill g d a disp) [a, d] (rW ||| rS) (fun _ => true) (fun st q x => (st.write q 8 x.toNat).setFull q)
      ∧ stores (.feset g a disp) [a] (rW ||| rS) (fun _ => true) (fun st q _ => st.setFull q)
      ∧ stores (.feclr g a disp) [a] (rR ||| rW ||| rS) (fun _ => true) (fun st q _ => st.setEmpty q))

/-- R268, R269, R255: an atomic on the thread's own slice, its release complete, reads the value, writes what its
operation gives and returns the old value, in one step after the next line has been entered; elsewhere the answer
completes it. -/
def Obligations.AtomicForms : Prop :=
  ∀ (s : State) (c k : Nat) (t : Thread) (g : Guard) (d a b e : Reg) (ty : Ty) (o : Ord) (sc : Scope), (ty.width = 32 ∨ ty.width = 64) →
    let w := ty.width
    let S := fun (x : Nat) => if ty.signed ∧ 2 ^ (w - 1) ≤ x then (x : Int) - 2 ^ w else (x : Int)
    let amo := fun (i : Instr) (srcs : List Reg) (f : Nat → Nat → Nat → Option Nat) =>
      fieldsReady s c k t srcs [d] = true → Drained t → (o = .rel ∨ o = .ar → Released t sc) →
      let r := takeFields s c k t srcs
      let ea := r.1.headD 0
      let B := ((r.1.drop 1).headD 0).toNat % 2 ^ w
      let C := ((r.1.drop 2).headD 0).toNat % 2 ^ w
      (Issues s c k t g → ea.toNat % (w / 8) ≠ 0 → TrapsWith i s c k t 0x13#8 ea)
      ∧ ∀ p s1, ea.toNat % (w / 8) = 0 → accessAt r.2 c t ea (rR ||| rW ||| rA) = some (p, s1) →
        (∀ q, p = .sram q → Issues s c k t g → t.replies = [] → t.twin = none → q / 2 ^ 21 = quadOf c → s.fencedAt q = false →
          CompletesAfter i s c k (s1, t) (fun st =>
            let old := st.read q (w / 8)
            putField c d (ty.place old) (match f old B C with
              | some n => st.write q (w / 8) n
              | none => st, t)) 1)
        ∧ (∀ l v, (∀ off, p ≠ .mgmt off) → Continues s c k t g l → t.replies = [.val v] →
          exec i s = .next (let p := putField c d (ty.place (v.toNat % 2 ^ w)) (s1, t); retired p.1 c k p.2 (nextHead t) l 1))
    amo (.amoAdd g d a b ty o sc) [a, b] (fun x y _ => some ((x + y) % 2 ^ w))
    ∧ amo (.amoAnd g d a b ty o sc) [a, b] (fun x y _ => some (x &&& y))
    ∧ amo (.amoOr g d a b ty o sc) [a, b] (fun x y _ => some (x ||| y))
    ∧ amo (.amoXor g d a b ty o sc) [a, b] (fun x y _ => some (x ^^^ y))
    ∧ amo (.amoMin g d a b ty o sc) [a, b] (fun x y _ => some (if S y < S x then y else x))
    ∧ amo (.amoMax g d a b ty o sc) [a, b] (fun x y _ => some (if S x < S y then y else x))
    ∧ amo (.amoSwap g d a b ty o sc) [a, b] (fun _ y _ => some y)
    ∧ amo (.amoCas g d a b e ty o sc) [a, b, e] (fun x y z => if x = z then some y else none)

/-- R275, R276, R121: fence.rel puts a marker behind the buffered stores and completes once it has room; fence.acq
discards what the streams have read ahead; fence.ar also waits for its release; while stores before the fence are in the buffer,
an instruction that goes on in another line parks before it enters that line. Which stores plbinval and scinval wait for, that they
wait for DRAM in self-refresh, and the fills a prefetch makes without its thread, are the model's choices (log entries 20, 28, 29
and 43). R278-R283, R237, R246: plbload gives the rights byte of a page or all ones;
plbinval removes PLB entries of a context, waits for the stores that had passed their check before it, and empties the line
buffers; scflush checks the read right of every page and writes back the dirty lines of its range; scinval drops what is
cached of its range, for the stores of every context; the plinth's forms trap with 0x08 elsewhere; a prefetch completes
whatever its address. -/
def Obligations.FenceMaintenanceForms : Prop :=
  (∀ (s : State) (c k : Nat) (t : Thread) (g : Guard) (a : Reg) (sc : Scope), Issues s c k t g →
      let fresh := t.streams.map fun st => st.map fun x => { x with ahead := [] }
      (t.sb.length < 8 → Completes (.fence g .rel sc) s c k (s, { t with sb := t.sb ++ [.marker sc], fenceLeft := t.buffered }) (nextHead t) 1)
      ∧ Completes (.fence g .acq sc) s c k (s, { t with streams := fresh, fenceLeft := t.buffered }) (nextHead t) 1
      ∧ (Released t sc → Completes (.fence g .ar sc) s c k (s, { t with streams := fresh }) (nextHead t) 1)
      ∧ (¬Drained t → Parks (.fence g .ar sc) s c k t .sbEmpty)
      ∧ (8 ≤ t.sb.length → Parks (.fence g .rel sc) s c k t .sbRoom)
      ∧ (t.fenceLeft ≠ 0 → Exec.headIdx (nextHead t) ≠ 0 → (∀ l, t.line = some l → l.num ≠ Exec.lineNum (nextHead t)) →
        Parks (.nop g) s c k t .sbEmpty ∧ (t.replies = [] → Parks (.plbinval g none none) s c k t .sbEmpty))
      ∧ (t.fenceLeft ≠ 0 → fieldsReady s c k t [a] [] = true →
        let pc := (takeFields s c k t [a]).1.headD 0
        pc.getLsbD 0 = false → Exec.headIdx pc ≠ 0 → (∀ l, t.line = some l → l.num ≠ Exec.lineNum pc) → Parks (.jmp g a) s c k t .sbEmpty))
  ∧ (∀ (s : State) (c k : Nat) (t : Thread) (g : Guard) (d a b : Reg),
      let n := s.ctxOf c
      let tenant := ((s.ctx n).getD {}).tenant
      let key := fun (x : Word) => plbKey tenant x
      (fieldsReady s c k t [a] [d] = true →
        let r := takeFields s c k t [a]
        let x := r.1.headD 0
        let map := r.2.mapCheck c ((r.2.ctx (r.2.ctxOf c)).getD {}) x
        ((map = .error 0x11#8 ∨ ∃ off, map = .ok (.mgmt off)) → Issues s c k t g →
          Completes (.plbload g d a) s c k (result s c k t [a] d fun _ => BitVec.allOnes 64) (nextHead t) 1)
        ∧ (∀ q l m e, map = .ok q → (∀ off, q ≠ .mgmt off) → Continues s c k t g l → t.filled.find? (fun f => f.1 == key x / 2 ^ 17) = some (m, e) →
            exec (.plbload g d a) s = .next (let w : Word := match e with
                | some e => e.rights.zeroExtend 64
                | none => BitVec.allOnes 64
              let p := result s c k t [a] d fun _ => w
              retired p.1 c k p.2 (nextHead t) l 1))
        ∧ (∀ q, map = .ok q → (∀ off, q ≠ .mgmt off) → Issues s c k t g → (∀ e ∈ t.filled, e.1 ≠ key x / 2 ^ 17) → Parks (.plbload g d a) s c k t (.plb x)))
      ∧ (Issues s c k t g → t.replies = [] →
        (s.buffered (· == n) = [] →
          let keep := fun (st : State) (ok : PlbEntry → Bool) => State.emptyBufs
            { st with cores := Tab.mapV st.cores fun _ x => if x.ctx = some n then { x with plb := x.plb.filter ok } else x } (· == n)
          CompletesAfter (.plbinval g none none) s c k (s, t) (fun st => (keep st fun _ => false, t)) 1
          ∧ (fieldsReady s c k t [a] [] = true → let r := takeFields s c k t [a]
            CompletesAfter (.plbinval g (some a) none) s c k (r.2, t)
              (fun st => (keep st fun e => !e.covers (key (r.1.headD 0)), t)) 1))
        ∧ (s.buffered (· == n) ≠ [] → ∀ l s1, lineAt s c t (nextHead t) = some (l, s1) → Parks (.plbinval g none none) s c k t .inval)
        ∧ (s.isPlinth c = false → (∀ x, TrapsWith (.plbinval g x (some b)) s c k t 0x08#8 0) ∧ TrapsWith (.scinval g a) s c k t 0x08#8 0)
        ∧ (s.isPlinth c = true → fieldsReady s c k t [a, b] [] = true →
          let r := takeFields s c k t [a, b]
          let target := ((r.1.drop 1).headD 0).toNat % 256
          s.buffered (· == target) = [] → CompletesAfter (.plbinval g (some a) (some b)) s c k (r.2, t)
            (fun st => ((st.plbDrop target (some (r.1.headD 0))).emptyBufs (· == target), t)) 1)
        ∧ (s.isPlinth c = true → fieldsReady s c k t [a] [] = true → s.buffered (fun _ => true) = [] →
          s.selfRefresh = false →
          let r := takeFields s c k t [a]
          CompletesAfter (.scinval g a) s c k (r.2, t) (fun st => ((match region tenant (r.1.headD 0) with
            | .paged p => st.scInval p
            | _ => st).emptyBufs (fun _ => true), t)) 1))
      ∧ (∀ l, Continues s c k t g l → t.replies = [.val 0] →
        (s.undrained t.waitsFor = false → exec (.plbinval g none none) s = .next (retired (s.emptyBufs (· == n)) c k t (nextHead t) l 1))
        ∧ (s.undrained t.waitsFor = true → Parks (.plbinval g none none) s c k t .inval))
      ∧ (Issues s c k t g → fieldsReady s c k t [a, b] [] = true →
        let r := takeFields s c k t [a, b]
        let x := (r.1.headD 0).toNat / 64 * 64
        let len := ((r.1.drop 1).headD 0).toNat % 2 ^ 19
        (len = 0 → Completes (.scflush g a b) s c k (r.2, t) (nextHead t) 1)
        ∧ (len ≠ 0 → ¬Drained t → Parks (.scflush g a b) s c k t .sbEmpty)
        ∧ (∀ ps s1, len ≠ 0 → Drained t → accessesAt r.2 c t ((x :: (List.range ((x + 64 * len - 1) / 2 ^ 17 - x / 2 ^ 17)).map
              fun i => (x / 2 ^ 17 + 1 + i) * 2 ^ 17).map fun p => (Word.ofNat p, rR)) = some (ps, s1) →
            match region tenant (Word.ofNat x) with
            | .paged p =>
              let here := fun (l : Nat) => decide (p.toNat / 64 ≤ l) && decide (l < p.toNat / 64 + len)
              (s.selfRefresh = false ∨ s.dirtyLine here = false → Completes (.scflush g a b) s c k (s1.writeBack here, t) (nextHead t) 1)
              ∧ (s.selfRefresh = true → s.dirtyLine here = true → Parks (.scflush g a b) s c k t .inval)
            | _ => Completes (.scflush g a b) s c k (s1, t) (nextHead t) 1))
      ∧ (Issues s c k t g → fieldsReady s c k t [a] [] = true →
        let r := takeFields s c k t [a]
        let x := r.1.headD 0
        let hint := fun (i : Instr) (need : Byte) (wr : Bool) =>
          ((∀ p, region tenant x ≠ .paged p) → Completes i s c k (r.2, t) (nextHead t) 1)
          ∧ ∀ p, region tenant x = .paged p →
            let entry := (plbFind (r.2.core c).plb p.toNat).or (r.2.fill ((s.ctx n).getD {}) x)
            (entry = none → Completes i s c k (r.2, t) (nextHead t) 1)
            ∧ (∀ e, entry = some e → CompletesAfter i s c k (r.2, t) (fun st =>
              let st := st.updCore c fun y => { y with plb := plbTouch y.plb e }
              (if e.rights &&& need = need then (match (st.translate p).1 with
                | .absent => if (st.translate p).2.outsidePage p then (st.translate p).2 else (st.translate p).2.postPage p n c wr true
                | .dram e => if (st.translate p).2.sleeps p then { (st.translate p).2 with dramExit := true } else (st.translate p).2.fillLine p e false
                | _ => (st.translate p).2) else st, t)) 1)
        hint (.prefetch g a) rR false ∧ hint (.prefetchW g a) rW true))

/-! ### Threads, messages, engines and the fabric -/

/-- R202, R203, R205, R206: fork pushes a prepared record on the deque, its counter incremented first, or answers 1 where
the deque, the places that other forks have reserved counted, is full; join completes on a counter of zero and parks otherwise. -/
def Obligations.ForkJoinForms : Prop :=
  ∀ (s : State) (c k : Nat) (t : Thread) (g : Guard) (d a b : Reg) (lendBit pv : Bool) (dom : BitVec 2) (prio : BitVec 4),
    let i : Instr := .fork g d a b lendBit pv dom prio
    (t.twin.isSome = true → Issues s c k t g → TrapsWith i s c k t 0x01#8 0)
    ∧ (t.twin = none → fieldsReady s c k t [a, b] [d] = true →
      let r := takeFields s c k t [a, b]
      let x := r.1.headD 0
      let y := (r.1.drop 1).headD 0
      let rec_ : TaskRec := { pc := x, args := [t.g[0], t.g[1], t.g[2], t.g[3]], join := y, prio := min (if pv then prio.toNat else t.prio) t.prio,
                              dom := min dom.toNat t.dom, ctx := s.ctxOf c, pin := false, lend := lendBit }
      let push := fun (st : State) => putField c d 0 ((st.updCore c (·.pushDeque rec_)).spillDeque c, t)
      let held := fun (x : Core) => (x.slots.filter fun p => p.2.heldDeque && p.1 != k).length
      (384 ≤ (r.2.core c).deque.length + held (r.2.core c) → Issues s c k t g → t.replies = [] →
        Completes i s c k (putField c d 1 (r.2, t)) (nextHead t) 1)
      ∧ ((r.2.core c).deque.length + held (r.2.core c) < 384 → Issues s c k t g → t.replies = [] →
        (y = 0 → Completes i s c k (push r.2) (nextHead t) 1)
        ∧ ∀ q s1, y ≠ 0 → Drained t → y.toNat % 8 = 0 → accessAt r.2 c t y (rR ||| rW ||| rA) = some (.sram q, s1) →
          q / 2 ^ 21 = quadOf c → s.fencedAt q = false →
          CompletesAfter i s c k (s1, t) (fun st => push (st.write q 8 ((st.read q 8 + 1) % 2 ^ 64))) 1)
      ∧ (∀ p s1 l v, (r.2.core c).deque.length + held (r.2.core c) < 384 → Continues s c k t g l → t.replies = [.val v] → y ≠ 0 → Drained t → y.toNat % 8 = 0 →
          accessAt r.2 c t y (rR ||| rW ||| rA) = some (p, s1) → (∀ off, p ≠ .mgmt off) →
          exec i s = .next (retired (push s1).1 c k (push s1).2 (nextHead t) l 1)))
    ∧ (∀ x : Core, ∀ r : TaskRec, (x.pushDeque r).deque = r :: x.deque)
    ∧ (Issues s c k t g → fieldsReady s c k t [a] [] = true →
      let r := takeFields s c k t [a]
      let x := r.1.headD 0
      ∀ p s1 v, x.toNat % 8 = 0 → accessAt r.2 c t x rR = some (p, s1) → loaded s1 c t x 8 (Exec.firstBytes 8) p = some v →
        (v.setWidth 64 = (0 : Word) → Completes (.join g a) s c k (s1, t) (nextHead t) 1)
        ∧ (v.setWidth 64 ≠ (0 : Word) → Parks (.join g a) s c k t (.join x)))

/-- R180, R202, R207: spawn reads a task record of 64 bytes, prepares it, and puts it into the inbox of a core of its
context, its counter incremented first, in memory or by the request whose answer has come; it answers 2 for a core outside the core
map, and parks without room. -/
def Obligations.SpawnForm : Prop :=
  ∀ (s : State) (c k : Nat) (t : Thread) (g : Guard) (d a b : Reg),
    (Issues s c k t g → t.twin.isSome = true → TrapsWith (.spawn g d a b) s c k t 0x01#8 0)
    ∧ (Issues s c k t g → t.twin = none → fieldsReady s c k t [a, b] [d] = true →
      let r := takeFields s c k t [a, b]
      let x := r.1.headD 0
      let y := (r.1.drop 1).headD 0
      let map := ((s.ctx (s.ctxOf c)).getD {}).cores
      (map[y.toNat]? = none → Completes (.spawn g d a b) s c k (putField c d 2 (r.2, t)) (nextHead t) 1)
      ∧ ∀ n p s1 v, map[y.toNat]? = some n → x.toNat % 64 = 0 → accessAt r.2 c t x rR = some (p, s1) →
        loaded s1 c t x 64 (Exec.firstBytes 64) p = some v →
        let w := fun (i : Nat) => v.extractLsb' (64 * i) 64
        let rec_ : TaskRec := { pc := w 0, args := [w 1, w 2, w 3, w 4], join := w 5, prio := min ((w 6).toNat % 16) t.prio,
                                dom := min ((w 6).toNat / 16 % 4) t.dom, ctx := s.ctxOf c, pin := (w 6).getLsbD 16, lend := (w 6).getLsbD 17 }
        let mark := InboxItem.reserved c k
        let reserved := s1.updCore n fun y => { y with inbox := y.inbox ++ [mark] }
        let placed := fun (st : State) => putField c d 0
          (st.updCore n fun y => { y with inbox := y.inbox.filter (· != mark) ++ [.task rec_] }, t)
        ((s1.core n).inbox.contains mark = false →
          ((s1.core n).inboxRoom 1 = true → w 5 = 0 → Completes (.spawn g d a b) s c k (placed reserved) (nextHead t) (loadLat c p))
          ∧ (∀ q s2, (s1.core n).inboxRoom 1 = true → w 5 ≠ 0 → t.replies.length ≤ 1 → Drained t → (w 5).toNat % 8 = 0 →
            accessAt reserved c t (w 5) (rR ||| rW ||| rA) = some (.sram q, s2) → q / 2 ^ 21 = quadOf c → s.fencedAt q = false →
            CompletesAfter (.spawn g d a b) s c k (s2, t) (fun st => placed (st.write q 8 ((st.read q 8 + 1) % 2 ^ 64))) (loadLat c p))
          ∧ ((s1.core n).inboxRoom 1 = false → t.run = .ready → t.waited = none → 0 < t.wlim → Parks (.spawn g d a b) s c k t .inbox)))
    ∧ ∀ l n p s1 v p2 s2 u, Continues s c k t g l → t.twin = none → fieldsReady s c k t [a, b] [d] = true →
      let r := takeFields s c k t [a, b]
      let x := r.1.headD 0
      let join : Word := v.extractLsb' 320 64
      ((s.ctx (s.ctxOf c)).getD {}).cores[((r.1.drop 1).headD 0).toNat]? = some n → x.toNat % 64 = 0 →
      accessAt r.2 c t x rR = some (p, s1) → t.replies = [.val v, .val u] → (s1.core n).inbox.contains (.reserved c k) = true →
      join ≠ 0 → Drained t → join.toNat % 8 = 0 → accessAt s1 c t join (rR ||| rW ||| rA) = some (p2, s2) → (∀ off, p2 ≠ .mgmt off) →
      let f := v.extractLsb' 384 64
      let rec_ : TaskRec := { pc := v.extractLsb' 0 64, args := [v.extractLsb' 64 64, v.extractLsb' 128 64, v.extractLsb' 192 64, v.extractLsb' 256 64],
                              join := join, prio := min (f.toNat % 16) t.prio, dom := min (f.toNat / 16 % 4) t.dom, ctx := s.ctxOf c,
                              pin := f.getLsbD 16, lend := f.getLsbD 17 }
      exec (.spawn g d a b) s = .next (
        let q := putField c d 0 (s2.updCore n fun y => { y with inbox := y.inbox.filter (· != InboxItem.reserved c k) ++ [.task rec_] }, t)
        retired q.1 c k q.2 (nextHead t) l (loadLat c p))

/-- R208, R133, R370, R375: halt, and eret in a handler task, end a thread once its stores have left and nothing is
outstanding: its counter is decremented, a record it was given and has not decided is killed, and its slot is EMPTY; eret
elsewhere traps with 0x01. -/
def Obligations.HaltForms : Prop :=
  ∀ (s : State) (c k : Nat) (t : Thread) (g : Guard), Issues s c k t g →
    let n := s.ctxOf c
    let x := (s.ctx n).getD {}
    let ends := fun (i : Instr) =>
      Drained t → t.outst = 0 →
      (x.ownRecord t = none ∨ t.trapinfo = 0 → t.join = 0 → exec i s = .next (s.endThread c k))
      ∧ (∀ q s1, t.trapinfo = 0 → t.replies = [] → t.twin = none → t.join ≠ 0 → t.join.toNat % 8 = 0 →
          accessAt s c t t.join (rR ||| rW ||| rA) = some (.sram q, s1) → q / 2 ^ 21 = quadOf c → s.fencedAt q = false →
          exec i s = .next ((s1.write q 8 ((s1.read q 8 + (2 ^ 64 - 1)) % 2 ^ 64)).endThread c k))
      ∧ (∀ j r u st o, t.trapinfo ≠ 0 → t.join = 0 → x.ownRecord t = some (j, r) → r.dec = false → r.type = 0 →
          s.tagged r.core r.slot = some u → t.killing = none → t.twin = none → u.run = .trapped st o → u.outst = 0 → u.cv = false → u.join = 0 →
          exec i s = .next ((((s.markDecided n j).endTagged r.core r.slot).freeRecord n j).endThread c k))
    ends (.halt g)
    ∧ (t.trapinfo ≠ 0 → ends (.eret g))
    ∧ (t.trapinfo = 0 → TrapsWith (.eret g) s c k t 0x01#8 0)
    ∧ (¬Drained t → Parks (.halt g) s c k t .sbEmpty)
    ∧ (Drained t → t.outst ≠ 0 → Parks (.halt g) s c k t .outst)
    ∧ (s.endThread c k).mem = s.mem ∧ (s.endThread c k).thread c k = none

/-- R209-R211: yield gives its slot to a candidate of at least its priority, other than a resume record, and is saved
itself; lend and pin set their bits, at most 12 threads of a core pinned. -/
def Obligations.YieldLendPin : Prop :=
  ∀ (s : State) (c k : Nat) (t : Thread) (g : Guard) (d : Reg) (on : Bool), Issues s c k t g →
    Completes (.lend g on) s c k (s, { t with lend := on }) (nextHead t) 1
    ∧ (fieldsReady s c k t [] [d] = true →
      let pins := ((s.core c).slots.filter fun p => p.2.pinned).length
      (on = true ∧ t.pinned = false ∧ 12 ≤ pins → Completes (.pin g d on) s c k (putField c d 0 (s, t)) (nextHead t) 1)
      ∧ (¬(on = true ∧ t.pinned = false ∧ 12 ≤ pins) →
        Completes (.pin g d on) s c k (putField c d 1 (s, { t with pinned := on })) (nextHead t) 1)
      ∧ ((s.core c).bestOther t.prio = none ∨ t.pinned = true ∨ 48 ≤ (s.core c).saved.length ∨ t.headAbsent = true →
        Completes (.yield g d) s c k (putField c d 0 (s, t)) (nextHead t) 1)
      ∧ (∀ src p, (s.core c).bestOther t.prio = some (src, p) → t.prio ≤ p ∧ ∀ n, src ≠ .resume n)
      ∧ (∀ src p l s1, (s.core c).bestOther t.prio = some (src, p) → t.pinned = false → (s.core c).saved.length < 48 → t.headAbsent = false →
          Released t .sys →
          let q := putField c d 1 (s, t)
          lineAt q.1 c q.2 (nextHead t) = some (l, s1) →
          exec (.yield g d) s = .next
            (((s1.setThread c k { Exec.Thread.done q.2 (nextHead t) l ((s.core c).cycle + 1) with stopDue := none }).saveThread c k).launchFrom
              c k src)))

/-- R213: callat puts a call record into the inbox of a core of the context and counts it in the slot's reply binding; it
answers 2 for a core outside the core map, and parks while the binding is used up or the inbox is full. R214, R387, R208:
retm sends the reply to its caller and ends the thread; a thread that was not called traps with 0x01, one whose caller
cannot be reached with 0x20, as a late refusal (log entry 30). -/
def Obligations.CallReturnForms : Prop :=
  (∀ (s : State) (c k : Nat) (t : Thread) (g : Guard) (d a b : Reg), Issues s c k t g →
      (t.twin.isSome = true → TrapsWith (.callat g d a b) s c k t 0x01#8 0)
      ∧ (t.twin = none → fieldsReady s c k t [a, b] [d] = true →
        let r := takeFields s c k t [a, b]
        let y := (r.1.drop 1).headD 0
        let map := ((s.ctx (s.ctxOf c)).getD {}).cores
        let call : TaskRec := { pc := r.1.headD 0, args := [t.g[0], t.g[1], t.g[2], t.g[3]], prio := t.prio, ctx := s.ctxOf c, cv := true,
                                ccore := c, cslot := k }
        let bound := (r.2.core c).bindings.get? k
        let count := match bound with
          | some x => x.count
          | none => 0
        (map[y.toNat]? = none → Completes (.callat g d a b) s c k (putField c d 2 (r.2, t)) (nextHead t) 1)
        ∧ ∀ n, map[y.toNat]? = some n →
          ((∃ x, bound = some x ∧ (x.count = 16 ∨ x.tag ≠ k)) → t.run = .ready → t.waited = none → 0 < t.wlim → Parks (.callat g d a b) s c k t .binding)
          ∧ ((∀ x, bound = some x → x.count ≠ 16 ∧ x.tag = k) → (r.2.core n).inboxRoom 1 = false → t.run = .ready → t.waited = none → 0 < t.wlim →
            Parks (.callat g d a b) s c k t .inbox)
          ∧ ((∀ x, bound = some x → x.count ≠ 16 ∧ x.tag = k) → (r.2.core n).inboxRoom 1 = true →
            Completes (.callat g d a b) s c k (putField c d 0 (((r.2.updCore n fun x => { x with inbox := x.inbox ++ [.task call] }).updCore c
              fun x => { x with bindings := Tab.set x.bindings k { tag := k, count := count + 1 } }), t)) (nextHead t) 1)))
  ∧ (∀ (s : State) (c k : Nat) (t : Thread) (g : Guard) (a : Reg), Issues s c k t g → fieldsReady s c k t [a] [] = true →
      let r := takeFields s c k t [a]
      let n := s.ctxOf c
      (t.cv = false → TrapsWith (.retm g a) s c k t 0x01#8 0)
      ∧ (t.cv = true → Drained t → t.outst = 0 → t.replies = [] →
        (r.2.reach n t.ccore = none → exec (.retm g a) s = .next (s.takeTrap c k { code := 0x20#8, pc := t.pc, rpc := t.pc, imp := true }))
        ∧ ∀ m, r.2.reach n t.ccore = some m →
          (r.2.mailRoom m = true → t.join = 0 → exec (.retm g a) s = .next
            (((r.2.passed n t.ccore).post m { value := r.1.headD 0, src := c, kind := 0, tag := t.cslot }).endThread c k))
          ∧ (r.2.mailRoom m = false → t.run = .ready → t.waited = none → 0 < t.wlim → Parks (.retm g a) s c k t .callerMail)))

/-- R215, R377: msend to a word of a quarter that has an owner takes a sequence number and counts as outstanding; at its
arrival the owner core writes the word, adds 1 to its semaphore and accepts it. R188, R189, R212, R216: a message that
arrives stands last in the queue of its core, a reply under the tag of its binding; mrecv and mtry take the oldest message
for their slot with its header, mwait counts them; without one mrecv and mwait park. That mtry without a message looks at the ports it
names and waits for no room is the model's choice (DEDUCED, log entry 27). -/
def Obligations.MessageForms : Prop :=
  (∀ (s : State) (c k : Nat) (t : Thread) (g : Guard) (a b : Reg) (sem : BitVec 8),
      (Issues s c k t g → fieldsReady s c k t [a, b] [] = true → t.twin = none →
        let r := takeFields s c k t [a, b]
        let x := r.1.headD 0
        let y := (r.1.drop 1).headD 0
        let ctx := (s.ctx (s.ctxOf c)).getD {}
        (x.toNat % 8 ≠ 0 → TrapsWith (.msend g a b sem) s c k t 0x13#8 x)
        ∧ (x.toNat % 8 = 0 → (∀ sl o, region ctx.tenant x ≠ .sram sl o) → TrapsWith (.msend g a b sem) s c k t 0x11#8 x)
        ∧ (∀ sl o owner p s1, x.toNat % 8 = 0 → region ctx.tenant x = .sram sl o → ctx.ownerOf sl o = some owner → ctx.phys sl o = some p →
            accessAt r.2 c t x rW = some (.sram p, s1) → Drained t → t.outst < 65535 →
            let sent : Inflight := { core := c, slot := k, seq := t.seq, addr := x, msend := some (owner, p, y, sem.toNat) }
            Completes (.msend g a b sem) s c k
              ({ s1 with inflight := Tab.set s1.inflight s1.nextReq sent, nextReq := s1.nextReq + 1 },
               { t with outst := t.outst + 1, seq := t.seq + 1 }) (nextHead t) 1))
      ∧ (∀ n i owner p y j m, s.inflight.get? n = some i → i.msend = some (owner, p, y, j) → i.outcome = none →
        s.reach (s.ctxOf i.core) owner = some m → s.closed (s.ctxOf i.core) m = false → s.fencedAt p = false → (s.core m).partners = [] →
        ∃ s1, exec (.msendArrival n) s = .next s1 ∧ s1.mem = (s.write p 8 y.toNat).mem
          ∧ (s1.core m).adds = (s.core m).adds ++ [(j, 1)] ∧ (s1.inflight.get? n).bind (·.outcome) = some none)
      ∧ (∀ n i owner p y j, s.inflight.get? n = some i → i.msend = some (owner, p, y, j) → i.outcome = none →
        (s.reach (s.ctxOf i.core) owner = none ∨ ∃ m, s.reach (s.ctxOf i.core) owner = some m ∧ s.closed (s.ctxOf i.core) m = true) →
        ∃ s1, exec (.msendArrival n) s = .next s1 ∧ s1.mem = s.mem ∧ (s1.inflight.get? n).bind (·.outcome) = some (some 0x20#8)))
  ∧ (∀ (s : State) (c k : Nat) (t : Thread) (g : Guard) (d e : Reg) (pd : PReg),
      (∀ n m, s.messages[n]? = some (c, m) → m.kind ≠ 0 → m.tag < 15 → (s.core c).mail.length < 64 →
        exec (.messageDelivery n) s =
          .next ((({ s with messages := s.messages.eraseIdx n } : State).updCore c fun x => { x with mail := x.mail ++ [m] }).stir c))
      ∧ (∀ n m b, s.messages[n]? = some (c, m) → m.kind = 0 → (s.core c).bindings.get? m.tag = some b → b.count ≤ 1 → b.tag < 15 →
        (s.core c).mail.length < 64 → exec (.messageDelivery n) s = .next ((({ s with messages := s.messages.eraseIdx n } : State).updCore c fun x =>
          { x with mail := x.mail ++ [{ m with tag := b.tag }], bindings := Tab.erase x.bindings m.tag }).stir c))
      ∧ (Issues s c k t g → t.twin = none →
        let mine := (s.core c).mail.filter fun m => m.tag == k
        let head := fun (m : Msg) => fields [(m.status.toNat, 48), (m.seq.toNat, 32), (m.src, 16), (m.kind, 8), (m.tag, 0)]
        let rest := s.updCore c fun x => { x with mail := x.mail.eraseIdx (x.mail.findIdx fun m => m.tag == k) }
        (mine = [] → (fieldChan t true d).isSome = true → (fieldChan t true e).isSome = true → Completes (.mtry g d e pd) s c k (s, { t with pred := Exec.setPred t.pred pd false }) (nextHead t) 1)
        ∧ (fieldsReady s c k t [] [d, e] = true →
          (mine = [] → Parks (.mrecv g d e) s c k t .mail)
          ∧ ∀ m l, mine = m :: l →
            let p := putField c e (head m) (putField c d m.value (rest, t))
            Completes (.mrecv g d e) s c k p (nextHead t) 1
            ∧ Completes (.mtry g d e pd) s c k (p.1, { p.2 with pred := Exec.setPred t.pred pd true }) (nextHead t) 1)
        ∧ (fieldsReady s c k t [] [d] = true →
          (mine = [] → Parks (.mwait g d) s c k t .mail)
          ∧ (mine ≠ [] → Completes (.mwait g d) s c k (putField c d (Word.ofNat mine.length) (s, t)) (nextHead t) 1))))

/-- R217-R220: ksig adds, saturating at 2^32 - 1; ksub and kwait complete once the value is at least their operand, ksub
taking it; kset and kread write and read the state word; ksub and kwait trap with the code of a poisoned semaphore. R221,
R222: ttarm puts a prepared record into the lowest free entry of the table, armed with a semaphore and a threshold, and
answers its number, all ones where none is free, or all ones less 1 for a bad threshold; ttcancel frees an armed
entry and takes its increment back; a counter whose checks fail counts as refused, which is the model's choice (log entry 54). -/
def Obligations.SemaphoreForms : Prop :=
  (∀ (s : State) (c k : Nat) (t : Thread) (g : Guard) (d a : Reg) (n : BitVec 8), Issues s c k t g →
      let v := Tab.getD (s.core c).sems n.toNat {}
      let put := fun (st : State) (x : Sem) => st.updCore c fun y => { y with sems := Tab.set y.sems n.toNat x }
      (fieldsReady s c k t [a] [] = true →
        let r := takeFields s c k t [a]
        let x := r.1.headD 0
        (Drained t →
          Completes (.ksig g a n) s c k (put r.2 { v with v := min (v.v + x.toNat) (2 ^ 32 - 1) }, t) (nextHead t) 1
          ∧ (let code : Byte := if x.getLsbD 32 then (if x.extractLsb' 40 8 = 0#8 then 0x27#8 else x.extractLsb' 40 8) else 0
            Completes (.kset g a n) s c k (put r.2 { v := x.toNat % 2 ^ 32, p := x.getLsbD 32, code := code }, t) (nextHead t) 1))
        ∧ (¬Drained t → Parks (.ksig g a n) s c k t .sbEmpty ∧ Parks (.kset g a n) s c k t .sbEmpty)
        ∧ (v.p = true → TrapsWith (.ksub g a n) s c k t v.code 0 ∧ TrapsWith (.kwait g a n) s c k t v.code 0)
        ∧ (v.p = false → x.toNat ≤ v.v →
          Completes (.ksub g a n) s c k (put r.2 { v with v := v.v - x.toNat }, t) (nextHead t) 1
          ∧ Completes (.kwait g a n) s c k (r.2, t) (nextHead t) 1)
        ∧ (v.p = false → v.v < x.toNat → t.run = .ready → t.waited = none → 0 < t.wlim → Parks (.ksub g a n) s c k t .sem ∧ Parks (.kwait g a n) s c k t .sem)
        ∧ (v.p = false → v.v < x.toNat → ∀ lim m, t.run = .parked .sem lim m →
          (lim ≤ m + 1 → TrapsWith (.ksub g a n) s c k t 0x12#8 0 ∧ TrapsWith (.kwait g a n) s c k t 0x12#8 0)
          ∧ (m + 1 < lim → Parks (.ksub g a n) s c k t .sem ∧ Parks (.kwait g a n) s c k t .sem)))
      ∧ (fieldsReady s c k t [] [d] = true →
        Completes (.kread g d n) s c k (result s c k t [] d fun _ => fields [(v.code.toNat, 40), (v.p.toNat, 32), (v.v, 0)]) (nextHead t) 1))
  ∧ (∀ (s : State) (c k : Nat) (t : Thread) (g : Guard) (d a b : Reg) (n : BitVec 8), Issues s c k t g →
      (t.twin = none → fieldsReady s c k t [a, b] [d] = true →
        let r := takeFields s c k t [a, b]
        let x := r.1.headD 0
        let y := ((r.1.drop 1).headD 0).toNat
        let table := (r.2.core c).table
        let bad := y = 0 ∨ 2 ^ 32 ≤ y
        (bad → Completes (.ttarm g d a b n) s c k (putField c d (-2) (r.2, t)) (nextHead t) 1)
        ∧ ((∀ e, (e, TtEntry.reserved k) ∉ table) →
          (¬bad → Tab.free table 0 32 = none → Completes (.ttarm g d a b n) s c k (putField c d (-1) (r.2, t)) (nextHead t) 1)
          ∧ ∀ e p s1 v, ¬bad → Tab.free table 0 32 = some e → x.toNat % 64 = 0 →
            accessAt (r.2.updCore c fun z => { z with table := Tab.set z.table e (.reserved k) }) c t x rR = some (p, s1) →
            loaded s1 c t x 64 (Exec.firstBytes 64) p = some v → (∀ off, p ≠ .mgmt off) →
            let w := fun (i : Nat) => v.extractLsb' (64 * i) 64
            let rec_ : TaskRec := { pc := w 0, args := [w 1, w 2, w 3, w 4], join := w 5, prio := min ((w 6).toNat % 16) t.prio,
                                    dom := min ((w 6).toNat / 16 % 4) t.dom, ctx := s.ctxOf c, pin := (w 6).getLsbD 16, lend := (w 6).getLsbD 17 }
            w 5 = 0 → Completes (.ttarm g d a b n) s c k (putField c d (Word.ofNat e)
              (s1.updCore c fun z => { z with table := Tab.set z.table e (.armed rec_ n.toNat y) }, t)) (nextHead t) (loadLat c p)))
      ∧ (fieldsReady s c k t [a] [d] = true → (∀ j, t.cancelling = some (t.pc, j) → j = 0 →
          Completes (.ttcancel g d a) s c k (putField c d 1 ((takeFields s c k t [a]).2, t)) (nextHead t) 1))
      ∧ (fieldsReady s c k t [a] [d] = true → t.replies = [] → (∀ j, t.cancelling ≠ some (t.pc, j)) →
        let r := takeFields s c k t [a]
        let e := (r.1.headD 0).toNat
        let free := fun (st : State) => st.updCore c fun z => { z with table := Tab.erase z.table e }
        ((∀ x m v, (r.2.core c).table.get? e ≠ some (.armed x m v)) →
          Completes (.ttcancel g d a) s c k (putField c d 0 (r.2, t)) (nextHead t) 1)
        ∧ ∀ x m v, (r.2.core c).table.get? e = some (.armed x m v) →
          (x.join = 0 → CompletesAfter (.ttcancel g d a) s c k (r.2, t) (fun st => putField c d 1 (free st, t)) 1)
          ∧ ∀ l s1 q s2, x.join ≠ 0 → Drained t → t.twin = none → x.join.toNat % 8 = 0 → lineAt r.2 c t (nextHead t) = some (l, s1) →
            accessAt (free s1) c t x.join (rR ||| rW ||| rA) = some (.sram q, s2) → q / 2 ^ 21 = quadOf c → s.fencedAt q = false →
            exec (.ttcancel g d a) s = .next (let p := putField c d 1 (s2.write q 8 ((s2.read q 8 + (2 ^ 64 - 1)) % 2 ^ 64), t)
              retired p.1 c k p.2 (nextHead t) l 1)
          ∧ ∀ l s1, x.join ≠ 0 → Drained t → (∃ sl o, region ((s.ctx (s.ctxOf c)).getD {}).tenant x.join = .sram sl o) →
            lineAt r.2 c t (nextHead t) = some (l, s1) → x.join.toNat % 8 ≠ 0 →
            exec (.ttcancel g d a) s = .next (let p := putField c d 2 (free s1, t)
              retired p.1 c k p.2 (nextHead t) l 1)))

/-- R223-R225: qbind binds a port of the thread, qstat counts the words of a queue, and roam moves the thread to the inbox
of the core that owns the quarter its operand points into. -/
def Obligations.PortRoamForms : Prop :=
  ∀ (s : State) (c k : Nat) (t : Thread) (g : Guard) (d a : Reg) (p : Port) (q : BitVec 4), Issues s c k t g →
    let bind := fun (x : Option Bind) => (s, { t with ports := t.ports.setIfInBounds p.toNat x })
    Completes (.qbind g p .unbind) s c k (bind none) (nextHead t) 1
    ∧ Completes (.qbind g p (.read q)) s c k (bind (some ⟨q.toNat, false⟩)) (nextHead t) 1
    ∧ Completes (.qbind g p (.write q)) s c k (bind (some ⟨q.toNat, true⟩)) (nextHead t) 1
    ∧ (fieldsReady s c k t [] [d] = true →
      Completes (.qstat g d q) s c k (result s c k t [] d fun _ => Word.ofNat ((s.core c).queues.getD q.toNat []).length) (nextHead t) 1)
    ∧ (t.twin.isSome = true → TrapsWith (.roam g a) s c k t 0x01#8 0)
    ∧ (t.twin = none → fieldsReady s c k t [a] [] = true →
      let r := takeFields s c k t [a]
      let x := r.1.headD 0
      let ctx := (s.ctx (s.ctxOf c)).getD {}
      ((∀ sl o, region ctx.tenant x ≠ .sram sl o) → TrapsWith (.roam g a) s c k t 0x11#8 x)
      ∧ ∀ sl o n, region ctx.tenant x = .sram sl o → ctx.ownerOf sl o = some n →
        (r.2.closed (s.ctxOf c) n = true → TrapsWith (.roam g a) s c k t 0x11#8 x)
        ∧ (r.2.closed (s.ctxOf c) n = false → Released t .sys → (r.2.core c).bindings.get? k = none →
          ((r.2.core n).inboxRoom 4 = true → exec (.roam g a) s = .next ((r.2.endThread c k).updCore n fun y => { y with inbox := y.inbox ++ [.roamer
            { pc := nextHead t, g := t.g, pred := t.pred, fpctl := t.fpctl, wlim := t.wlim, tid := t.tid, prio := t.prio, dom := t.dom,
              join := t.join, cv := t.cv, ccore := t.ccore, cslot := t.cslot, depth := t.depth }] }))
          ∧ ((r.2.core n).inboxRoom 4 = false → t.run = .ready → t.waited = none → 0 < t.wlim → Parks (.roam g a) s c k t .inbox)))

/-- R294, R302, R303, R313-R320: an instruction of the matrix engine whose records, tile and spans pass their checks, with
its stores out of the buffer and an entry free, hands its job to the engine: an asynchronous form completes with the job's
ID in D, a blocking one waits and gets the ID once the job has completed, or traps with its fault. Bad records trap with
0x40, a tile of another core with 0x41. -/
def Obligations.MatrixJobForms : Prop :=
  ∀ (s : State) (c k : Nat) (t : Thread) (g : Guard) (d a b e : Reg) (asy ad nb na int : Bool) (rm : BitVec 2) (tile : BitVec 4) (td : Td),
    let n := c / 8
    let job := fun (i : Instr) (srcs : List Reg) (x : List Word → JobArgs) => fieldsReady s c k t srcs [d] = true →
      let r := takeFields s c k t srcs
      let x := x r.1
      (∀ sa s1 sb s2 sw s3, Issues s c k t g → shapeAt r.2 c t 0 x.a = some (sa, s1) →
        shapeAt s1 c t x.a.isSome.toNat x.b = some (sb, s2) →
        shapeAt s2 c t (x.a.isSome.toNat + x.b.isSome.toNat) x.c = some (sw, s3) →
        let w := if x.c.isSome then some sw else none
        let ok := recordsOk x.form sa sb w
        let usesTile := x.form ≠ .mpack ∧ x.form ≠ .munpack
        (ok.1 = false → TrapsWith i s c k t 0x40#8 (x.a.getD 0))
        ∧ (ok.1 = true → ok.2.1 = false → TrapsWith i s c k t 0x40#8 (x.b.getD 0))
        ∧ (ok = (true, true, true) → usesTile → (s.cluster n).me.owner.get? x.tile ≠ some c → TrapsWith i s c k t 0x41#8 0)
        ∧ (∀ s4 own, ok = (true, true, true) → (usesTile → (s.cluster n).me.owner.get? x.tile = some c) →
          spansAt c t s3 (jobSpans x.form sa sb) = some s4 → Drained t → (s.cluster n).me.entryFor c k = some own →
          let j : Job := { form := x.form, core := c, slot := k, ctx := s.ctxOf c, id := (s.core c).jc, pc := t.pc, asy := asy,
                           tile := x.tile, a := sa, b := sb, win := jobWindow x.form sa sb w, na := x.na, nb := x.nb, ad := x.ad,
                           int := x.int, rm := x.rm, scale := x.scale, td := td, own := own, twin := t.twin }
          (asy = true → ∃ lat, (lat = 1 ∨ lat = 8) ∧
            Completes i s c k (putField c d ((s.core c).jc.zeroExtend 64) (s4.acceptJob j, t)) (nextHead t) lat)
          ∧ (asy = false → ∀ l s5, lineAt s4 c t (nextHead t) = some (l, s5) → ∃ s6 t6, exec i s = .next s6
            ∧ s6.thread c k = some t6 ∧ (∃ lim m, t6.run = .parked (.job (s.core c).jc.toNat) lim m) ∧ t6.heldEntry = some (s.core c).jc.toNat
            ∧ t6.entered = some (nextHead t, l) ∧ t6.pc = t.pc ∧ t6.g = t.g
            ∧ (s6.cluster n).me.jobs = (s.cluster n).me.jobs ++ [j] ∧ s6.mem = s.mem)))
      ∧ (∀ id l st, asy = false → Continues s c k t g l → t.replies = [] → t.heldEntry = some id.toNat → (r.2.core c).jobStatus id = some st →
        st.getLsbD 31 = true →
        (st.extractLsb' 40 8 = 0#8 → ∃ p, p = putField c d (id.zeroExtend 64) (r.2, t) ∧ exec i s = .next (retired p.1 c k p.2 (nextHead t) l 1))
        ∧ (st.extractLsb' 40 8 ≠ 0#8 →
          let stop : Stop := { code := st.extractLsb' 40 8, pc := t.pc, rpc := t.pc, addr := id.zeroExtend 64, jobid := id, junit := 1,
                               jstate := 3, tile := x.tile, ecode := st.extractLsb' 40 8 }
          exec i s = .next (s.takeTrap c k stop)))
    let v := fun (l : List Word) (i : Nat) => some ((l.drop i).headD 0)
    let wnd := fun (l : List Word) (i : Nat) => if e = .z then none else some ((l.drop i).headD 0)
    job (.mma g d a b e asy ad nb na tile td) [a, b, e] (fun l =>
      { form := .mma, tile := tile.toNat, a := v l 0, b := v l 1, c := wnd l 2, na := na, nb := nb, ad := ad, td := td })
    ∧ job (.accld g d a e asy tile td) [a, e] (fun l => { form := .accld, tile := tile.toNat, a := v l 0, c := wnd l 1, td := td })
    ∧ job (.accst g d a b e asy int rm tile td) [a, b, e] (fun l =>
      { form := .accst, tile := tile.toNat, a := v l 0, c := wnd l 2, int := int, rm := rm, scale := (l.drop 1).headD 0, td := td })
    ∧ job (.acczero g d e asy tile td) [e] (fun l => { form := .acczero, tile := tile.toNat, c := wnd l 0, td := td })
    ∧ job (.mpack g d a b asy td) [a, b] (fun l => { form := .mpack, a := v l 0, b := v l 1, td := td })
    ∧ job (.munpack g d a b asy td) [a, b] (fun l => { form := .munpack, a := v l 0, b := v l 1, td := td })

/-- R303, R310, R321, R322: mpoll gives the status word of a job ID, mwaitj waits until the job has completed; an ID that
is not known reads as gone and done, and a known one that was never issued as pending (the model's reading, log entry 17); mwake makes a gated engine wake for its context, which is charged, and restarts the idle count of another. R355, R356,
R48: kfence completes with PEND at zero and signals, kstat gives the fallback reason, the saturation count and PEND. -/
def Obligations.EngineStatusForms : Prop :=
  (∀ (s : State) (c k : Nat) (t : Thread) (g : Guard) (d a : Reg), Issues s c k t g →
      (fieldsReady s c k t [a] [d] = true →
        let r := takeFields s c k t [a]
        let id : BitVec 16 := (r.1.headD 0).setWidth 16
        let age := ((r.2.core c).jc - id).toNat
        let st := if 1 ≤ age ∧ age ≤ 64 then some (((r.2.core c).jobs.lookup id).getD (fields [(id.toNat, 48)])) else none
        let gone := fields [(id.toNat, 48), (1, 32), (1, 31)]
        Completes (.mpoll g d a) s c k (putField c d (st.getD gone) (r.2, t)) (nextHead t) 1
        ∧ (st = none → Completes (.mwaitj g d a) s c k (putField c d gone (r.2, t)) (nextHead t) 1)
        ∧ (∀ w, st = some w → w.getLsbD 31 = true → Completes (.mwaitj g d a) s c k (putField c d w (r.2, t)) (nextHead t) 1)
        ∧ (∀ w, st = some w → w.getLsbD 31 = false → Parks (.mwaitj g d a) s c k t (.job id.toNat)))
      ∧ Completes (.mwake g) s c k (s.updMe (c / 8) fun m => { m with
        waking := m.waking || m.gated, wakeFor := if m.gated && !m.waking then some (s.ctxOf c) else m.wakeFor, idleSince := s.time }, t) (nextHead t) 1)
  ∧ (∀ (s : State) (c k : Nat) (t : Thread) (g : Guard) (d : Reg) (td : Td), Issues s c k t g → t.replies = [] →
      let sig := fun (st : State) => if t.twin.isSome then st.signalOwn c td else st.signal c td
      (TdReady s c td →
        (Drained t → t.pend = 0 → Completes (.kfence g td) s c k (sig s, t) (nextHead t) 1)
        ∧ (Drained t → t.pend ≠ 0 → Parks (.kfence g td) s c k t .kfence)
        ∧ (fieldsReady s c k t [] [d] = true → Completes (.kstat g d td) s c k
            (putField c d (fields [((s.core c).lastfb, 40), ((s.core c).satn, 16), (min t.pend 65535, 0)]) (sig s, t)) (nextHead t) 1))
      ∧ (td.wt ≠ 0 → (Tab.getD (s.core c).sems td.ws.toNat {}).p = true → Drained t →
        TrapsWith (.kfence g td) s c k t (Tab.getD (s.core c).sems td.ws.toNat {}).code 0))

/-- R323, R326-R329, R333-R335, R340: a copy whose descriptor, alignment, spans and counting core pass, with its stores
out of the buffer and a mailbox register free, completes with its ID in D and stands in the register; a bad descriptor
traps with 0x40, and with all four registers full the thread parks. That a strided span is checked run by run, and that a target of
cpy.mc is checked for W, are the model's choices (DEDUCED, log entries 25 and 34). -/
def Obligations.CopyForms : Prop :=
  ∀ (s : State) (c k : Nat) (t : Thread) (g : Guard) (d a b e : Reg) (quiet inv : Bool) (ch : BitVec 2) (msk : BitVec 8) (dim : Dim) (td : Td),
    Issues s c k t g → fieldsReady s c k t [a, b, e] [d] = true →
    let r := takeFields s c k t [a, b, e]
    let x := r.1.headD 0
    let y := (r.1.drop 1).headD 0
    let z := (r.1.drop 2).headD 0
    let first := 8 * (c / 8)
    let copy := fun (i : Instr) (f : CopyShape) (inv : Bool) (ch : Nat) (targets : CopyDesc → List Nat) (dest : State → CopyDesc → Option State) =>
      ∀ q s1, (if f.dim = .d1 then q = { len := z.toNat } ∧ s1 = r.2 else ∃ v, recordAt r.2 c t z 32 = some (v, s1) ∧ q = .ofBytes v) →
        (q.ok f x = false → TrapsWith i s c k t 0x40#8 (if f.dim = .d1 then 0 else z))
        ∧ ∀ s2 s3, q.ok f x = true → x.toNat % (if f.form = .ring then 2 ^ q.rlog else 8) = 0 → y.toNat % 8 = 0 →
          runsAt s1 c t ((rowStarts y.toNat q.ss1 q.ss2 q.n1 q.n2).map fun p => (p, q.len)) rR = some s2 → dest s2 q = some s3 →
          (q.ac = true → ∀ m ∈ targets q, s.closed (s.ctxOf c) m = false) → Drained t →
          let rec_ : Copy := { form := f.form, core := c, ctx := s.ctxOf c, slot := k, tag := k, id := (s.core c).cn, pc := t.pc, dst := x,
                               src := y, len := q.len, n1 := q.n1, n2 := q.n2, ss1 := q.ss1, ss2 := q.ss2, ds1 := q.ds1, ds2 := q.ds2,
                               ac := q.ac, ssem := q.ssem, scount := first + q.score, rstart := q.rstart, rlog := q.rlog, quiet := quiet,
                               inv := inv, ch := ch, td := td, progress := (targets q).map fun m => { target := m } }
          (t.twin = none → (s.core c).copyRegs.length < 4 → ∃ lat, (lat = 1 ∨ lat = 8) ∧
            Completes i s c k (putField c d ((s.core c).cn.zeroExtend 64)
              (s3.updCore c fun y => { y with copyRegs := y.copyRegs ++ [rec_], cn := y.cn + 1 }, t)) (nextHead t) lat)
          ∧ (t.twin = none → 4 ≤ (s.core c).copyRegs.length → Parks i s c k t .copyReg)
    let rows := fun (q : CopyDesc) => (rowStarts x.toNat q.ds1 q.ds2 q.n1 q.n2).map fun p => (p, q.len)
    let one := fun (q : CopyDesc) => [first + q.score]
    copy (.cpy g d a b e quiet dim td) (.cpy dim) false 0 one (fun s q => runsAt s c t (rows q) rW)
    ∧ copy (.cpyLb g d a b e quiet inv ch td) (.lb inv ch) inv ch.toNat one (fun s q => runsAt s c t (rows q) rW)
    ∧ copy (.cpyRing g d a b e quiet dim td) (.ring dim) false 0 one
        (fun s q => runsAt s c t (ringRuns x.toNat (256 * q.rstart) (2 ^ q.rlog) q.total) rW)
    ∧ (let set := ((List.range 8).filter fun i => msk.getLsbD i).map fun i => first + i
      copy (.cpyMc g d a b e msk quiet dim td) (.mc msk dim) false 0 (fun _ => set) (fun s q => set.foldl (fun o m => o.bind fun s1 =>
        (((s1.ctx (s1.ctxOf c)).getD {}).slices.idxOf? (m / 4)).bind fun i =>
          runsAt s1 c t ((rows q).map fun p => ((sramBase + i * 2 ^ 21 + m % 4 * 0x80000 : Nat) + p.1, p.2)) rW) (some s)))

/-- R348-R350, R352, R353, R357: ksproj, kstore and kbuild hand their command to the engine of the cluster once their
stores have left, their operands pass and the core has room there, and complete; kstore and kbuild count in PEND. R348, R349, R354: kgather hands
its command over and waits at the engine; its answer gives D the count, or traps with the engine's code. -/
def Obligations.KeyStoreForms : Prop :=
  (∀ (s : State) (c k : Nat) (t : Thread) (g : Guard) (a b e : Reg) (ent : BitVec 5) (td : Td), Issues s c k t g →
      let n := c / 8
      let hand := fun (i : Instr) (srcs : List Reg) (form : KseForm) (ops : List Word → List (Word × Nat × Nat × Byte)) (pend : Nat)
          (now : List Word → Prop) => fieldsReady s c k t srcs [] = true →
        let r := takeFields s c k t srcs
        (¬Drained t → Parks i s c k t .sbEmpty)
        ∧ (now r.1 → ∀ s1, operandsAt r.2 c t (ops r.1) = some s1 → Drained t → t.twin = none →
        let cmd : KseCmd := { form := form, core := c, slot := k, ctx := s.ctxOf c, tag := k, pc := t.pc, a := r.1.headD 0,
                              b := (r.1.drop 1).headD 0, c := (r.1.drop 2).headD 0, entry := ent.toNat, td := td }
        let mine := ((s.cluster n).kse.queue.filter fun q => q.core == c).length
        (mine < 4 → Completes i s c k (s1.updKse n fun q => { q with queue := q.queue ++ [cmd] }, { t with pend := t.pend + pend }) (nextHead t) 1)
        ∧ (4 ≤ mine → Parks i s c k t .kseQueue))
      let w := fun (l : List Word) (i : Nat) => (l.drop i).headD 0
      hand (.kstore g a b e ent td) [a, b, e] .kstore (fun l => [(w l 0, 64, 1, rR), (w l 1, 64, 64, rR ||| rW)]) 1 (fun _ => True)
      ∧ hand (.kbuild g a ent td) [a] .kbuild (fun l => [(w l 0, 64, 64, rR ||| rW)]) 1 (fun _ => True)
      ∧ hand (.ksproj g a ent td) [a] .ksproj (fun l =>
          let x := (s.ctx (s.ctxOf c)).getD {}
          let bytes := match region x.tenant (w l 0) with
            | .sram i o => (match x.phys i o with
              | some p => 32 + 32 * min 16 (bits (s.word p) 20 16)
              | none => 32)
            | _ => 32
          [(w l 0, 32, bytes, rR)]) 0
          -- A record in translated memory whose span could reach another row is read first (R350).
          (fun l => (∀ q, region ((s.ctx (s.ctxOf c)).getD {}).tenant (w l 0) ≠ .paged q) ∨ spanRow (w l 0 + 543) = spanRow (w l 0)))
  ∧ (∀ (s : State) (c k : Nat) (t : Thread) (g : Guard) (d a b e : Reg) (qv : Bool) (rad : BitVec 2) (ent : BitVec 5) (td : Td),
      let i : Instr := .kgather g d a b e qv rad ent td
      fieldsReady s c k t [a, b, e, d] [d] = true → Drained t →
      let r := takeFields s c k t [a, b, e, d]
      let x := r.1.headD 0
      let y := (r.1.drop 1).headD 0
      let z := (r.1.drop 2).headD 0
      let cap := min ((r.1.drop 3).headD 0).toNat 8192
      (∀ s1 l s2, Issues s c k t g → t.replies = [] → t.twin = none → TdReady s c td → sramBase ≤ z.toNat → z.toNat < sramBase + 2 ^ 29 →
        operandsAt r.2 c t ([(x, 64, 64, rR)] ++ (if qv then [(y, 64, 1, rR)] else []) ++ [(z, 4, 4 * cap, rW)]) = some s1 →
        lineAt s1 c t (nextHead t) = some (l, s2) → ((s.cluster (c / 8)).kse.queue.filter fun q => q.core == c).length < 4 →
        let cmd : KseCmd := { form := .kgather qv rad.toNat cap, core := c, slot := k, ctx := s.ctxOf c, tag := k, pc := t.pc, a := x,
                              b := y, c := z, entry := ent.toNat, td := td }
        ∃ s3 t3 lim m, exec i s = .next s3 ∧ s3.thread c k = some t3 ∧ t3.run = .parked .kse lim m ∧ t3.pc = t.pc ∧ t3.g = t.g
          ∧ t3.replies = [.val 0] ∧ t3.entered = some (nextHead t, l)
          ∧ (s3.cluster (c / 8)).kse.queue = (s.cluster (c / 8)).kse.queue ++ [cmd])
      ∧ (∀ l v, Continues s c k t g l → t.replies = [.val 0, .val v] →
        (v.extractLsb' 64 8 = 0#8 → t.twin = none → exec i s = .next (let p := putField c d (v.setWidth 64) (r.2.signal c td, t)
          retired p.1 c k p.2 (nextHead t) l 1))
        ∧ (v.extractLsb' 64 8 ≠ 0#8 →
          let stop : Stop := { code := v.extractLsb' 64 8, pc := t.pc, rpc := t.pc, addr := v.setWidth 64, seq := v.extractLsb' 72 16 }
          exec i s = .next (s.takeTrap c k stop))))

/-- R438-R441, R446: rinv and rinv.t send an invocation once nothing of the thread is on its way, and wait; the answer
goes to D and p7, and rinv.t traps on an answer other than 0; an unreachable chip answers 4. rinv.card also hands its
tiles to the copy engine. -/
def Obligations.InvocationForms : Prop :=
  ∀ (s : State) (c k : Nat) (t : Thread) (g : Guard) (d a b : Reg) (td : Td),
    let seven := fun (x : Bool) => { t with pred := Exec.setPred t.pred 7 x }
    (fieldsReady s c k t [a] [d] = true →
      let r := takeFields s c k t [a]
      let h := r.1.headD 0
      let chip := h.toNat % 16
      (h &&& 0xFFFFFFFFF0C00000#64 ≠ 0 → Issues s c k t g →
        TrapsWith (.rinv g d a td) s c k t 0x02#8 0 ∧ TrapsWith (.rinvT g d a td) s c k t 0x02#8 0)
      ∧ (h &&& 0xFFFFFFFFF0C00000#64 = 0 → Drained t → t.outst = 0 → t.twin = none →
        (Issues s c k t g → t.replies = [] → TdReady s c td →
          (r.2.reachable chip = false →
            Completes (.rinv g d a td) s c k (putField c d 4 (r.2.signal c td, seven false)) (nextHead t) 1
            ∧ TrapsWith (.rinvT g d a td) s c k t 0x50#8 4)
          ∧ ∀ l s1, r.2.reachable chip = true → lineAt r.2 c t (nextHead t) = some (l, s1) →
            let p : InvPacket := { chip := s.ownChip, ctx := s.ctxOf c, tag := s.nextReq, header := h,
                                   args := [t.g[0], t.g[1], t.g[2], t.g[3], t.g[4], t.g[5]],
                                   sealedCtx := ((s.ctx (s.ctxOf c)).getD {}).sealed, tiles := 0 }
            ∀ i ∈ [Instr.rinv g d a td, .rinvT g d a td], ∃ s2 t2 lim m, exec i s = .next s2 ∧ s2.thread c k = some t2
              ∧ t2.run = .parked .answer lim m ∧ t2.replies = [.val 0] ∧ t2.heldEntry = some s.nextReq ∧ t2.pc = t.pc ∧ t2.g = t.g
              ∧ s2.nextReq = s.nextReq + 1
              ∧ (chip = s.ownChip → s2.localInv = s.localInv ++ [(c, k, p)])
              ∧ (chip ≠ s.ownChip → (s.portTo chip).isSome = true → s2.out = .fabric chip 3 (.invoke p) p.sealedCtx :: s.out))
        ∧ (∀ l v, Continues s c k t g l → t.replies = [.val 0, .val v] →
          let st := v.toNat % 2 ^ 64
          let end_ := let p := putField c d (Word.ofNat st) (r.2.signal c td, seven (st == 0))
            retired p.1 c k p.2 (nextHead t) l 1
          exec (.rinv g d a td) s = .next end_
          ∧ (st = 0 → exec (.rinvT g d a td) s = .next end_)
          ∧ (st ≠ 0 → TrapsWith (.rinvT g d a td) s c k t (if st = 5 then 0x21#8 else 0x50#8) (Word.ofNat st)))))
    ∧ (fieldsReady s c k t [a, b] [d] = true →
      let r := takeFields s c k t [a, b]
      let h := r.1.headD 0
      let x := (r.1.drop 1).headD 0
      ∀ (l : Line) (v0 st : Vec) (ws : List Vec) (ps : List Place) (s1 s2 : State),
        let move := fun (w : Vec) => ({ src := w.extractLsb' 0 64, token := w.extractLsb' 64 64, len := (w.extractLsb' 160 32).toNat,
                                        off := (w.extractLsb' 128 8).toNat } : LzMove)
        let moves := ws.map move
        h &&& 0xFFFFFFFFF0C00000#64 = 0 → Drained t → t.outst = 0 → t.twin = none → Continues s c k t g l →
        t.replies = [.val v0] ++ ws.map .val ++ [.val 0, .val st] → x.toNat % 32 = 0 →
        v0.extractLsb' 3 253 = 0 → ws.length = (v0.extractLsb' 0 3).toNat + 1 →
        -- Every tile is checked before the header's bits, and once more as it is read.
        accessesAt r.2 c t (((List.range (ws.length + 1)).map fun i => (x + Word.ofNat (32 * i), rR))
          ++ (List.range ws.length).map fun i => (x + Word.ofNat (32 * i + 32), rR)) = some (ps, s1) →
        (∀ p ∈ ps, ∀ off, p ≠ .mgmt off) →
        (∀ w ∈ ws, w.extractLsb' 136 24 = 0 ∧ w.extractLsb' 192 64 = 0 ∧ (move w).src.toNat % 8 = 0 ∧ (move w).token.toNat % 16 = h.toNat % 16
          ∧ (move w).token &&& 0xFFFF0000FE00C000#64 = 0 ∧ (move w).len ≠ 0 ∧ (move w).len % 4096 = 0
          ∧ 4096 * (move w).off + (move w).len ≤ 2 ^ ((move w).token.toNat / 2 ^ 20 % 32)) →
        (moves.foldl (fun o m => o.bind fun s => runsAt s c t [((m.src.toNat : Int), m.len)] rR) (some s1)) = some s2 →
        (st.toNat % 2 ^ 64 ≠ 0 → ∃ lat, (lat = 1 ∨ lat = 8) ∧ exec (.rinvCard g d a b td) s = .next
          (let p := putField c d (Word.ofNat (st.toNat % 2 ^ 64)) (s2, seven false)
           retired (p.1.signal c td) c k p.2 (nextHead t) l lat))
        ∧ (st.toNat % 2 ^ 64 = 0 → (s.core c).copyRegs.length < 4 → ∃ lat x, (lat = 1 ∨ lat = 8) ∧ x.form = .card ∧ x.moves = moves
          ∧ x.card = t.heldEntry ∧ x.id = (s.core c).cn ∧ x.core = c ∧ x.quiet = false ∧ exec (.rinvCard g d a b td) s = .next
          (let p := putField c d (Word.ofNat ((s.core c).cn.toNat * 2 ^ 16))
            (s2.updCore c fun y => { y with copyRegs := y.copyRegs ++ [x], cn := y.cn + 1 }, seven true)
           retired (p.1.signal c td) c k p.2 (nextHead t) l lat)))

/-- R447-R451, R454: lzcfg configures a landing slot of its own quad slice, unless it is in use or overlaps another; lzres
and lzrel ask the chip of their target and get its answer; lzcpy hands a checked move to the copy engine. R455, R456,
R377, R48: sigupd takes a sequence number, counts as outstanding and sends its update; sigwait completes once its word
stands in the relation to its operand, and parks otherwise. -/
def Obligations.LandingSignalForms : Prop :=
  (∀ (s : State) (c k : Nat) (t : Thread) (g : Guard) (d a b e : Reg) (lz : BitVec 4) (quiet : Bool) (off : BitVec 8) (td : Td),
      let ctx := (s.ctx (s.ctxOf c)).getD {}
      (fieldsReady s c k t [a] [d] = true →
        let r := takeFields s c k t [a]
        let x := r.1.headD 0
        (∀ v s1, Issues s c k t g → t.replies = [] → TdReady s c td → recordAt r.2 c t x 16 = some (v, s1) →
          let zo := LzSlot.ofWords (v.extractLsb' 0 64) (v.extractLsb' 64 64)
          let z := zo.1
          (zo.2 = false → TrapsWith (.lzcfg g d a lz td) s c k t 0x40#8 x)
          ∧ ∀ i o p, zo.2 = true → region ctx.tenant z.addr = .sram i o → ctx.phys i o = some p → p / 2 ^ 21 = quadOf c →
            inSpill (p + 2 ^ z.log - 1) = false →
            let n := 16 * c + lz.toNat
            let busy := match s.lz.get? n with
              | some y => decide (y.st ≠ .free)
              | none => false
            let clash := s.lz.any fun q => q.1 / 16 == c && q.1 != n && q.2.overlaps z
            let en := v.getLsbD 71
            ∃ lat, (lat = 1 ∨ lat = 8) ∧
            (busy = true → Completes (.lzcfg g d a lz td) s c k (putField c d 1 (s1.signal c td, t)) (nextHead t) lat)
            ∧ (busy = false → en = true → clash = true → Completes (.lzcfg g d a lz td) s c k (putField c d 2 (s1.signal c td, t)) (nextHead t) lat)
            ∧ (busy = false → (en = true → clash = false) → Completes (.lzcfg g d a lz td) s c k (putField c d 0
                ({ s1.signal c td with lz := if en then Tab.set s.lz n { z with tag := k } else Tab.erase s.lz n }, t)) (nextHead t) lat))
        ∧ (let ask := fun (i : Instr) (mask : Word) (acc : Access) (refused : Word) (after : State → Word → State) =>
            x &&& mask = 0 → t.twin = none →
            (Issues s c k t g → t.replies = [] → TdReady s c td →
              (r.2.reachable (x.toNat % 16) = false → Completes i s c k (putField c d refused (r.2.signal c td, t)) (nextHead t) 1)
              ∧ ∀ l s1, r.2.reachable (x.toNat % 16) = true → lineAt r.2 c t (nextHead t) = some (l, s1) →
                ∃ s2 t2 lim m q, exec i s = .next s2 ∧ s2.thread c k = some t2 ∧ t2.run = .parked .answer lim m ∧ t2.replies = [.val 0]
                  ∧ t2.pc = t.pc ∧ t2.g = t.g ∧ s2.reqs.get? s.nextReq = some q ∧ q.src = .thread c k ∧ q.acc = acc
                  ∧ q.st = (if x.toNat % 16 = s.ownChip then .queued else .sent (some (x.toNat % 16)))
                  ∧ (x.toNat % 16 ≠ s.ownChip → (s.portTo (x.toNat % 16)).isSome = true → s2.out = .fabric (x.toNat % 16) 1 (.access s.nextReq (Word.ofNat (x.toNat % 16)) acc)
                      (s.sealed (s.ctxOf c)) :: s.out))
            ∧ (∀ l v, Continues s c k t g l → t.replies = [.val 0, .val v] → exec i s = .next
                (let p := putField c d (v.setWidth 64) ((after r.2 (v.setWidth 64)).signal c td, t)
                 retired p.1 c k p.2 (nextHead t) l 1))
          ask (.lzres g d a td) 0xFFFFFFFFFFF0C000#64 (.lzres x) (-1) (fun st v => if v.getLsbD 63 then st
            else st.updCtx (s.ctxOf c) fun y => { y with tokens := y.tokens ++ [v] })
          ∧ ask (.lzrel g d a td) 0xFFFF0000FE00C000#64 (.lzrel x) 2 (fun st v => if v = 0 then
              st.updCtx (s.ctxOf c) fun y => { y with tokens := y.tokens.erase x } else st))
        ∧ (Issues s c k t g → (x &&& 0xFFFFFFFFFFF0C000#64 ≠ 0 → TrapsWith (.lzres g d a td) s c k t 0x02#8 0)
          ∧ (x &&& 0xFFFF0000FE00C000#64 ≠ 0 → TrapsWith (.lzrel g d a td) s c k t 0x02#8 0)))
      ∧ (Issues s c k t g → fieldsReady s c k t [a, b, e] [d] = true →
        let r := takeFields s c k t [a, b, e]
        let x := r.1.headD 0
        let y := (r.1.drop 1).headD 0
        let n := ((r.1.drop 2).headD 0).toNat
        let sound := x &&& 0xFFFF0000FE00C000#64 = 0 ∧ n ≠ 0 ∧ n % 4096 = 0 ∧ 4096 * off.toNat + n ≤ 2 ^ (x.toNat / 2 ^ 20 % 32)
        (¬sound → TrapsWith (.lzcpy g d a b e quiet off td) s c k t 0x40#8 0)
        ∧ (sound → y.toNat % 8 ≠ 0 → TrapsWith (.lzcpy g d a b e quiet off td) s c k t 0x13#8 y)
        ∧ ∀ s1, sound → y.toNat % 8 = 0 → runsAt r.2 c t [((y.toNat : Int), n)] rR = some s1 → Drained t → t.twin = none →
          (s.core c).copyRegs.length < 4 → ∃ q, q.form = .lz ∧ q.moves = [{ token := x, src := y, len := n, off := off.toNat }] ∧ q.core = c
            ∧ q.id = (s.core c).cn ∧ q.quiet = quiet ∧ q.td = td ∧ q.tag = k
            ∧ Completes (.lzcpy g d a b e quiet off td) s c k (putField c d ((s.core c).cn.zeroExtend 64)
                (s1.updCore c fun z => { z with copyRegs := z.copyRegs ++ [q], cn := z.cn + 1 }, t)) (nextHead t) 1))
  ∧ (∀ (s : State) (c k : Nat) (t : Thread) (g : Guard) (a b : Reg) (op : SigOp) (cmp : Cmp) (td : Td), Issues s c k t g →
      fieldsReady s c k t [a, b] [] = true → t.replies = [] →
      let r := takeFields s c k t [a, b]
      let x := r.1.headD 0
      let y := (r.1.drop 1).headD 0
      (x.toNat % 8 ≠ 0 → TrapsWith (.sigupd g a b op td) s c k t 0x13#8 x ∧ TrapsWith (.sigwait g a b cmp td) s c k t 0x13#8 x)
      ∧ (∀ p s1, x.toNat % 8 = 0 → accessAt r.2 c t x (rR ||| rW ||| rA) = some (p, s1) → (∀ off, p ≠ .mgmt off) → TdReady s c td → Drained t →
        t.outst < 65535 → t.twin = none →
        let addr := match p with
          | .paged q => q
          | _ => x
        let waits := s1.sigupdWaits c k ((s1.chipOf 0 addr).getD s1.ownChip)
        let sent : Inflight := { core := c, slot := k, seq := t.seq, addr := x }
        let update : Req := { src := .store c k t.seq, ctx := s.ctxOf c, addr := addr, acc := .signal op y }
        (waits = true → Parks (.sigupd g a b op td) s c k t .outst)
        ∧ (waits = false → Completes (.sigupd g a b op td) s c k
          (State.signal { s1 with inflight := Tab.set s1.inflight s1.nextReq sent, reqs := Tab.set s1.reqs s1.nextReq update,
                                  nextReq := s1.nextReq + 1 } c td,
            { t with outst := t.outst + 1, seq := t.seq + 1 }) (nextHead t) 1))
      ∧ (∀ p s1, x.toNat % 8 = 0 → accessAt r.2 c t x rR = some (p, s1) → TdReady s c td → t.twin = none →
        let v := match t.sb.reverse.find? fun e => (Exec.SbEntry.hits (s.keyOf c x) 0xFF#64 e).1, p with
          | some e, _ => if (Exec.SbEntry.hits (s.keyOf c x) 0xFF#64 e).2 then some ((Exec.SbEntry.from (s.keyOf c x) e).setWidth 64) else none
          | none, .sram q => if s1.fencedAt q then none else some (s1.word q)
          | none, .mgmt off => some (s1.reg true off)
          | none, .paged q => match (s1.translate q).1 with
            | .dram m => if s1.sleeps q ∨ s1.fencedAt m then none else some (s1.word m)
            | _ => none
        let holds := fun (v : Word) => match cmp with
          | .ge => decide (y.toNat ≤ v.toNat)
          | .eq => decide (v = y)
          | .ne => decide (v ≠ y)
          | .lt => decide (v.toNat < y.toNat)
        (∀ w, v = some w → holds w = true → Completes (.sigwait g a b cmp td) s c k (s1.signal c td, t) (nextHead t) 1)
        ∧ (∀ w, v = some w → holds w = false → t.run = .ready → t.waited = none → 0 < t.wlim → Parks (.sigwait g a b cmp td) s c k t .sigwait)))

/-- R391, R400, R407: migpt only advances outside a migration's PARK and waits at the next head inside it; trig answers 3
for an entry that takes no score from this context, 2 for one that is not armed, 0 below its value, and 1 when it fires;
heelack ends the wait for the current heel. R393-R396: wake.go answers 0 once its island is as shallow as asked, wakes it
and waits otherwise, and answers 2 for a target it does not name; wake.hold answers all ones for a time below the island's
IDLE time, all ones less 1 without a free contract, else the number of the contract it holds; wake.drop answers 1 for a
contract it ends, else 0; without the right each answers all ones less 2; a reserved bit traps with 0x02. That a time above 10^6 is
held as it stands is the model's choice (DESIGN CHOICE, log entry 35). -/
def Obligations.SystemForms : Prop :=
  (∀ (s : State) (c k : Nat) (t : Thread) (g : Guard) (d a : Reg) (ent : BitVec 4), Issues s c k t g →
      let n := s.ctxOf c
      (s.inPark n = false → Completes (.migpt g) s c k (s, t) (nextHead t) 1)
      ∧ (∀ l s1, s.inPark n = true → Drained t → t.outst = 0 → lineAt s c t (nextHead t) = some (l, s1) → exec (.migpt g) s = .next
          (s1.setThread c k { Exec.Thread.done t (nextHead t) l (s1.core c).cycle with run := .parked (.migpt t.pc) 0 0 }))
      ∧ (fieldsReady s c k t [a] [d] = true → Drained t → t.twin = none →
        let r := takeFields s c k t [a]
        let e := r.2.trigger ent.toNat
        let takes := e.en = true ∧ bits e.w0 59 58 = 1 ∧ bits e.w0 55 48 = n
        let above := (fcompare Fmt.f32 .ge (bits (r.1.headD 0) 31 0) (bits e.value 31 0)).1
        let answers := fun (w : Word) (f : State → State) => CompletesAfter (.trig g d a ent) s c k (r.2, t) (fun st => putField c d w (f st, t)) 1
        (¬takes → answers 3 id) ∧ (takes → e.st ≠ .armed → answers 2 id)
        ∧ (takes → e.st = .armed → above = false → answers 0 id)
        ∧ (takes → e.st = .armed → above = true → answers 1 (·.fireTrigger ent.toNat)))
      ∧ (fieldsReady s c k t [a] [] = true →
        let r := takeFields s c k t [a]
        let due := ((s.ctx n).getD {}).heelDue
        let x := (r.1.headD 0).toNat % 2 ^ 16
        (due = some x → Completes (.heelack g a) s c k (r.2.updCtx n fun y => { y with heelDue := none }, t) (nextHead t) 1)
        ∧ (due ≠ some x → Completes (.heelack g a) s c k (r.2, t) (nextHead t) 1)))
  ∧ (∀ (s : State) (c k : Nat) (t : Thread) (g : Guard) (d a : Reg), Issues s c k t g → fieldsReady s c k t [a] [d] = true →
      let r := takeFields s c k t [a]
      let x := r.1.headD 0
      let n := s.ctxOf c
      let ctx := (s.ctx n).getD {}
      let isl := if x.getLsbD 32 then 1 else 0
      let answers := fun (i : Instr) (w : Word) (st : State) => Completes i s c k (putField c d w (st, t)) (nextHead t) 1
      let once := fun (i : Instr) (w : Word) (f : State → State) => CompletesAfter i s c k (r.2, t) (fun st => putField c d w (f st, t)) 1
      let common := fun (i : Instr) (named : Word) =>
        (x &&& ~~~named ≠ 0 → TrapsWith i s c k t 0x02#8 0) ∧ (x &&& ~~~named = 0 → ctx.wakeRight = false → answers i (-3) r.2)
      common (.wakeGo g d a) 0x100000003#64 ∧ common (.wakeHold g d a) 0x1FFFFFFFF#64 ∧ common (.wakeDrop g d a) 3#64
      ∧ (ctx.wakeRight = true →
        (x &&& ~~~0x100000003#64 = 0 → ∀ target : PState, (x.toNat % 4 = 0 ∧ target = .active ∨ x.toNat % 4 = 1 ∧ target = .idle) →
          ((s.island isl).st.depth ≤ target.depth → answers (.wakeGo g d a) 0 r.2)
          ∧ ∀ l s1, ¬(s.boot.phase = .maquette ∧ isl = 0) → target.depth < (s.island isl).st.depth → lineAt r.2 c t (nextHead t) = some (l, s1) →
            ∃ s2 t2 lim m w, exec (.wakeGo g d a) s = .next s2 ∧ s2.thread c k = some t2 ∧ t2.run = .parked (.wakeGo isl target) lim m ∧ t2.pc = t.pc
              ∧ (s2.island isl).waking = some w ∧ w.depth ≤ target.depth ∧ (s2.island isl).st = (s.island isl).st)
        ∧ (x &&& ~~~0x100000003#64 = 0 → 2 ≤ x.toNat % 4 → answers (.wakeGo g d a) 2 r.2)
        ∧ (x &&& ~~~0x1FFFFFFFF#64 = 0 →
          let us := x.toNat % 2 ^ 32
          let free := Tab.free ctx.contracts 0 4
          let deep : PState := if isl = 1 then .idle else if us < 25 then .idle else if us < 300 then .retain else .off
          (us < (if isl = 0 then 1 else 2) → answers (.wakeHold g d a) (-1) r.2)
          ∧ ((if isl = 0 then 1 else 2) ≤ us → t.twin = none → (free = none ∨ 16 ≤ s.contracts.length) → answers (.wakeHold g d a) (-2) r.2)
          ∧ (∀ i, (if isl = 0 then 1 else 2) ≤ us → t.twin = none → free = some i → s.contracts.length < 16 →
            (s.island isl).st.depth ≤ deep.depth → once (.wakeHold g d a) (Word.ofNat i)
              (·.updCtx n fun y => { y with contracts := Tab.set y.contracts i ⟨isl == 1, us⟩ })))
        ∧ (x &&& ~~~3#64 = 0 → t.twin = none →
          let i := x.toNat % 4
          ((ctx.contracts.get? i).isSome = true → once (.wakeDrop g d a) 1 (·.updCtx n fun y => { y with contracts := Tab.erase y.contracts i }))
          ∧ (ctx.contracts.get? i = none → once (.wakeDrop g d a) 0 id))))

/-- R408, R202: pair increments the record's counter and launches one prepared record, pinned and with one tid, in the lowest EMPTY
slots, at once, which is the model's choice (DESIGN CHOICE, log entry 36), of two cores that stand at the same place of different clusters and own as many tiles; it answers 2 for a core outside the core map, 3 for
cores that are no pair. R368, R370, R375: eresume of an undecided record decides it, gives its thread the record's
registers, and frees it; ekill decides it, waits for its thread's requests, ends the thread and frees the record; each answers 1 for an address that is no
undecided record of the context. -/
def Obligations.PairRecordForms : Prop :=
  (∀ (s : State) (c k : Nat) (t : Thread) (g : Guard) (d a b : Reg), Issues s c k t g → fieldsReady s c k t [a, b] [d] = true →
      let r := takeFields s c k t [a, b]
      let y := (r.1.drop 1).headD 0
      let map := ((s.ctx (s.ctxOf c)).getD {}).cores
      t.twin = none → ∀ v s1, recordAt r.2 c t (r.1.headD 0) 64 = some (v, s1) →
        let w := fun (i : Nat) => v.extractLsb' (64 * i) 64
        let rec_ : TaskRec := { pc := w 0, args := [w 1, w 2, w 3, w 4], join := w 5, prio := min ((w 6).toNat % 16) t.prio,
                                dom := min ((w 6).toNat / 16 % 4) t.dom, ctx := s.ctxOf c, pin := (w 6).getLsbD 16, lend := (w 6).getLsbD 17 }
        ∃ lat, (lat = 1 ∨ lat = 8) ∧
        let answers := fun (x : Word) (f : State → State) =>
          (w 5 = 0 → CompletesAfter (.pair g d a b) s c k (s1, t) (fun st => putField c d x (f st, t)) lat)
          ∧ ∀ m s2, w 5 ≠ 0 → Drained t → t.replies.length ≤ 1 → (w 5).toNat % 8 = 0 →
            accessAt s1 c t (w 5) (rR ||| rW ||| rA) = some (.sram m, s2) → m / 2 ^ 21 = quadOf c → s.fencedAt m = false →
            CompletesAfter (.pair g d a b) s c k (s2, t) (fun st => putField c d x (f (st.write m 8 ((st.read m 8 + 1) % 2 ^ 64)), t)) lat
        (map[y.toNat % 2 ^ 16]? = none ∨ map[y.toNat / 2 ^ 16 % 2 ^ 16]? = none → answers 2 id)
        ∧ ∀ p q, map[y.toNat % 2 ^ 16]? = some p → map[y.toNat / 2 ^ 16 % 2 ^ 16]? = some q →
          let pins := fun (n : Nat) => ((s.core n).slots.filter fun p => p.2.pinned).length
          let fit := p / 8 ≠ q / 8 ∧ p % 8 = q % 8 ∧ s.tilesOf p = s.tilesOf q ∧ pins p < 12 ∧ pins q < 12
          (¬fit → answers 3 id)
          ∧ ∀ sp sq, fit → Tab.free (s.core p).slots 0 15 = some sp → Tab.free (s.core q).slots 0 15 = some sq →
            answers 0 (·.launchPair (s.ctxOf c) p q sp sq rec_)
            ∧ ∀ st : State, ∃ u w, (st.launchPair (s.ctxOf c) p q sp sq rec_).thread p sp = some u
              ∧ (st.launchPair (s.ctxOf c) p q sp sq rec_).thread q sq = some w ∧ u.twin = some (q, sq, true) ∧ w.twin = some (p, sp, false)
              ∧ u.pc = v.extractLsb' 0 64 ∧ w.pc = u.pc ∧ u.tid = w.tid ∧ u.pinned = true ∧ w.pinned = true
              ∧ (st.launchPair (s.ctxOf c) p q sp sq rec_).mem = st.mem)
  ∧ (∀ (s : State) (c k : Nat) (t : Thread) (g : Guard) (d a : Reg), Issues s c k t g → fieldsReady s c k t [a] [d] = true →
      Drained t → t.replies = [] → t.killing = none → t.twin = none →
      let r := takeFields s c k t [a]
      let n := s.ctxOf c
      let ctx := (s.ctx n).getD {}
      let rec_ := ctx.recordAt (r.1.headD 0)
      ((rec_ = none ∨ ∃ i x, rec_ = some (i, x) ∧ (x.dec = true ∨ x.type = 1)) →
        CompletesAfter (.eresume g d a) s c k (r.2, t) (fun st => putField c d 1 (st, t)) 1
        ∧ CompletesAfter (.ekill g d a) s c k (r.2, t) (fun st => putField c d 1 (st, t)) 1)
      ∧ ∀ i x, rec_ = some (i, x) → x.dec = false →
        (x.type = 0 → CompletesAfter (.eresume g d a) s c k (r.2, t) (fun st =>
          let st := st.markDecided n i
          putField c d 0 ((match st.recordAddr ctx i with
            | some p => st.resumeTagged x.core x.slot p
            | none => st).freeRecord n i, t)) 1)
        ∧ (x.type ≠ 0 → x.type ≠ 1 → CompletesAfter (.eresume g d a) s c k (r.2, t) (fun st =>
          putField c d 0 ((st.markDecided n i).freeRecord n i, t)) 1)
        ∧ (∀ u, x.type = 0 → r.2.tagged x.core x.slot = some u → u.outst = 0 → u.cv = false → u.join = 0 →
          CompletesAfter (.ekill g d a) s c k (r.2, t) (fun st => putField c d 0 (((st.markDecided n i).endTagged x.core x.slot).freeRecord n i, t)) 1)
        ∧ (∀ u l s1, x.type = 0 → r.2.tagged x.core x.slot = some u → u.outst ≠ 0 → lineAt r.2 c t (nextHead t) = some (l, s1) →
          ∃ s2 t2 lim m, exec (.ekill g d a) s = .next s2 ∧ s2.thread c k = some t2 ∧ t2.run = .parked .outst lim m ∧ t2.pc = t.pc ∧ t2.g = t.g
            ∧ t2.killing = some (x.seq, none) ∧ s2.mem = (s.markDecided n i).mem)
        ∧ (x.type ≠ 0 → x.type ≠ 1 → CompletesAfter (.ekill g d a) s c k (r.2, t) (fun st =>
          putField c d 0 ((st.markDecided n i).freeRecord n i, t)) 1))

/-! ### Events -/

/-- R24, R170, R176, R206, R236, R264, R456: a parked instruction that may run tries again in its own cycle, at the last
rotation of a counted wait as well; a join and a sigwait when their word is read again; a thread that waits for rights, a
line, an attempt or a response goes on with what it waited for, at once or, where its instruction acts on the semaphores or
the waiting-task table, in its next own cycle (R219), and what such a cycle does is the instruction executed again. R121, R122, R243, R255, R264, R266, R271, R272, R275,
R377: the head of a store buffer leaves it and its enabled bytes stand in memory; the home agent and the atomic units
perform one arriving access as one step; acknowledgements and answers reach their threads.
A store of a paired thread leaves its buffer for the compare queue of 16 (R409).
What the manual leaves open there is the model's, log entries 6, 29, 58 and 60. -/
def Obligations.MemoryEvents : Prop :=
  (∀ (s s' : State) (c k : Nat) (t : Thread), s.thread c k = some t → k < 16 →
      let x := (s.ctx (s.ctxOf c)).getD {}
      (Reissues s c k s' → s.reissue c k = s')
      ∧ (∀ w lim n, t.run = .parked w lim n → s.coreOn c = true → s.moving c = false → (s.core c).cycle % 16 = k →
        t.readyAt ≤ (s.core c).cycle →
        let again := (s.reissue c k).endCycle c
        (∀ a, w = .join a → exec (.joinReevaluate c k) s = .next again)
        ∧ (w = .sigwait → exec (.sigwaitReevaluate c k) s = .next again)
        ∧ (w.polls = true → ¬(w.counted = true ∧ lim ≤ n + 1) → exec (.parkedInstructionRetry c k) s = .next again)
        ∧ (w.polls = true → w.counted = true → lim ≤ n + 1 → exec (.waitLimitExpiry c k) s = .next again))
      ∧ (∀ a lim n, t.run = .parked (.plb a) lim n → (s.ctx (s.ctxOf c)).isSome = true →
          (s.selfRefresh = false →
            let s1 := s.setThread c k { t with filled := (plbKey x.tenant a / 2 ^ 17, s.fill x a) :: t.filled }
            exec (.plbFillComplete c k) s = .next ((match s.fill x a with
              | some e => s1.updCore c fun y => { y with plb := plbTouch y.plb e }
              | none => s1).comeBack c k).touchDram)
          ∧ (s.selfRefresh = true → s.dramExit = false → exec (.plbFillComplete c k) s = .next { s with dramExit := true }))
      ∧ (∀ num lim n sl o p ext, t.run = .parked (.line num) lim n → (s.ctx (s.ctxOf c)).isSome = true →
          region x.tenant (Word.ofNat (64 * num)) = .sram sl o → x.phys sl o = some p → s.fencedAt p = false →
          exec (.lineFetchComplete c k ext) s = .next
            (((s.setThread c k { t with fetched := some (.line ⟨num, BitVec.ofNat 512 (s.read p 64)⟩) }).updCore c fun y =>
              { y with ilb := (num :: y.ilb.filter (· != num)).take 64 }).comeBack c k))
      ∧ (∀ n r a, s.reqs.get? n = some r → r.src = .thread c k → (∀ op v, r.acc ≠ .sync op v) →
          r.st = .answered a → t.twin = none → ∀ ext, exec (.homeResponse n ext) s = .next
            ((({ s with reqs := Tab.erase s.reqs n } : State).setThread c k { t with replies := t.replies ++ [a] }).comeBack c k))
      ∧ (t.ownStep = false → s.comeBack c k = s.reissue c k)
      ∧ (∀ w lim n, t.run = .parked w lim n → t.ownStep = true →
          s.comeBack c k = s.setThread c k { t with run := .parked (.due w.accepted) lim n })
      ∧ (∀ n r a lim m, s.syncReq c k = some (n, r) → r.st = .answered a → t.run = .parked (.sync true) lim m → t.twin = none →
          let s1 : State := { s with reqs := Tab.erase s.reqs n }
          (a = .err 0#8 → exec (.syncAttemptResult c k) s = .next (s1.setThread c k { t with run := .parked (.sync false) lim m }))
          ∧ (a ≠ .err 0#8 → exec (.syncAttemptResult c k) s = .next ((s1.setThread c k { t with replies := t.replies ++ [a] }).comeBack c k))))
  ∧ (∀ (s : State) (c k : Nat) (t : Thread), s.thread c k = some t →
      let x := (s.ctx (s.ctxOf c)).getD {}
      (∀ a d en f l sl o p, t.sb = .store a d en f :: l → t.twin = none → region x.tenant a = .sram sl o → x.phys sl o = some p →
        s.fencedAt p = false → Mem.wf s.mem = true → ∃ s', exec (.storeBufferDrain c k) s = .next s'
          ∧ s'.thread c k = some { t with sb := l, sbParked := false, fenceLeft := t.fenceLeft - 1 }
          ∧ (∀ b, s'.byte b = if p ≤ b ∧ b < p + 64 ∧ en.getLsbD (b - p) = true then d.extractLsb' (8 * (b - p)) 8 else s.byte b))
      ∧ (∀ a d en f l, t.sb = .store a d en f :: l → t.twin.isSome = true → t.cmpq.length < 16 →
        exec (.storeBufferDrain c k) s = .next (s.setThread c k { t with sb := l, cmpq := t.cmpq ++ [.store a d en f] }))
      ∧ (∀ l, t.outst = 0 → t.cmpq = [] →
        let popped := { t with sb := l, sbParked := t.sbParked && t.twin.isSome, fenceLeft := t.fenceLeft - 1 }
        (t.sb = .marker .fab :: l → ∃ s1, exec (.storeBufferDrain c k) s = .next s1 ∧ s1.mem = s.mem
          ∧ s1.thread c k = some popped)
        ∧ (t.sb = .marker .sys :: l → (∀ lim n, t.run ≠ .parked .release lim n) → ∃ s1, exec (.releaseComplete c k) s = .next s1
          ∧ s1.thread c k = some { popped with hostWrites := false } ∧ s1.mem = s.mem
          ∧ s1.out = if t.hostWrites then .hostRead 0 0 :: s.out else s.out))
      ∧ (∀ n r p, s.reqs.get? n = some r → r.st = .queued → s.sramOf r = some p → s.fencedAt p = false → r.src = .thread c k →
        (∀ op w sg y b e, r.acc = .amo op w sg y b e → exec (.atomicUnitStep n) s = .next
          (let q := s.amoStep p op w sg b e
           { q.2 with reqs := Tab.set q.2.reqs n { r with st := .answered (.val (BitVec.ofNat 512 q.1)) } }))
        ∧ (∀ op v, r.acc = .sync op v → s.syncReq c k = some (n, r) →
          (s.syncStep p op v = none → exec (.syncAttempt c k) s = .next { s with reqs := Tab.set s.reqs n { r with st := .answered (.err 0#8) } })
          ∧ (∀ w s1, s.syncStep p op v = some (w, s1) → exec (.syncAttempt c k) s = .next
            { s1 with reqs := Tab.set s1.reqs n { r with st := .answered (.val (w.zeroExtend 512)) } })))
      ∧ (∀ n r p m, s.reqs.get? n = some r → r.st = .queued → r.acc = .read m → r.src = .thread c k → region 0 r.addr = .paged p →
        ∀ d s1, s.translate p = (.dram d, s1) → s.fencedAt d = false → s.selfRefresh = false →
          exec (.homeAgentRequest (.own n)) s = .next
            ((s1.fillLine p d false).setReq n { r with st := .answered (.val (BitVec.ofNat 512 (s.read d m))) }))
      ∧ (∀ n i, s.inflight.get? n = some i → i.core = c → i.slot = k → k < 16 → t.twin = none →
        s.mgmt.dbgKill = [] → (s.core c).lost = false →
        (i.outcome = some none → ∃ s', exec (.storeAck n) s = .next s' ∧ s'.thread c k = some { t with outst := t.outst - 1 }
          ∧ s'.inflight = Tab.erase s.inflight n ∧ s'.mem = s.mem)
        ∧ (∀ code st, i.outcome = some (some code) → t.run = .stopped st none → t.refusal = none → ∀ link, ∃ s',
          exec (.lateRefusal n link) s = .next s' ∧ s'.mem = s.mem
          ∧ s'.thread c k = some { t with outst := t.outst - 1, refusal := some (code, i.seq, i.addr) }))
      ∧ (∀ n r v s1, s.reqs.get? n = some r → r.st = .sent none → isAmo r.acc = true → r.src = .nobody →
        s1 = { s with reqs := Tab.erase s.reqs n } →
        exec (.hostAtomicopCompletion n (.old v)) s = .next s1
        ∧ exec (.hostAtomicopCompletion n .refused) s = .next (s1.enterRoute r.addr))
      ∧ (∀ n r v, s.reqs.get? n = some r → r.st = .sent none → isAmo r.acc = true → r.src = .thread c k → t.twin = none → k < 16 →
        let s1 : State := { s with reqs := Tab.erase s.reqs n }
        let back := fun (s1 : State) (a : Reply) => (s1.setThread c k { t with replies := t.replies ++ [a] }).comeBack c k
        exec (.hostAtomicopCompletion n (.old v)) s = .next (back s1 (.val (v.zeroExtend 512)))
        ∧ exec (.hostAtomicopCompletion n .refused) s = .next (back (s1.enterRoute r.addr) (.err 0x30#8))
        ∧ exec (.hostAtomicopCompletion n .noPath) s = .next (back s1 (.err 0x31#8)))
      ∧ (∀ i st p ext, (t.streams[i]?).getD none = some st → st.wr = false → st.ahead.length < 4 → st.pos + st.ahead.length < st.total →
        let a := st.addr (st.pos + st.ahead.length)
        a.toNat % 64 = 0 → t.twin = none → (s.ctx (s.ctxOf c)).isSome = true → (∃ e, s.fill x a = some e ∧ e.rights &&& rR = rR) →
        s.mapCheck c x a = .ok (.sram p) → s.fencedAt p = false →
        exec (.streamReadAhead c k i ext) s = .next (s.setThread c k
          { t with streams := t.streams.setIfInBounds i (some { st with ahead := st.ahead ++ [BitVec.ofNat 512 (s.read p 64)] }) })))

/-- R302-R312, R409: the matrix engine starts the oldest job whose wait is met, ends it after its cycles with its results
in the tile and in memory, gates itself after its idle time and wakes again. R174, R323-R338: the retriever hands the
oldest mailbox register to the copy engine in slot 15's cycle; the engine starts a copy whose wait is met, moves a unit
whose places are at hand and whose source the copy does not itself overwrite, counts it, and reports the end of a copy with a message, a faulted one with its code.
What the manual leaves open there is the model's, log entries 3, 7 and 58. -/
def Obligations.MatrixCopyEvents : Prop :=
  (∀ (s : State) (n : Nat) (j : Job) (l : List Job),
      let m := (s.cluster n).me
      (m.running = none → m.gated = false → m.fenced = false → s.engineOn n = true → m.jobs = j :: l → s.mayStart j.core = true →
        (TdReady s j.core j.td → (m.latch.get? j.tile = none ∨ j.form ≠ .mma ∧ j.form ≠ .accst) →
          exec (.meJobStart n) s = .next (s.updMe n fun m => { m with running := some (j.core, j.id, (s.core j.core).cycle + j.cycles) }))
        ∧ (∀ code, TdReady s j.core j.td → (j.form = .mma ∨ j.form = .accst) → m.latch.get? j.tile = some code →
          exec (.meJobStart n) s = .next (s.endJob j code {} true)))
      ∧ (∀ at_ x, m.running = some (j.core, j.id, at_) → s.engineOn n = true → m.jobs.find? (fun k => k.core == j.core && k.id == j.id) = some j →
          s.ctx j.ctx = some x → j.twin = none →
          ((s.core j.core).cycle < at_ → exec (.meJobComplete n) s = .refused (.cannotOccur "ME_JOB_COMPLETE"))
          ∧ (at_ ≤ (s.core j.core).cycle → s.jobBlocked j x = false →
            exec (.meJobComplete n) s = .next ((s.putJob j x (s.jobResult j x) true).endJob j 0 (s.jobResult j x).flags true))
          ∧ (at_ ≤ (s.core j.core).cycle → s.jobBlocked j x = true → exec (.meJobComplete n) s = .next (s.endJob j 0x72#8 {} true)))
      ∧ (∀ x, j.form = .acczero → (mfmt j.a.fmt).isSome = true → (mfmt j.b.fmt).isSome = true →
          (s.jobResult j x).writes = [] ∧ (∀ p ∈ (s.jobResult j x).cells, p.2 = 0)
          ∧ ∀ r c, r < j.win.rows → c < j.win.cols → (64 * (j.win.row0 + r) + (j.win.col0 + c), (0 : Word)) ∈ (s.jobResult j x).cells)
      ∧ (m.gated = false → m.jobs = [] → s.mgmt.meidle ≠ 0 → s.clusterNs n s.mgmt.meidle ≤ (s.time - m.idleSince).toNat →
          exec (.meIdleGate n) s = .next (s.updMe n fun m => { m with gated := true, waking := false }))
      ∧ (m.jobs ≠ [] → exec (.meIdleGate n) s = .refused (.cannotOccur "ME_IDLE_GATE"))
      ∧ (m.gated = true → m.waking = true →
          let s1 := s.updMe n fun m => { m with gated := false, waking := false, wakeFor := none, idleSince := s.time }
          exec (.meWakeComplete n) s = .next (match m.wakeFor with
            | some x => s1.charge x
            | none => s1)))
  ∧ (∀ (s : State) (n c : Nat) (q : Copy) (rest : List Copy),
      let e := (s.cluster n).ce
      let k := s.core c
      ((s.core c).cycle % 16 = 15 → k.completions = [] → k.copyRegs = q :: rest → s.inFlight c < 64 → (s.cluster (c / 8)).ce.fenced = false →
        exec (.retrieverCycle c) s = .next (((s.setCore c { k with copyRegs := rest }).updCe (c / 8) fun e =>
          { e with copies := e.copies ++ [q] }).endCycle c))
      ∧ (e.fenced = false → s.engineOn n = true → s.mayStart c = true → e.copies.find? (fun x => x.core == c && !x.started) = some q →
        TdReady s c q.td → q.core = c → ¬(q.form = .lb ∧ q.inv = true) →
        exec (.copyStart n c) s = .next (s.setCopy n { q with started := true }))
      ∧ (∀ id u x ext rs ws s1 s2, s.copyOf n c id = some q → s.ctx q.ctx = some x → q.started = true → q.fault = none → q.unitDue u = true →
        s.engineOn n = true → e.fenced = false → q.form = .cpy → s1.selfRefresh = false → s2.selfRefresh = false →
        s.places q.ctx x rR (q.sources u) = (rs, s1) → s1.places q.ctx x rW (q.dests u (q.sources u).length) = (ws, s2) →
        (∀ p ∈ rs ++ ws, ∃ d, p.2 = .die d) →
        (∀ p ∈ (q.sources u).zip (List.range (q.sources u).length), q.overwrites x p.1 (q.unit * u + 8 * p.2) = []) →
        exec (.copyGranuleCount n c id u ext) s = .next ((s2.scatterBytes q.ctx ws (rs.flatMap fun p => match p.2 with
          | .die d => Mem.bytes s1.mem d 8
          | _ => [])).markUnit n q u none))
      ∧ (∀ id, s.copyOf n c id = some q → q.core = c → q.tag ≠ 15 → q.started = true → q.fault = none → q.finished = true → q.quiet = false →
        ∃ s', exec (.copyComplete n c id) s = .next s' ∧ s'.mem = s.mem ∧ (s'.core c).completions = k.completions ++
          [{ value := Word.ofNat q.total, status := 0, seq := q.id, src := c, kind := 1, tag := q.tag }])
      ∧ (∀ id code a, s.copyOf n c id = some q → q.core = c → q.tag ≠ 15 → q.fault = some (code, a) →
        q.asked = [] →
        (s.live q.ctx = false → exec (.copyEndFault n c id) s = .next ((s.dropCopy n q).commandEnded q.ctx c 2 q.id code))
        ∧ (s.live q.ctx = true → ∃ s', exec (.copyEndFault n c id) s = .next s' ∧ (s'.core c).completions = k.completions ++
          [{ value := Word.ofNat q.value, status := code.zeroExtend 16, seq := q.id, src := c, kind := 1, tag := q.tag }])))

/-- R348-R350, R244: the key store engine starts a command whose wait is met, runs it to its end, or sets it aside at a
page that is not present; a command with a poisoned wait ends with its code. -/
def Obligations.KeyStoreEngineEvents : Prop :=
  ∀ (s : State) (n : Nat) (k : KseCmd),
    let q := (s.cluster n).kse
    (q.running = none → q.fenced = false → s.engineOn n = true → q.queue = [k] → k.core / 8 = n → s.mayStart k.core = true → k.aside = none →
      (∀ v r m, k.form ≠ .kgather v r m) →
      (TdReady s k.core k.td → exec (.kseCommandStart n) s = .next (s.updKse n fun q => { q with running := some k.core, last := k.core % 8 }))
      ∧ (k.td.wt ≠ 0 → (Tab.getD (s.core k.core).sems k.td.ws.toNat {}).p = true → exec (.kseCommandStart n) s = .next
          ((s.updKse n fun q => { q with last := k.core % 8 }).endKse n k (0, (Tab.getD (s.core k.core).sems k.td.ws.toNat {}).code, 0, 0))))
    ∧ (∀ x, q.fenced = false → s.heel.freeze ≠ .frozen → (s.island (if n < 64 then 0 else 1)).st = .active → q.running = some k.core →
      q.queue.find? (fun c => c.core == k.core) = some k → s.ctx k.ctx = some x →
      let e : KseEnv := { s := s, x := x, cmd := k, cluster := n, replay := k.reads, skip := k.writes, got := k.got }
      (∀ m e1, KseM.run e = .ok m e1 → exec (.kseCommandComplete n) s = .next (e1.s.endKse n k (m, 0, 0, 0)))
      ∧ (∀ code a reason e1, KseM.run e = .error (.fault code a reason) e1 →
        exec (.kseCommandComplete n) s = .next (e1.s.endKse n k (0, code, a, reason)))
      ∧ (∀ p w e1, KseM.run e = .error (.absent p w) e1 → ∃ s', exec (.kseCommandComplete n) s = .next s'
        ∧ (s'.cluster n).kse.running = none))

/-- R440-R456: an invocation is queued for its handler, refused with 2, 3 or 1 otherwise, and the answer goes back; a
landing slot is reserved under a token and released by it, takes a segment's bytes and counts its prefix, and is free
again 1 ms after it tore; a signal update takes effect at its word in one step.
What the manual leaves open there is the model's, log entries 31 and 63. -/
def Obligations.FabricEvents : Prop :=
  ∀ (s : State),
    (∀ p : InvPacket, p.chip ≠ s.ownChip → s.heel.freeze = .none →
      let h := s.qs.handlers.getD (bits p.header 15 4) {}
      let prio := min (bits p.header 27 24) h.pmax
      let queued := s.qs.inv.getD prio []
      let taken : Tab (List Invocation) := Tab.set s.qs.inv prio (queued ++ [{ key := p.tag, pkt := p, waiting := List.range p.tiles }])
      let answer := fun (n : Nat) (st : State) => exec (.invocationArrival p) s = .next (st.emit (.fabric p.chip 2 (.invAnswer p.tag n) p.sealedCtx))
      (s.ctx h.ctx = none ∨ h.en = false → answer 2 s)
      ∧ ∀ x, s.ctx h.ctx = some x → h.en = true → x.dead = false → h.vca < x.width →
        (h.srcm.getLsbD p.chip = false ∨ p.sealedCtx ≠ x.sealed → answer 3 s)
        ∧ (h.srcm.getLsbD p.chip = true → p.sealedCtx = x.sealed →
          (64 ≤ queued.length → answer 1 s)
          ∧ (queued.length < 64 → answer 0 { s with qs := { s.qs with inv := taken } })))
    ∧ (∀ c k t p answer, s.thread c k = some t → k < 15 → t.twin = none → (answer ≤ 3 ∨ answer = 5) →
      s.localInv.find? (fun e => e.1 == c && e.2.1 == k && bits e.2.2.header 3 0 != s.ownChip) = some (c, k, p) →
      exec (.rinvAnswer c k answer) s = .next ((({ s with localInv := s.localInv.filter (· != (c, k, p)) } : State).setThread c k
        { t with replies := t.replies ++ [if answer = 5 then .err 0x21#8 else .val (BitVec.ofNat 512 answer)] }).comeBack c k))
    ∧ (∀ chip tag target z,
      let core := target.toNat / 16 % 1024
      let n := 16 * core + target.toNat / 2 ^ 16 % 16
      s.heel.freeze = .none → s.lz.get? n = some z → core < 528 → (s.core core).fenced = false → s.isPlinth core = false → (s.core core).ctx.isSome = true →
      (z.srcm.getLsbD chip = true → z.st = .free → (s.portTo chip).isSome = true → ∃ s' check, exec (.lzresArrival (.chip chip tag) target) s = .next s'
        ∧ s'.lz = Tab.set s.lz n { z with st := .reserved chip check, counted := 0, streams := [] } ∧ s'.freeCtr = s.freeCtr + 1
        ∧ s'.out = .fabric chip 2 (.lzAnswer tag (fields [(check.toNat, 32), (z.log, 20), (target.toNat / 2 ^ 16 % 16, 16), (core, 4), (s.ownChip, 0)]))
          (s.sealed (s.ctxOf core)) :: s.out)
      ∧ (z.srcm.getLsbD chip = true → z.st ≠ .free →
        exec (.lzresArrival (.chip chip tag) target) s = .next (s.emit (.fabric chip 2 (.lzAnswer tag (-2)) (s.sealed (s.ctxOf core)))))
      ∧ (z.srcm.getLsbD chip = false →
        exec (.lzresArrival (.chip chip tag) target) s = .next (s.emit (.fabric chip 2 (.lzAnswer tag (-3)) (s.sealed (s.ctxOf core))))))
    ∧ (∀ chip tag token z check,
      let core := token.toNat / 16 % 1024
      let n := 16 * core + token.toNat / 2 ^ 16 % 16
      s.heel.freeze = .none → s.lz.get? n = some z → z.st = .reserved chip check →
      let current := fields [(check.toNat, 32), (z.log, 20), (token.toNat / 2 ^ 16 % 16, 16), (core, 4), (s.ownChip, 0)]
      (token = current → exec (.lzrelArrival (.chip chip tag) token) s = .next (State.emit
        { s with lz := Tab.set s.lz n { z with st := .free, counted := 0, streams := [] } } (.fabric chip 2 (.lzAnswer tag 0) (s.sealed (s.ctxOf core)))))
      ∧ (token ≠ current → exec (.lzrelArrival (.chip chip tag) token) s = .next (s.emit (.fabric chip 2 (.lzAnswer tag 1) (s.sealed (s.ctxOf core))))))
    ∧ (∀ (g : LzSegment) x z check sl o p,
      let core := g.token.toNat / 16 % 1024
      let n := 16 * core + g.token.toNat / 2 ^ 16 % 16
      g.chip ≠ s.ownChip → s.heel.freeze = .none → g.card = none → s.lz.get? n = some z → s.ctx (s.ctxOf core) = some x → z.st = .reserved g.chip check →
      g.token = fields [(check.toNat, 32), (z.log, 20), (g.token.toNat / 2 ^ 16 % 16, 16), (core, 4), (s.ownChip, 0)] →
      region x.tenant (z.addr + Word.ofNat g.off) = .sram sl o → x.phys sl o = some p → g.off + g.data.length ≤ 2 ^ z.log →
      s.fencedAt p = false → z.streams = [] → g.seg = 0 → (s.core core).partners = [] → (s.portTo g.chip).isSome = true →
      ∃ s', exec (.lzSegmentArrival g) s = .next s' ∧ s'.mem = (s.engineWrite p g.data).mem
        ∧ (s'.core core).adds = (s.core core).adds ++ [(z.sem, 1)] ∧ (s'.lz.get? n).map (·.counted) = some (z.counted + 1)
        ∧ s'.out = .fabric g.chip 2 (.answer g.stream (.val 0)) (s.sealed (s.ctxOf core)) :: s.out)
    ∧ (∀ c n z chip check since, s.lz.get? (16 * c + n) = some z → z.st = .torn chip check since → 1000000 ≤ (s.time - since).toNat →
      exec (.lzTornTimeout c n) s = .next { s with lz := Tab.set s.lz (16 * c + n) { z with st := .free, counted := 0, streams := [] } })
    ∧ (∀ n r op v p c k q, s.reqs.get? n = some r → r.acc = .signal op v → r.st = .queued → r.src = .store c k q → s.sramOf r = some p →
      s.fencedAt p = false →
      ∃ s', exec (.sigupdArrival (.own n)) s = .next s' ∧ s'.inflight = Tab.update s.inflight n (fun i => { i with outcome := some none })
        ∧ s'.mem = (s.write p 8 (match op with
          | .st => v
          | .add => s.word p + v
          | .or => s.word p ||| v).toNat).mem)

/-- R166-R184, R219, R177, R409, R410, R368-R372, R398: a trap leaves its thread TRAPPED as it stood, writes its record into the lowest
free slot of the trap area and puts the handler task, with the record's address and the code, into the inbox of its own core
where that has room; at depth 4 it ends the context; a debugger stop writes a record of TYPE 1 and starts no handler; with no free slot
the thread waits; a notice writes a record that shows no thread. The allocator launches the best record into an EMPTY slot; an idle core
takes a record from a victim, or backs off; a saved thread is restored; a quad over its power limit gates its vacant
cycles first, then lowers its clock; a slot is evicted and saved; the additions of a cycle reach their semaphores,
saturated once, and an armed entry with its threshold met goes to the hit list; a word of a link arrives; the accesses of
a pair are compared; a deferred record gets its slot, and an undecided one has its watchdog.
What the manual leaves open there is the model's, log entries 35, 49 and 60. -/
def Obligations.CoreEvents : Prop :=
  ∀ (s : State) (c : Nat),
    let d := s.core c
    (∀ k t st x i a, k < 16 → s.thread c k = some t → s.ctx (s.ctxOf c) = some x → x.recs.free 0 (2 ^ x.trlog) = some i →
      s.areaWaits x i = false → s.recordAddr x i = some a → .reserved c k ∉ d.inbox → Mem.wf s.mem = true →
      let n := s.ctxOf c
      let at_ := x.trbase + Word.ofNat (512 * i)
      let r : TrapRec := { core := c, slot := k, thread := true, type := 0, depth := t.depth, since := s.time, seq := x.recSeq }
      let s1 := s.takeTrap c k st
      (st.type = 0 → t.depth < 4 → (∃ t', s1.thread c k = some t' ∧ Stopped t' t (.trapped st (some i)))
        ∧ RecordShows s1 s a n c k t st 0 ∧ (∃ x', s1.ctx n = some x' ∧ x'.recs.get? i = some r)
        ∧ (0 < d.emptySlots → d.inboxRoom 1 = true → (s1.core c).inbox = d.inbox ++ [.task
          { pc := x.hpc, args := [at_, st.code.zeroExtend 64], prio := x.hprio, ctx := n, trapinfo := at_, recSeq := x.recSeq,
            depth := t.depth + 1 }]))
      ∧ (st.type = 0 → 4 ≤ t.depth → s1.live n = false)
      ∧ (let s2 := s.takeStop c k st
        let st1 : Stop := { st with type := 1 }
        (∃ t', s2.thread c k = some t' ∧ Stopped t' t (.stopped st1 (some i))) ∧ RecordShows s2 s a n c k t st1 1
          ∧ (∃ x', s2.ctx n = some x' ∧ x'.recs.get? i = some { r with type := 1 }) ∧ (s2.core c).inbox = d.inbox))
    ∧ (∀ k t st x, k < 16 → s.thread c k = some t → s.ctx (s.ctxOf c) = some x → x.recs.free 0 (2 ^ x.trlog) = none →
      (c, k) ∉ x.waiting → let s1 := s.takeTrap c k st
      (∃ t', s1.thread c k = some t' ∧ Stopped t' t (.trapped st none)) ∧ s1.mem = s.mem
        ∧ s1.ctx (s.ctxOf c) = some { x with waiting := x.waiting ++ [(c, k)] })
    ∧ (∀ n st x i a, s.thread c 15 = none → s.ctx n = some x → x.recs.free 0 (2 ^ x.trlog) = some i → s.areaWaits x i = false →
      s.recordAddr x i = some a → 2 ≤ st.type → Mem.wf s.mem = true → let s1 := s.notice c 15 n st
      NoticeShows s1 s a n c st ∧ ∃ x' r, s1.ctx n = some x' ∧ x'.recs.get? i = some r ∧ r.type = st.type ∧ r.thread = false ∧ r.dec = false)
    ∧ (∀ k src, s.nextLaunch c = some (k, src) → (∀ n, src ≠ .resume n) →
      ((d.dropForeign (s.ctxOf c)).inbox = d.inbox → exec (.slotAllocatorLaunch c) s = .next (s.launchFrom c k src))
      ∧ ((d.dropForeign (s.ctxOf c)).inbox ≠ d.inbox →
        exec (.slotAllocatorLaunch c) s = .next (s.updCore c fun x => x.dropForeign (s.ctxOf c))))
    ∧ (∀ k r l, d.hits = r :: l → ((s.launchFrom c k (.hit 0)).core c).hits = l ∧ ∃ tid pin, (s.launchFrom c k (.hit 0)).thread c k =
        some (r.thread tid pin d.cycle) ∧ (r.tid.isSome = true → r.tid = some tid))
    ∧ (∀ (r : TaskRec) tid pin cycle, (r.thread tid pin cycle).pc = r.pc ∧ (r.thread tid pin cycle).join = r.join
        ∧ (r.thread tid pin cycle).prio = r.prio ∧ (r.thread tid pin cycle).tid = tid
        ∧ ∀ n : Fin 24, (r.thread tid pin cycle).g[n] = (r.args[n.val]?).getD 0)
    ∧ (∀ k, s.idleThief c = some k →
      (∀ r dv, let v := quadOf c * 4 + (c % 4 + 1) % 4
        s.victim c v = true → (s.core v).stealDeque 0 = some (r, dv) →
        ∃ s', exec (.stealSweep c) s = .next s' ∧ s'.core v = dv ∧ ∃ tid pin, s'.thread c k = some (r.thread tid pin d.cycle))
      ∧ ((∀ v l, s.victim c v = true → (s.core v).stealDeque l = none) →
        ∃ s', exec (.stealSweep c) s = .next s' ∧ (s'.core c).backoff = some (d.cycle + 256) ∧ ∀ v, v ≠ c → s'.core v = s.core v))
    ∧ (∀ b, d.backoff = some b → b ≤ d.cycle →
        exec (.stealBackoffExpiry c) s = .next (s.updCore c fun x => { x with backoff := none }))
    ∧ (∀ k n v, s.nextLaunch c = some (k, .resume n) → d.saved.get? n = some v → v.th.stopDue = none →
        ∃ s', exec (.threadRestore c) s = .next s' ∧ s'.thread c k = some (v.th.restored d.cycle))
    ∧ (∀ q, q < 132 →
      let cores := (List.range 4).map fun i => 4 * q + i
      ((∃ x ∈ cores, (s.core x).gated = false) → exec (.pmcPowerLimit q) s = .next (cores.foldl (fun s x =>
          s.updCore x fun k => { k with gated := true }) s))
      ∧ ((∀ x ∈ cores, (s.core x).gated = true ∧ (s.core x).slots = []) → q < 128 → 500 < s.mhz q →
          exec (.pmcPowerLimit q) s = .next { s with clocks := Tab.set s.clocks q (s.mhz q - 25) })
      ∧ (∀ x k t, (∀ y ∈ cores, (s.core y).gated = true ∧ (y ≠ x → (s.core y).slots = [])) → x ∈ cores → (s.core x).slots = [(k, t)] →
          t.pinned = false → t.headAbsent = false → s.isPlinth x = false → (s.core x).canEvict = true →
          exec (.pmcPowerLimit q) s = .next (s.startEvict x k .power)))
    ∧ (∀ k t, d.evicting = some k → s.thread c k = some t → t.headAbsent = false → Drained t → (∀ w l n, t.run ≠ .parked w l n) →
        t.outst = 0 → t.hostWrites = false →
        let s1 := (s.saveThread c k).updCore c fun x => { x with evicting := none, evictWhy := .power }
        (∀ src, (s1.core c).sourceOf d.evictWhy = some src → exec (.evictSave c k) s = .next (s1.launchFrom c k src))
        ∧ ((s1.core c).sourceOf d.evictWhy = none → exec (.evictSave c k) s = .next s1))
    ∧ (∀ k t a lim n, d.canEvict = true → d.emptySlot = none → d.candidates ≠ [] → t.run = .parked (.join a) lim n →
        s.mgmt.pevict < (s.time - t.parkedAt).toNat → (k, t) ∈ d.slots → t.pinned = false →
        ((d.slots.filter fun p => p.1 != k).all fun p => match p.2.run, Exec.waitOf p.2 with
          | .parked _ _ _, some (w, _) => !w.isJoin
          | _, _ => true) = true → ((d.slots.filter fun p => p.1 == k) = [(k, t)]) →
        exec (.parkEvictExpiry c) s = .next (s.startEvict c k .join))
    ∧ (∀ x y src p why, s.ctx (s.ctxOf c) = some x → x.preempt = true → bestOf d.candidates = some (src, p) → d.canEvict = true →
        d.emptySlot = none → s.launches c = true → d.recordOf src = some why →
        evictChoice ((s.unpinned c).filter fun z => decide (z.2.2.prio < p)) = some y → exec (.preempt c) s = .next (s.startEvict c y.2.1 why))
    ∧ exec (.semaphoreCycleUpdate c) s = .next ((s.updCore c (·.semUpdate)).fireSems c)
    ∧ ((∀ k < 16, (s.trigger k).st ≠ .armed) → exec (.semaphoreCycleUpdate c) s = .next (s.updCore c (·.semUpdate)))
    ∧ (∀ n i j, d.adds = [(n, i), (n, j)] → d.poisons = [] → d.table = [] →
        (d.semUpdate.sem n).v = min ((d.sem n).v + (i + j)) (2 ^ 32 - 1) ∧ ∀ m, m ≠ n → d.semUpdate.sem m = d.sem m)
    ∧ (∀ n e r t, d.adds = [] → d.poisons = [] → d.table = [(e, .armed r n t)] → (d.sem n).p = false →
        (t ≤ (d.sem n).v → d.semUpdate.hits = d.hits ++ [r] ∧ d.semUpdate.table = [] ∧ (d.semUpdate.sem n).v = (d.sem n).v - t)
        ∧ ((d.sem n).v < t → d.semUpdate = d))
    ∧ (∀ w at_ l, at_ ≤ d.cycle →
        (d.eastWay = (w, at_) :: l → exec (.linkWordArrival c true) s = .next (s.setCore c { d with east := d.east ++ [w], eastWay := l }))
        ∧ (d.westWay = (w, at_) :: l → exec (.linkWordArrival c false) s = .next (s.setCore c { d with west := d.west ++ [w], westWay := l })))
    ∧ (∀ k c2 k2 t u x y tx uy, s.thread c k = some t → s.thread c2 k2 = some u → t.twin = some (c2, k2, true) → t.cmpq = x :: tx →
        u.cmpq = y :: uy →
        (x.view ≠ y.view → exec (.pairCompare c k) s = .next (s.mismatch (c, k) (c2, k2) x y))
        ∧ (∀ a e f en p sl o, x.view = y.view → x = .store a e en f → (c, k) ≠ (c2, k2) →
          region ((s.ctx (s.ctxOf c)).getD {}).tenant a = .sram sl o → ((s.ctx (s.ctxOf c)).getD {}).phys sl o = some p →
          s.fencedAt p = false → Mem.wf s.mem = true → ∃ s', exec (.pairCompare c k) s = .next s'
          ∧ s'.thread c k = some { t with cmpq := tx, sbParked := false, fenceLeft := t.fenceLeft - 1 }
          ∧ s'.thread c2 k2 = some { u with cmpq := uy, sbParked := false, fenceLeft := u.fenceLeft - 1 }
          ∧ ∀ b, s'.byte b = if p ≤ b ∧ b < p + 64 ∧ en.getLsbD (b - p) = true then e.extractLsb' (8 * (b - p)) 8 else s.byte b)
        ∧ (∀ addr m f, x.view = y.view → x = .access addr (.read m) f → (c, k) ≠ (c2, k2) → ∃ s', exec (.pairCompare c k) s = .next s' ∧ s'.mem = s.mem
          ∧ s'.thread c k = some { t with cmpq := tx } ∧ s'.thread c2 k2 = some { u with cmpq := uy }
          ∧ s'.reqs = Tab.set s.reqs s.nextReq { src := .thread c k, ctx := s.ctxOf c, addr := addr, acc := .read m })
        ∧ (x.view = y.view → x.isStore = false → ∀ s', ((s.setThread c k { t with cmpq := tx }).setThread c2 k2 { u with cmpq := uy }).performPair
            (c, k) (c2, k2) t x = some s' → exec (.pairCompare c k) s = .next s'))
    ∧ (∀ n x, s.ctx n = some x →
      (∀ a b l, x.handlersDue = [] → x.waiting = (a, b) :: l → (x.recs.free 0 (2 ^ x.trlog)).isSome = true →
        x.saved = false →
        exec (.trapRecordDeferred n) s = .next ((s.setCtx n { x with waiting := l }).giveRecord a b))
      ∧ (∀ a b st w l, x.handlersDue = [] → x.waiting = [] → x.notices = (a, b, st, w) :: l → (x.recs.free 0 (2 ^ x.trlog)).isSome = true →
        exec (.trapRecordDeferred n) s = .next ((s.setCtx n { x with notices := l }).noticeOf a b n st w))
      ∧ (∀ i r, x.recs.get? i = some r → x.hwdt ≠ 0 → r.dec = false →
        (x.hwdt ≤ (s.time - r.since).toNat → exec (.handlerWatchdogExpiry n i) s = .next (s.killContext n 0x7F#8))
        ∧ ((s.time - r.since).toNat < x.hwdt → exec (.handlerWatchdogExpiry n i) s = .refused (.cannotOccur "HANDLER_WATCHDOG_EXPIRY"))))

/-- R191-R198, R443: a doorbell makes an IDLE queue READY and a write index too far ahead an ERROR; the EN bit enables or
disables a queue; a pick takes the least PASS, acts on the head packet and charges the stride; a WAIT whose comparison
holds is consumed; a queue parked past the limit becomes WAITMEM; an acknowledged SIGNAL or MARKER is consumed, a refused
one is ERROR 0x06.
What the manual leaves open there is the model's, log entries 37, 50, 58 and 62. -/
def Obligations.QueueEvents : Prop :=
  ∀ (s : State) (q : Nat), q < 256 →
    let x := s.queue q
    (∀ v : HostWrite,
      let wr := v.value.setWidth 32
      (x.en = false ∨ v.size ≠ 4 ∧ v.size ≠ 8 → exec (.doorbell q v) s = .next s)
      ∧ (x.en = true → (v.size = 4 ∨ v.size = 8) →
        (x.st = .error → exec (.doorbell q v) s = .next ((s.setQueue q { x with wr := wr }).mirrorQueue q))
        ∧ (x.st ≠ .error → 2 ^ x.logn < (wr - x.rd).toNat →
          exec (.doorbell q v) s = .next ((s.setQueue q { x with wr := wr }).queueError q 0x04#8))
        ∧ (x.st ≠ .error → (wr - x.rd).toNat ≤ 2 ^ x.logn →
          (x.st = .idle → x.rd ≠ wr →
            exec (.doorbell q v) s = .next (s.settleQueue q { x with wr := wr, st := .ready, pass := max x.pass s.qs.gv }))
          ∧ (x.st = .ready → x.rd = wr → exec (.doorbell q v) s = .next (s.settleQueue q
            { x with wr := wr, st := .idle, resident := false, head := [], launch := none }))
          ∧ (x.st ≠ .idle → (x.st = .ready → x.rd ≠ wr) →
            exec (.doorbell q v) s = .next ((s.setQueue q { x with wr := wr }).mirrorQueue q)))))
    ∧ (∀ a, s.queueDesc q = some a →
      ((s.word (a + 8)).getLsbD 32 = x.en → exec (.queueEnable q) s = .refused (.cannotOccur "QUEUE_ENABLE"))
      ∧ ((s.word (a + 8)).getLsbD 32 = false → x.en = true → exec (.queueEnable q) s = .next ((s.orphanQueue q).settleQueue q
        { x with en := false, st := .off, resident := false, head := [], launch := none, producer := none, sent := false, parked := none }))
      ∧ ((s.word (a + 8)).getLsbD 32 = true → x.en = false → x.st = .off → 4 ≤ bits (s.word (a + 8)) 4 0 → bits (s.word (a + 8)) 4 0 ≤ 16 →
        1 ≤ bits (s.word (a + 8)) 26 16 → bits (s.word (a + 8)) 26 16 ≤ 1024 → s.live (bits (s.word (a + 8)) 15 8) = true →
        exec (.queueEnable q) s = .next (s.settleQueue q
          { x with base := s.word a, en := true, tickets := bits (s.word (a + 8)) 26 16, ctx := bits (s.word (a + 8)) 15 8,
                   logn := bits (s.word (a + 8)) 4 0, head := [], launch := none, producer := none, sent := false, parked := none,
                   resident := false, err := 0, st := if x.rd = x.wr then .idle else .ready,
                   pass := if x.rd = x.wr then x.pass else max x.pass s.qs.gv }))
      ∧ ((s.word (a + 8)).getLsbD 32 = true → x.en = false → (bits (s.word (a + 8)) 4 0 < 4 ∨ 16 < bits (s.word (a + 8)) 4 0
          ∨ bits (s.word (a + 8)) 26 16 = 0 ∨ 1024 < bits (s.word (a + 8)) 26 16 ∨ s.live (bits (s.word (a + 8)) 15 8) = false) →
        ∃ s1 : State, exec (.queueEnable q) s = .next (s1.queueError q 0x05#8)))
    ∧ (∀ ext, s.heel.freeze = .none → s.boot.phase ≠ .maquette →
      let w := s.viewHeads
      let y := w.queue q
      (w.invHead = none → w.pickQueue w.headReady = none → w.qs.invNext = false →
        exec (.qsPick ext) s = .next { w with qs := { w.qs with invNext := true } })
      ∧ (∀ h l, (w.invHead = none ∨ w.qs.invNext = false) → w.pickQueue w.headReady = some q → y.head = h :: l → w.headSleeps y = false →
        let act := ({ w with qs := { w.qs with gv := y.pass } } : State).qsAct q ext
        let done := if (act.queue q).st = .wait ∧ (act.queue q).rd = y.rd then { act with qs := { act.qs with gv := w.qs.gv } }
          else (act.setQueue q { act.queue q with pass := (act.queue q).pass + w.stride q }).mirrorQueue q
        exec (.qsPick ext) s = .next { done with qs := { done.qs with invNext := true } })
      ∧ (∀ p i, w.invHead = some (p, i) →
        let t := w.invServe p i
        (w.pickQueue w.headReady = none → exec (.qsPick ext) s = .next { t with qs := { t.qs with invNext := true } })
        ∧ ((w.pickQueue w.headReady).isSome = true → w.qs.invNext = true → exec (.qsPick ext) s = .next
          { t with qs := { t.qs with invNext := !(t.invHead.isSome && (t.pickQueue t.headReady).isSome) } })))
    ∧ (∀ ext, (bits (x.word 0) 7 0 = 0 ∨ 5 < bits (x.word 0) 7 0) → s.qsAct q ext = s.queueError q 0x01#8)
    ∧ (∀ ext w s1, x.st = .wait → x.resident = true → x.parked = none → s.heel.freeze = .none →
      s.qsRead x.ctx (x.word 1) 8 ext = (.got [w], s1) →
      (cmpHolds (cmpOf (bits (x.word 0) 9 8)) (w &&& x.word 3) (x.word 2) = true → exec (.qsWaitEvaluate q ext) s = .next (s1.consume q))
      ∧ (cmpHolds (cmpOf (bits (x.word 0) 9 8)) (w &&& x.word 3) (x.word 2) = false →
        let y := s1.queue q
        let producer := if (y.word 0).getLsbD 24 then some (bits (y.word 0) 23 16) else none
        exec (.qsWaitEvaluate q ext) s = .next ((s1.setQueue q { y with st := .wait, producer := producer }).mirrorQueue q)))
    ∧ (∀ ext w t, x.unseen = true → s.ringAtHand x = true → s.heel.freeze = .none → (s.qsRead x.ctx x.packet 64 none).1 = .ask →
      s.qsRead x.ctx x.packet 64 ext = (.got w, t) → exec (.qsWaitEvaluate q ext) s = .next (t.seeHead q w))
    ∧ (∀ p since st, x.parked = some (p, since, st) → x.st ≠ .waitmem →
      (1000 * s.mgmt.fpark ≤ (s.time - since).toNat →
        exec (.qsFaultParkExpiry q) s = .next (s.settleQueue q { x with st := .waitmem, resident := false }))
      ∧ ((s.time - since).toNat < 1000 * s.mgmt.fpark → exec (.qsFaultParkExpiry q) s = .refused (.cannotOccur "QS_FAULT_PARK_EXPIRY")))
    ∧ (∀ ext n r, x.sent = true → s.reqs.find? (fun p => p.2.src == .queue q) = some (n, r) →
      (∀ v, r.st = .answered (.val v) → bits (x.word 0) 7 0 = 3 → exec (.qsSignalAck q ext) s = .next ((s.dropReq n).consume q))
      ∧ (∀ v, r.st = .answered (.val v) → bits (x.word 0) 7 0 = 5 → (x.word 0).getLsbD 8 = true →
        exec (.qsSignalAck q ext) s = .next (((s.dropReq n).raise (bits (x.word 0) 23 16)).consume q))
      ∧ (∀ c d, r.st = .sent c → isAmo r.acc = false → ext = some (.data d) → bits (x.word 0) 7 0 = 3 →
        exec (.qsSignalAck q ext) s = .next ((s.dropReq n).consume q))
      ∧ (∀ c, r.st = .answered (.err c) → exec (.qsSignalAck q ext) s = .next ((s.dropReq n).queueError q 0x06#8)))

/-- R383-R392: a move drains once every thread is quiescent, moves its slices and cores to the target, goes on, or times
out with the threads that were not quiescent named; its report is written. A context is held, saved and restored; a core
moves to a free one; a quiet forwarding entry goes.
What the manual leaves open there is the model's, log entries 36, 48 and 56. -/
def Obligations.MigrationEvents : Prop :=
  ∀ (s : State) (n : Nat) (x : Ctx), s.ctx n = some x → s.heel.freeze = .none →
    (∀ m, s.migration n = some m → m.phase = .park →
      ((∀ c ∈ x.cores, (s.core c).evicting = none ∧ ∀ p ∈ (s.core c).slots, p.2.quiescent = true) →
        exec (.migrationDrain n) s = .next (s.setMigration { m with phase := .drain }))
      ∧ (∀ c k t, c ∈ x.cores → (k, t) ∈ (s.core c).slots → t.run = .ready →
        exec (.migrationDrain n) s = .refused (.cannotOccur "MIGRATION_DRAIN")))
    ∧ (∀ m place, s.migration n = some m → (m.phase = .drain ∨ m.phase = .copy false) →
      (∀ c ∈ x.cores, s.drained c = true ∧ s.enginesStopped c = true) → s.mayVacate n x.cores = true →
      ((s.island m.target).st ≠ .active → (m.phase = .drain ∨ (s.island m.target).waking ≠ some .active) →
        exec (.migrationCopy n place) s = .next ((s.wakeIsland m.target .active).setMigration { m with phase := .copy false }))
      ∧ ((s.island m.target).st = .active → s.placeFits n m.target x place = true →
        let (i, t) := (s.dropParked x.cores).detach n x.cores
        let (img, u) := t.takeSlices x.slices
        let y := { x with cores := place.cores, slices := place.slices }
        let v := (((u.putSlices place.slices img.1 img.2).setCtx n { y with owners := y.entering }).attach n i place.cores).forward n
          (x.cores.zip place.cores)
        exec (.migrationCopy n place) s = .next (v.setMigration { m with phase := .copy true, bytes := 2 ^ 21 * x.slices.length })))
    ∧ (∀ m, s.migration n = some m → m.phase = .copy true → exec (.migrationResume n) s =
        .next (((s.setCtx n { x with migrating := false }).leaveMigpt x).setMigration { m with phase := .done 0, tend := s.time }))
    ∧ (∀ m, s.migration n = some m → (m.phase = .park ∨ m.phase = .drain) →
      ((s.time - m.tstart).toNat < m.timeout.toNat → exec (.migrationTimeout n) s = .refused (.cannotOccur "MIGRATION_TIMEOUT"))
      ∧ (m.timeout.toNat ≤ (s.time - m.tstart).toNat → (∀ c ∈ x.cores, ∀ p ∈ (s.core c).slots, p.2.quiescent = true) →
        exec (.migrationTimeout n) s = .next (((s.setCtx n { x with migrating := false }).leaveMigpt x).setMigration
          { m with phase := .done (if m.phase = .park then 1 else 2), tend := s.time, lag := 0 }))
      ∧ (m.timeout.toNat ≤ (s.time - m.tstart).toNat → ∃ lag : Word,
        (∀ v c, v < 64 → x.cores[v]? = some c → (lag.getLsbD v = true ↔ ∃ p ∈ (s.core c).slots, p.2.quiescent = false))
        ∧ (let loud := x.cores.flatMap fun c => ((s.core c).slots.filter fun p => !p.2.quiescent).map fun p => (c, p.1, p.2.pc)
          let told := loud.foldl (fun (st : State) p => st.notice p.1 p.2.1 n { code := 0x60#8, pc := p.2.2, rpc := p.2.2, type := 3 })
            ((s.setCtx n { x with migrating := false }).leaveMigpt x)
          exec (.migrationTimeout n) s = .next (told.setMigration
            { m with phase := .done (if m.phase = .park then 1 else 2), tend := s.time, lag := lag }))))
    ∧ (∀ m st k o d, s.migration n = some m → m.phase = .done st → m.queue = none → m.parked = none → m.sent = 0 →
      region x.tenant m.report = .sram k o → (s.reqs.find? fun r => r.2.src == .report n) = none → x.phys k o = some d →
      let words := [Word.ofNat st, m.tstart, m.tend, Word.ofNat m.bytes, m.lag, 0, 0, 0]
      let here := (2 ^ 17 - m.report.toNat % 2 ^ 17) / 8
      (s.fencedAt d = true → exec (.migrationReportWrite n) s = .next (s.endMigration m st false))
      ∧ (s.fencedAt d = false →
        (8 ≤ here → exec (.migrationReportWrite n) s = .next (State.endMigration
          { s with mem := Mem.writeBytes s.mem d (words.flatMap wordBytes) } m st true))
        ∧ (here < 8 → exec (.migrationReportWrite n) s = .next (State.setMigration
          { s with mem := Mem.writeBytes s.mem d ((words.take here).flatMap wordBytes) } { m with sent := here }))))
    ∧ (∀ out, n ≠ 0 → x.dead = false → x.saved = false → s.migratingCtx n = false → x.cores ≠ [] → s.noReservation x.cores = true →
      (((∃ c ∈ x.cores, (s.core c).held = false) ∨ x.saving = false) →
        exec (.contextSave n out) s = .next ((s.hold x.cores).setCtx n { x with saving := true }))
      ∧ (x.saving = true → (∀ c ∈ x.cores, (s.core c).held = true ∧ s.drained c = true ∧ s.enginesEmpty c = true) →
        let (i, t) := (s.dropParked x.cores).detach n x.cores
        let y := { x with saved := true, saving := false, package := i, cores := [], owners := [] }
        let (img, u) := t.takeSlices x.slices
        let done := if out then u.setCtx n { y with image := img.1, imageEmpties := img.2, out := true } else t.setCtx n y
        exec (.contextSave n out) s = .next (done.postFault { kind := 4, sub := 1, arg := 0, ctx := n, addr := 0, info := 0 })))
    ∧ (∀ place tags, x.saved = true → x.dead = false → (s.island (islandOf (place.cores.headD 0))).st = .active →
      s.placeFits n (islandOf (place.cores.headD 0)) x place = true →
      let y := { x with saved := false, package := {}, out := false, image := [], imageEmpties := [], cores := place.cores, slices := place.slices }
      let (img, t) := if x.out then ((x.image, x.imageEmpties), s) else s.takeSlices x.slices
      (x.sealed = true → tags = false → exec (.contextRestore n ⟨place, tags⟩) s = .next (s.killContext n 0x20#8))
      ∧ ((x.sealed = false ∨ tags = true) → exec (.contextRestore n ⟨place, tags⟩) s = .next
        (((t.putSlices place.slices img.1 img.2).setCtx n { y with owners := y.entering }).attach n x.package place.cores)))
    ∧ (∀ src dst, (s.core src).ctx = some n → s.ctxOf src = n →
      let pairs := s.movers src dst
      let cores := pairs.map fun p => p.1
      let (i, t) := s.detach n cores
      clusterOf src ≠ clusterOf dst → src % 8 = dst % 8 → islandOf src = islandOf dst → x.migrating = false → x.saving = false → s.coreOn dst = true →
      s.noReservation cores = true → s.mayVacate n cores = true → t.fits n i pairs = true →
      ((∃ c ∈ cores, (s.core c).held = false) → exec (.coreMigration src dst) s = .next (s.hold cores))
      ∧ ((∀ c ∈ cores, (s.core c).held = true ∧ s.drained c = true ∧ s.enginesStopped c = true) →
        let (j, u) := (s.dropParked cores).detach n cores
        let f := fun (c : Nat) => (pairs.lookup c).getD c
        let y := pairs.foldl (fun (y : Ctx) p => y.joining p.2) { x with cores := x.cores.map f, owners := Tab.mapV x.owners fun _ c => f c }
        exec (.coreMigration src dst) s = .next (((u.setCtx n y).attach n j (pairs.map fun p => p.2)).forward n pairs)))
    ∧ (∀ c dest since, (s.core c).forwards.lookup n = some (dest, since) →
      (1000 * s.mgmt.quiet ≤ (s.time - since).toNat → exec (.forwardQuietExpiry c n) s =
        .next (s.updCore c fun k => { k with forwards := k.forwards.filter fun e => e.1 != n }))
      ∧ ((s.time - since).toNat < 1000 * s.mgmt.quiet →
        exec (.forwardQuietExpiry c n) s = .refused (.cannotOccur "FORWARD_QUIET_EXPIRY")))
    ∧ (n ≠ 0 → x.dead = false ∨ s.engineBusy n = false → exec (.contextEnd n) s = .next (s.finishContext n x))

/-- R393-R396, R402, R403, R489, R490: an island goes idle, to RETAIN and OFF when no contract forbids it and nothing is
lost that a context holds, and wakes again; DRAM enters and leaves self-refresh; a clock changes within its range; a tick
adds 40 ns; energy accounts only grow; the PMC lowers the power of the quads in use; at the trip the burst island is lost.
What the manual leaves open there is the model's, log entries 11, 35 and 40. -/
def Obligations.PowerEvents : Prop :=
  ∀ (s : State),
    (s.burst = ⟨.active, none⟩ → s.forbidden 0 .idle = false → s.islandIdle 0 = true → 1000 * s.mgmt.bidle ≤ (s.time - s.burstUsed).toNat →
      ((∀ c ∈ s.islandCores 0, c.2.slots = [] ∧ c.2.pending = false) → exec .burstIdleEntry s = .next { s with burst := ⟨.idle, none⟩ })
      ∧ (∀ c ∈ s.islandCores 0, c.2.slots ≠ [] → exec .burstIdleEntry s = .refused (.cannotOccur "BURST_IDLE_ENTRY")))
    ∧ (s.burst = ⟨.idle, none⟩ → s.forbidden 0 .retain = false →
      ((∀ x ∈ s.ctxs, ∀ c ∈ x.2.cores, 512 ≤ c) → exec .burstRetainEntry s = .next { s.loseLogic.touchDram with burst := ⟨.retain, none⟩ })
      ∧ (∀ x ∈ s.ctxs, ∀ c ∈ x.2.cores, c < 512 → exec .burstRetainEntry s = .refused (.cannotOccur "BURST_RETAIN_ENTRY")))
    ∧ (s.burst = ⟨.retain, none⟩ → s.forbidden 0 .off = false → (∀ x ∈ s.ctxs, x.2.out = false → ∀ k ∈ x.2.slices, 128 ≤ k) →
      ∃ s', exec .burstOffEntry s = .next s' ∧ s'.burst = ⟨.off, none⟩ ∧ s'.cores = s.cores
        ∧ ∀ a, Mem.wf s.mem = true → s'.byte a = if a < 128 * 2 ^ 21 then 0 else s.byte a)
    ∧ ((s.time - s.burstUsed).toNat < 1000 * s.mgmt.bidle → exec .burstIdleEntry s = .refused (.cannotOccur "BURST_IDLE_ENTRY"))
    ∧ (s.watch = ⟨.active, none⟩ → s.forbidden 1 .idle = false → s.islandIdle 1 = true →
      (∀ c ∈ s.islandCores 1, s.isPlinth c.1 = true ∨ c.2.semDue = false ∧ (c.2.emptySlot.isSome = true → c.2.pending = false)
        ∧ ∀ p ∈ c.2.slots, p.2.asleep = true) →
      (1000 ≤ (s.time - s.watchUsed).toNat → exec .watchDozeEntry s = .next { s with watch := ⟨.idle, none⟩ })
      ∧ ((s.time - s.watchUsed).toNat < 1000 → exec .watchDozeEntry s = .refused (.cannotOccur "WATCH_DOZE_ENTRY")))
    ∧ (s.selfRefresh = false → (s.burst.st = .retain ∨ s.burst.st = .off) →
      (100000 ≤ (s.time - s.dramUsed).toNat → exec .dramSelfRefreshEntry s = .next { s with selfRefresh := true, dramExit := false })
      ∧ ((s.time - s.dramUsed).toNat < 100000 → exec .dramSelfRefreshEntry s = .refused (.cannotOccur "DRAM_SELF_REFRESH_ENTRY")))
    ∧ (s.selfRefresh = true → s.dramExit = true → exec .dramExitComplete s =
      .next (({ s with selfRefresh := false, dramExit := false, dramUsed := s.time } : State).wakeWatch.dueTriggers.dueMigrations.viewHeads))
    ∧ (∀ n target, n < 2 → (s.island n).waking = none → (s.boot.phase ≠ .maquette ∨ n ≠ 0) →
      ((stateOf target).depth < (s.island n).st.depth →
        exec (.islandWake n target) s = .next (s.setIsland n { s.island n with waking := some (stateOf target) }))
      ∧ ((s.island n).st.depth ≤ (stateOf target).depth → exec (.islandWake n target) s = .refused (.cannotOccur "ISLAND_WAKE")))
    ∧ (∀ n st, n < 2 → (s.island n).waking = some st → (∀ k, k < 16 → (s.trigger k).st ≠ .firing) →
      let on := (s.setIsland n ⟨st, none⟩).useIsland n
      let woken := on.reissueAll on.coreOn fun _ w => w.onIsland n st
      exec (.islandWakeComplete n) s = .next (woken.wakeAllSaved fun _ w => w.onIsland n st))
    ∧ (∀ c mhz, c < 512 → mhz % 25 = 0 → 500 ≤ mhz → mhz ≤ 1200 →
      let t : State := { s with requests := Tab.set s.requests c mhz }
      let q := quadOf c
      (∀ i, i < 4 → t.request (4 * q + i) ≤ t.requested q) ∧ (∃ i, i < 4 ∧ t.request (4 * q + i) = t.requested q)
      ∧ (t.requested q ≤ s.mhz q → exec (.clockChange c mhz) s = .next { t with clocks := Tab.set s.clocks q (t.requested q) })
      ∧ (s.mhz q < t.requested q → ∃ s', exec (.clockChange c mhz) s = .next s' ∧ s'.clocks = Tab.set s.clocks q (t.requested q)
        ∧ s'.requests = t.requests ∧ ∀ i, i < 4 → (s'.core (4 * q + i)).gated = false))
    ∧ (∀ c mhz, (512 ≤ c ∨ mhz < 500 ∨ 1200 < mhz ∨ mhz % 25 ≠ 0) →
      exec (.clockChange c mhz) s = .refused (.cannotOccur "CLOCK_CHANGE"))
    ∧ (∃ s', exec .energyUpdate s = .next s' ∧ s'.cores = s.cores ∧ s'.mem = s.mem ∧ s'.time = s.time
      ∧ ∀ n x, s.ctx n = some x → ∃ y, s'.ctx n = some y ∧ x.energy.toNat ≤ y.energy.toNat ∧ y = { x with energy := y.energy })
    ∧ exec .timeTick s = .next ({ s with time := s.time + 40 } : State).useIslands
    ∧ (s.islandBusy 0 = false → s.islandBusy 1 = false → exec .timeTick s = .next { s with time := s.time + 40 })
    ∧ exec .thermalThrottle s = .next ((s.cores.map fun c => quadOf c.1).eraseDups.foldl (fun s q => (s.lowerPower q).getD s) s)
    ∧ (∃ s', exec .thermalTrip s = .next s' ∧ s'.burst = ⟨.off, none⟩ ∧ s'.watch = s.watch ∧ s'.out.head? = some (.toSc 0x71#8 0)
      ∧ (∀ c, c < 512 → (s'.core c).slots = [] ∧ (s'.core c).ctx = none))

/-- R397-R399: an ARMED entry with a met condition fires, the lowest first; it is ARMED again after its cooldown; a write
of its first word that sets EN arms a sound entry.
What the manual leaves open there is the model's, log entry 36. -/
def Obligations.TriggerEvents : Prop :=
  ∀ (s : State) (e : Nat), e < 16 →
    let t := s.trigger e
    (∀ ext, t.en = true → t.st = .armed → bits t.w0 59 58 = 0 → s.firesFirst e = false →
      (bits t.value 31 0 ≤ ((s.core (bits t.src 9 0)).sem (bits t.src 17 10)).v →
        exec (.triggerEvaluate e ext) s = .next (s.fireTrigger e))
      ∧ (((s.core (bits t.src 9 0)).sem (bits t.src 17 10)).v < bits t.value 31 0 → exec (.triggerEvaluate e ext) s = .next s))
    ∧ (∀ ext w s1, t.en = true → t.st = .armed → bits t.w0 59 58 = 2 → s.qsRead (bits t.w0 55 48) t.src 8 ext = (.got [w], s1) →
      exec (.triggerEvaluate e ext) s = .next
        (if cmpHolds (cmpOf (bits t.w0 37 36)) (w &&& t.mask) t.value then s1.fireTrigger e else s1))
    ∧ (∀ ext, t.en = false → exec (.triggerEvaluate e ext) s = .refused (.cannotOccur "TRIGGER_EVALUATE"))
    ∧ (t.st = .cooling → (s.time.toNat < t.coolEnd.toNat → exec (.triggerCooldownExpiry e) s = .refused (.cannotOccur "TRIGGER_COOLDOWN_EXPIRY"))
      ∧ (t.coolEnd.toNat ≤ s.time.toNat → exec (.triggerCooldownExpiry e) s = .next (s.setTrigger e
        { t with st := if t.en then .armed else .off })))
    ∧ (∀ w v, w < 8 → s.boot.phase = .maquette → exec (.triggerEntryWrite e w v) s = .next s)
    ∧ (∀ v, s.boot.phase ≠ .maquette → v.getLsbD 63 = true → t.st = .off →
      (s.triggerOk { t with w0 := v } = true →
        exec (.triggerEntryWrite e 0 v) s = .next (s.setTrigger e { t with w0 := v, en := true, st := .armed }))
      ∧ (s.triggerOk { t with w0 := v } = false →
        exec (.triggerEntryWrite e 0 v) s = .next (s.setTrigger e { t with w0 := v, en := false, st := .off })))
    ∧ (∀ v, s.boot.phase ≠ .maquette → exec (.triggerEntryWrite e 1 v) s = .next (s.setTrigger e { t with src := v })
      ∧ exec (.triggerEntryWrite e 2 v) s = .next (s.setTrigger e { t with value := v })
      ∧ exec (.triggerEntryWrite e 3 v) s = .next (s.setTrigger e { t with mask := v })
      ∧ exec (.triggerEntryWrite e 4 v) s = .next (s.setTrigger e { t with timeout := v })
      ∧ exec (.triggerEntryWrite e 5 v) s = .next (s.setTrigger e { t with report := v }))

/-- R404-R407, R411, R412: HEEL starts a freeze that completes once every key store command has ended; RELEASE resumes
every context with a notice and its window, or kills each; a context that has not acknowledged when the window ends is
killed; a soft error is counted, a lasting one fences its unit.
The notice a release sends to each context has TYPE 4 and the heel's number in SEQ.
What the manual leaves open there is the model's, log entries 35, 47 and 53: among it what an ACKWIN outside its range does. -/
def Obligations.SafetyEvents : Prop :=
  ∀ (s : State),
    (s.heel.freeze = .none → exec .scHeel s =
      .next { s with heel := { s.heel with freeze := .freezing, count := s.heel.count + 1, since := s.time } })
    ∧ (s.heel.freeze ≠ .none → exec .scHeel s = .refused (.cannotOccur "SC_HEEL"))
    ∧ (s.heel.freeze = .freezing → (∀ k ∈ s.clusters, k.2.kse.running = none) → (∀ p ∈ s.frozenThreads, p.2.2.stopsLater = false) →
      ∃ s', exec .heelFreezeComplete s = .next s' ∧ s'.heel = { s.heel with freeze := .frozen } ∧ s'.time = s.time
        ∧ ((∀ p ∈ s.frozenThreads, ∀ w l n, p.2.2.run ≠ .parked w l n) → s'.cores = s.cores))
    ∧ (∀ p ∈ s.frozenThreads, p.2.2.stopsLater = true → exec .heelFreezeComplete s = .refused (.cannotOccur "HEEL_FREEZE_COMPLETE"))
    ∧ (∀ k ∈ s.clusters, k.2.kse.running ≠ none → exec .heelFreezeComplete s = .refused (.cannotOccur "HEEL_FREEZE_COMPLETE"))
    ∧ (s.heel.freeze = .frozen → ∃ s', exec .scReleaseResume s = .next s' ∧ s'.heel.freeze = .none
        ∧ s'.heel.deadline = some (s.time + Word.ofNat (1000000 * s.heel.ackwin))
        ∧ ∀ n ∈ s.heelContexts, ∃ x, s'.ctx n = some x ∧ (x.heelDue = some (s.heel.count.setWidth 16).toNat
          ∨ (x.dead = true ∧ ∃ p ∈ s.frozenThreads, p.2.2.refusalDue = true)))
    ∧ (s.heel.freeze = .frozen →
      let h := s.heel.count.setWidth 16
      let on : State := { s with
        heel := { s.heel with freeze := .none, deadline := some (s.time + Word.ofNat (1000000 * s.heel.ackwin)) }
        migrations := s.migrations.map fun m =>
          { m with timeout := Word.ofNat (min (m.timeout.toNat + (s.time - s.heel.since).toNat) (2 ^ 64 - 1)) } }
      let told := fun (st : State) (n : Nat) =>
        let u := st.updCtx n fun x => { x with heelDue := some h.toNat }
        u.notice (((u.ctx n).getD {}).cores.headD 0) 15 n { code := 0x71#8, pc := 0, rpc := 0, type := 4, seq := h }
      exec .scReleaseResume s = .next (on.lateStops.heelContexts.foldl told on.lateStops)
        ∧ ((∀ p ∈ s.frozenThreads, p.2.2.refusalDue = false) → on.lateStops = on))
    ∧ (s.heel.freeze = .frozen → exec .scReleaseKill s = .next (((s.ctxs.filter fun x => x.1 != 0 && !x.2.dead).map (·.1)).foldl
      (fun s n => s.killContext n 0x71#8) { s with heel := { s.heel with freeze := .none, deadline := none } }))
    ∧ (s.heel.freeze = .none → exec .scReleaseKill s = .refused (.cannotOccur "SC_RELEASE_KILL")
      ∧ exec .scReleaseResume s = .refused (.cannotOccur "SC_RELEASE_RESUME"))
    ∧ (∀ ms, exec (.scAckwin ms) s = .next { s with heel := { s.heel with ackwin := if ms < 1 then 1 else if 10000 < ms then 10000 else ms } })
    ∧ (∀ d, s.heel.deadline = some d → s.heel.freeze = .none → d.toNat ≤ s.time.toNat →
      exec .heelAckWindowExpiry s = .next (((s.ctxs.filter fun x => x.2.heelDue.isSome).map (·.1)).foldl
        (fun s n => s.killContext n 0x7F#8) { s with heel := { s.heel with deadline := none } }))
    ∧ (∀ d, s.heel.deadline = some d → s.time.toNat < d.toNat →
      exec .heelAckWindowExpiry s = .refused (.cannotOccur "HEEL_ACK_WINDOW_EXPIRY"))
    ∧ (∀ e : HwError, unitExists e.unit = true →
      (e.lasting = false → exec (.errorDetected e) s = .next (s.count (errorCounter e)))
      ∧ (e.lasting = true → exec (.errorDetected e) s = .next (s.fenceUnit e)))
    ∧ (∀ a two, ((s.fenceUnit ⟨.sram a, two, true⟩).fencedAt a = true))
    ∧ (∀ n, errorCounter ⟨.sram n, false, false⟩ = 0 ∧ errorCounter ⟨.sram n, true, false⟩ = 1 ∧ errorCounter ⟨.dram n, false, false⟩ = 2
      ∧ errorCounter ⟨.dram n, true, false⟩ = 3)
    ∧ exec .patrolScrub s = .next s

/-- R431-R433: a flit with a bad CRC or out of sequence is dropped and asked for again, a good one is taken and
acknowledged; an acknowledgement empties the replay buffer up to its number, a replay sends again, and the ninth takes the
link down, as do 10 µs of silence or lost training; a port comes up when the chip announced is the one its routing names, and
announces the own chip in its turn.
What the manual leaves open there is the model's, log entry 31. -/
def Obligations.LinkEvents : Prop :=
  ∀ (s : State) (n : Nat), n < 4 →
    let p := s.port n
    (∀ f : BitVec 256, p.up = true →
      let vc := (f.extractLsb' 36 2).toNat
      let head := f.extractLsb' 34 2 == 1#2
      let chip := if head then Config.packetChip (f.extractLsb' 48 208) else p.toward.getD vc s.ownChip
      (f.extractLsb' 0 32 ≠ flitCrc f → exec (.flitReceive n f) s = .next (s.control n (.replay p.rxSeq)))
      ∧ (f.extractLsb' 0 32 = flitCrc f → (f.extractLsb' 34 2 = 0#2 ∨ f.extractLsb' 34 2 = 3#2) →
        exec (.flitReceive n f) s = .next (s.repeatControl n))
      ∧ (f.extractLsb' 0 32 = flitCrc f → (f.extractLsb' 34 2 = 1#2 ∨ f.extractLsb' 34 2 = 2#2) →
        ((f.extractLsb' 38 10).toNat ≠ p.rxSeq → exec (.flitReceive n f) s = .next (s.control n (.replay p.rxSeq)))
        ∧ ((f.extractLsb' 38 10).toNat = p.rxSeq →
          (s.routing.getD chip 7 = 4 → ∃ s', exec (.flitReceive n f) s = .next s' ∧ (s'.port n).rxSeq = (p.rxSeq + 1) % 1024
            ∧ (s'.port n).rx = p.rx ++ [(vc, head, f.extractLsb' 48 208)]
            ∧ s'.out = .linkCtl n (.ack ((p.rxSeq + 1) % 1024)) :: s.out)
          ∧ (∀ q, s.routing.getD chip 7 ≠ 4 → s.portTo chip = some q → ∃ s', exec (.flitReceive n f) s = .next s' ∧ (s'.port n).rx = p.rx
            ∧ s'.out = .linkCtl n (.ack ((p.rxSeq + 1) % 1024)) :: .transit q vc head (f.extractLsb' 48 208) :: s.out)
          ∧ (s.routing.getD chip 7 ≠ 4 → s.portTo chip = none → head = true → ∃ s', exec (.flitReceive n f) s = .next s' ∧ (s'.port n).rx = p.rx
            ∧ s'.out = .linkCtl n (.ack ((p.rxSeq + 1) % 1024)) :: .refusedTransit chip vc :: s.out))))
    ∧ (∀ c, (s.control n c).out = .linkCtl n c :: s.out ∧ ((s.control n c).port n).ctl = some c
      ∧ ((s.control n c).repeatControl n).out = .linkCtl n c :: .linkCtl n c :: s.out)
    ∧ (p.up = false → ∀ f, exec (.flitReceive n f) s = .refused (.cannotOccur "FLIT_RECEIVE"))
    ∧ (p.up = true → p.waiting = [] →
      let t := s.settleControl n
      let p := t.port n
      (∀ a, (p.replay.findIdx? fun f => f.1 == a) = none → p.txSeq = a → (∀ f ∈ p.replay, f.2.2 = 0) →
        exec (.linkControlReceive n (.ack a)) s = .next (t.setPort n { p with replay := [], heard := s.time }))
      ∧ (∀ a i, (p.replay.findIdx? fun f => f.1 == a) = some i → (∀ f ∈ p.replay.take i, f.2.2 = 0) →
        exec (.linkControlReceive n (.ack a)) s = .next (t.setPort n { p with replay := p.replay.drop i, heard := s.time }))
      ∧ (∀ a i, (p.replay.findIdx? fun f => f.1 == a) = some i →
        ((∀ f ∈ p.replay.drop i, f.2.2 < 8) → exec (.linkControlReceive n (.replay a)) s = .next
          (t.setPort n { p with replay := p.replay.take i ++ (p.replay.drop i).map fun f => (f.1, f.2.1, f.2.2 + 1) }))
        ∧ (∀ f ∈ p.replay.drop i, 8 ≤ f.2.2 → exec (.linkControlReceive n (.replay a)) s = .next (t.linkDown n))))
    ∧ (p.up = true → p.replay ≠ [] →
      (10000 ≤ (s.time - p.heard).toNat → exec (.linkAckTimeout n) s = .next (s.linkDown n))
      ∧ ((s.time - p.heard).toNat < 10000 → exec (.linkAckTimeout n) s = .refused (.cannotOccur "LINK_ACK_TIMEOUT")))
    ∧ (p.up = true → exec (.linkTrainingLost n) s = .next (s.linkDown n))
    ∧ (p.up = true → ∀ a, exec (.linkControlReceive n (.announce a)) s = .next (s.settleControl n))
    ∧ (∀ a, p.up = false → p.fenced = false → s.knowsItself = true →
      (a < 16 → s.routing.getD a 7 = n → ∃ s', exec (.linkTrainingComplete n a) s = .next s' ∧ (s'.port n).up = true
        ∧ (s'.port n).neighbour = some a ∧ (s'.port n).txSeq = 0 ∧ (s'.port n).rxSeq = 0 ∧ .linkCtl n (.announce s.ownChip) ∈ s'.out)
      ∧ ((16 ≤ a ∨ s.routing.getD a 7 ≠ n) → ∃ s', exec (.linkTrainingComplete n a) s = .next s' ∧ (s'.port n).up = false
        ∧ (s'.port n).neighbour = some a ∧ .linkCtl n (.announce s.ownChip) ∈ s'.out))

/-- R426-R430, R482: a wake drops the requests parked on its page and they reissue; the read indexes of the two queues are
taken; a reply of the mediator answers the request of its tag, and one no request has is ignored; a moderated vector is
raised once its interval has passed; the logs of the two queues follow their rule. R480-R482: a command of the register
block takes effect on the PLBs, the caches or the tables, runs until it completes, and is ignored while one runs; an
invalidation completes once the stores checked before it have left.
What the manual leaves open there is the model's, log entries 12, 29 and 38. -/
def Obligations.HostEvents : Prop :=
  (∀ (s : State) (v : Word),
      (∀ size, size ≠ 8 → exec (.wake ⟨size, v⟩) s = .next s ∧ exec (.fqrd ⟨size, v⟩) s = .next s ∧ exec (.mqrd ⟨size, v⟩) s = .next s
        ∧ ∀ tag w, tag < 256 → w.size ≠ 8 → exec (.mreply tag w ⟨size, v⟩) s = .next s)
      ∧ (∀ off size, bar2Read off size = 0 ∧ (0x818 ≤ off → off < 0x1000 → bar2Ignores off size = true))
      ∧ ((bits v 16 1 ≠ 0 ∨ (v.getLsbD 0 = true ∧ bits v 24 17 ≠ 0)) → exec (.wake ⟨8, v⟩) s = .next s)
      ∧ (bits v 16 1 = 0 → (v.getLsbD 0 = true → bits v 24 17 = 0) → exec (.wake ⟨8, v⟩) s = .next
          (s.wakePages (v.toNat / 2 ^ 17 * 2 ^ 17) (if v.getLsbD 0 then 2 ^ 25 else 2 ^ 17)))
      ∧ (∃ s', exec (.fqrd ⟨8, v⟩) s = .next s' ∧ s'.host.fqrd = v.setWidth 32 ∧ s'.mem = s.mem ∧ s'.cores = s.cores)
      ∧ exec (.mqrd ⟨8, v⟩) s = .next { s with host := { s.host with mqrd := v.setWidth 32 } }
      ∧ (∀ tag, tag < 256 →
        let held : State := { s with host := { s.host with mreply := Tab.set s.host.mreply tag v } }
        (∀ size y, size ≠ 8 → exec (.mreply tag ⟨8, v⟩ ⟨size, y⟩) s = .next held)
        ∧ (∀ status, s.host.tags.get? tag = none → exec (.mreply tag ⟨8, v⟩ ⟨8, status⟩) s = .next held)
        ∧ (∀ m r c k a b w op g y, s.host.tags.get? tag = some m → s.req m.req = some r → r.src = .thread c k →
          r.acc = .amo op w g y a b →
          let answer := fun (v : Word) => Reply.val (if w then v.zeroExtend 512 else (v.setWidth 32).zeroExtend 512)
          let untagged := fun (t : State) => (({ t with host := { t.host with tags := Tab.erase t.host.tags tag } } : State).dropReq m.req)
          exec (.mreply tag ⟨8, v⟩ ⟨8, 0⟩) s = .next ((untagged held).deliverTo c k (answer v))
          ∧ (∀ status, status ≠ 0 → exec (.mreply tag ⟨8, v⟩ ⟨8, status⟩) s = .next ((untagged held).deliverTo c k (.err 0x20#8)))
          ∧ (∀ size z, size ≠ 8 → exec (.mreply tag ⟨size, z⟩ ⟨8, 0⟩) s =
            .next ((untagged s).deliverTo c k (answer (s.host.mreply.getD tag 0))))))
      ∧ (∀ i, (i = 256 ∨ i = 257) →
        let mod := if i = 256 then s.host.fqmod.toNat else s.host.mqmod.toNat
        (s.host.moderated.contains i = false → exec (.msixModerationExpiry i) s = .refused (.cannotOccur "MSIX_MODERATION_EXPIRY"))
        ∧ (s.host.moderated.contains i = true → 1000 * mod ≤ (s.time - s.host.raised.getD i 0).toNat →
          let h := { s.host with moderated := NatSet.erase s.host.moderated i, raised := Tab.set s.host.raised i s.time }
          exec (.msixModerationExpiry i) s = .next (({ s with host := h } : State).raise i)))
      ∧ (s.boot.phase = .maquette → exec (.fqlog v) s = .next s ∧ exec (.mqlog v) s = .next s)
      ∧ (s.boot.phase ≠ .maquette → ∃ s', exec (.fqlog v) s = .next s' ∧ s'.mem = s.mem ∧ s'.host.fqlog =
          (if bits v 4 0 = 0 then 0 else if s.host.fqlog ≠ 0 then s.host.fqlog else if 6 ≤ bits v 4 0 ∧ bits v 4 0 ≤ 16 then bits v 4 0 else 0))
      ∧ (s.boot.phase ≠ .maquette → ∃ s', exec (.mqlog v) s = .next s' ∧ s'.host.meden = v.getLsbD 8 ∧ s'.host.mqlog =
          (if bits v 4 0 = 0 then 0 else if s.host.mqlog ≠ 0 then s.host.mqlog else if 4 ≤ bits v 4 0 ∧ bits v 4 0 ≤ 12 then bits v 4 0 else 0)))
  ∧ (∀ (s : State) (cmd : Word),
      let run := fun (l : List (Nat × Nat × Nat)) (t : State) => ({ t with mgmt := { t.mgmt with busy := some cmd, waitsFor := l } } : State)
      let own := s.buffered fun n => n == bits cmd 7 0
      let all := s.buffered fun _ => true
      (s.boot.phase = .maquette → (bits cmd 63 56 = 1 → exec (.plbInvalidate cmd) s = .next s)
        ∧ (bits cmd 63 56 = 2 → exec (.translationInvalidate cmd) s = .next s) ∧ (bits cmd 63 56 = 3 → exec (.routeCacheDrop cmd) s = .next s)
        ∧ (bits cmd 63 56 = 4 → exec (.tableWrite cmd) s = .next s))
      ∧ (bits cmd 63 56 = 1 → s.boot.phase ≠ .maquette →
        (s.mgmt.busy ≠ none → exec (.plbInvalidate cmd) s = .next s)
        ∧ (s.mgmt.busy = none → cmd.getLsbD 8 = true → exec (.plbInvalidate cmd) s = .next (run own (s.plbDrop (bits cmd 7 0) none)))
        ∧ (s.mgmt.busy = none → cmd.getLsbD 8 = false → commandAddr true s.mgmt.param = true →
          exec (.plbInvalidate cmd) s = .next (run own (s.plbDrop (bits cmd 7 0) (some s.mgmt.param)))))
      ∧ (∀ c, (s.core c).ctx = some (bits cmd 7 0) → ((s.plbDrop (bits cmd 7 0) none).core c).plb = [])
      ∧ (∀ c, (s.core c).ctx ≠ some (bits cmd 7 0) → ((s.plbDrop (bits cmd 7 0) none).core c) = s.core c)
      ∧ (bits cmd 63 56 = 2 → s.boot.phase ≠ .maquette → s.mgmt.busy = none → commandAddr false s.mgmt.param = true →
          exec (.translationInvalidate cmd) s = .next (run all (s.scInval s.mgmt.param)))
      ∧ (bits cmd 63 56 = 3 → s.boot.phase ≠ .maquette → s.mgmt.busy = none → commandAddr false s.mgmt.param = true →
          exec (.routeCacheDrop cmd) s = .next (run [] { s with routes := s.routes.filter (· != routeRange s.mgmt.param) }))
      ∧ (bits cmd 63 56 = 4 → s.boot.phase ≠ .maquette → s.mgmt.busy = none → s.selfRefresh = false →
        (s.mgmt.param.toNat % 16 = 0 → exec (.tableWrite cmd) s = .next (run []
          ((s.write (dramBase + s.mgmt.param.toNat) 8 s.mgmt.entry0.toNat).write (dramBase + s.mgmt.param.toNat + 8) 8 s.mgmt.entry1.toNat)))
        ∧ (s.mgmt.param.toNat % 16 ≠ 0 → exec (.tableWrite cmd) s = .next s))
      ∧ (s.mgmt.busy = none → exec .mgmtCommandComplete s = .refused (.cannotOccur "MGMT_COMMAND_COMPLETE"))
      ∧ (s.mgmt.busy = some cmd → s.undrained s.mgmt.waitsFor = true →
        exec .mgmtCommandComplete s = .refused (.cannotOccur "MGMT_COMMAND_COMPLETE"))
      ∧ (s.mgmt.busy = some cmd → s.undrained s.mgmt.waitsFor = false → (bits cmd 63 56 ≠ 2 ∨ s.selfRefresh = false) →
        let t := if bits cmd 63 56 = 1 then s.emptyBufs fun n => n == bits cmd 7 0 else if bits cmd 63 56 = 2 then s.emptyBufs fun _ => true else s
        exec .mgmtCommandComplete s = .next { t with mgmt := { s.mgmt with busy := none, waitsFor := [] } })
      ∧ (∀ n, n < 256 → s.boot.phase ≠ .maquette → exec (.energyAccountLowRead n) s = .next ((s.updCtx n fun x => { x with energyLatch := some (x.energy.extractLsb' 32 32) }).emit
        (.readDone (0x8000 + 8 * n) 4
          ((s.updCtx n fun x => { x with energyLatch := some (x.energy.extractLsb' 32 32) }).regRead false (0x8000 + 8 * n) 4)))))

/-- R476, R478, R482: an access through the memory window reads or writes the context's memory, all ones or nothing where
there is none; a write of a storing register merges its bytes into the word. R468, R485: the flash port reads, programs
and erases, runs until it completes, ignores a command while one runs, and denies the ranges the host may not write; R477,
R486: an attestation of a live context ends with its report.
What the manual leaves open there is the model's, log entries 18, 38 and 57. -/
def Obligations.WindowFlashEvents : Prop :=
  (∀ (s : State) (off size : Nat),
      (winAccess off size = true → s.winSealed = false → s.boot.phase ≠ .maquette →
        let seen := fun (dram : Bool) (t : State) => if s.winWalks off || dram then t.touchDram else t
        (∀ d t ext, s.winPlace off = (.die d, t) → t.selfRefresh = false → t.fencedAt d = false →
          exec (.memoryWindowRead off size ext) s =
            .next (seen (decide (dramBase ≤ d)) (t.emit (.readDone off size (BitVec.ofNat 64 (t.read d size))))))
        ∧ (∀ t ext, s.winPlace off = (.nowhere, t) → t.selfRefresh = false →
          exec (.memoryWindowRead off size ext) s = .next (seen false ((t.count 10).emit (.readDone off size (allOnes size)))))
        ∧ (∀ h t l, s.winPlace off = (.out (.host h), t) → t.selfRefresh = false → ∃ s',
          exec (.memoryWindowRead off size (some (.data l))) s = .next s' ∧ s'.mem = t.mem ∧ s'.cores = t.cores
          ∧ s'.out.head? = some (.readDone off size ((ofBytes l).setWidth 64 &&& allOnes size)))
        ∧ (∀ d t v, s.winPlace off = (.die d, t) → t.selfRefresh = false → t.fencedAt d = false →
          ∃ s', exec (.memoryWindowWrite off size v) s = .next s' ∧ s'.mem = (t.writeEn d (v.zeroExtend 512) (Exec.firstBytes size)).mem
            ∧ s'.cores = t.cores)
        ∧ (∀ t v, s.winPlace off = (.nowhere, t) → t.selfRefresh = false →
          exec (.memoryWindowWrite off size v) s = .next (seen false (t.count 10)))
        ∧ (∀ t h v, s.winPlace off = (.out (.host h), t) → t.selfRefresh = false → ∃ s', exec (.memoryWindowWrite off size v) s = .next s' ∧ s'.mem = t.mem ∧ s'.cores = t.cores
          ∧ s'.out = ((runsOf (v.zeroExtend 512) (Exec.firstBytes size)).map fun r => Out.hostWrite (h + r.1) r.2 false).reverse ++ t.out))
      ∧ (winAccess off size = true → (s.winSealed = true ∨ s.boot.phase = .maquette) →
        ∀ v ext, exec (.memoryWindowWrite off size v) s = .next s ∧ exec (.memoryWindowRead off size ext) s = .next (s.emit (.readDone off size 0)))
      ∧ (∀ plinth v, (size = 1 ∨ size = 2 ∨ size = 4 ∨ size = 8) → off % size = 0 → regActs (off / 8 * 8) = false →
        exec (.registerWrite plinth off size v) s = .next (s.setReg plinth (off / 8 * 8) (s.mergeReg plinth off size v)))
      ∧ (∀ plinth v, off % 8 = 0 → s.mergeReg plinth off 8 v = v))
  ∧ (∀ (s : State),
      let m := s.mgmt
      (m.fbusy = true → exec .flashRead s = .next s ∧ exec .flashProg s = .next s ∧ exec .flashErase s = .next s)
      ∧ (m.fbusy = false → ∃ s', exec .flashRead s = .next s' ∧ s'.mgmt.fbusy = true ∧ s'.mgmt.denied = false ∧ s'.boot = s.boot
        ∧ s'.mgmt.fbuf = Mem.writeBytes m.fbuf 0 (s.flashBytes (m.faddr / 256 * 256) 256))
      ∧ (m.fbusy = false →
        (s.flashDenied (m.faddr / 256 * 256) 256 = true → exec .flashProg s = .next { s with mgmt := { m with fbusy := true, denied := true } })
        ∧ (s.flashDenied (m.faddr / 256 * 256) 256 = false → ∃ s', exec .flashProg s = .next s' ∧ s'.mgmt.fbusy = true
          ∧ s'.mgmt.denied = false ∧ s'.boot = (s.setFlash (m.faddr / 256 * 256) (Mem.bytes m.fbuf 0 256)).boot))
      ∧ (m.fbusy = false →
        (s.flashDenied (m.faddr / 65536 * 65536) 65536 = true → exec .flashErase s = .next { s with mgmt := { m with fbusy := true, denied := true } })
        ∧ (s.flashDenied (m.faddr / 65536 * 65536) 65536 = false → ∃ s', exec .flashErase s = .next s' ∧ s'.mgmt.fbusy = true
          ∧ ∀ c ∈ s'.boot.flash, c ∈ s.boot.flash ∧ ¬(m.faddr / 65536 * 65536 ≤ c.1 ∧ c.1 < m.faddr / 65536 * 65536 + 65536)))
      ∧ (∀ a n, 0 < n → a < 0x10404 → s.flashDenied a n = true)
      ∧ (m.fbusy = true → exec .flashOpComplete s = .next { s with mgmt := { m with fbusy := false } })
      ∧ (m.fbusy = false → exec .flashOpComplete s = .refused (.cannotOccur "FLASH_OP_COMPLETE"))
      ∧ ((m.abusy = true ∨ s.boot.phase = .maquette) → exec .attestGo s = .next s)
      ∧ (m.abusy = false → s.boot.phase ≠ .maquette → m.actx ≠ 0 → s.live m.actx = false → exec .attestGo s = .next { s with mgmt := { m with aerr := true } })
      ∧ (m.abusy = false → s.boot.phase ≠ .maquette → (m.actx = 0 ∨ s.live m.actx = true) → exec .attestGo s = .next { s with mgmt := { m with aerr := false, abusy := true } })
      ∧ (m.abusy = true → ∃ s', exec .attestReportDone s = .next s' ∧ s'.mgmt.abusy = false ∧ s'.boot = s.boot ∧ s'.mgmt.arep =
        Mem.writeBytes [] 0 (s.reportBody ++ leBytes 96 (Config.signature (Config.deviceKey Config.uniqueSecret) (Config.sha384 s.reportBody)).toNat)))

/-- R380, R473, R483: BOOTCTL acts under its key alone; a debugger attaches to a live context that is not sealed, steps
its threads, and decides its stops as a resume or a kill; a decision that names no stop sets the answer to 0. -/
def Obligations.DebugEvents : Prop :=
  ∀ (s : State) (v : Word),
    (bits v 63 48 ≠ 0xC0DE → exec (.bootctl v) s = .next s)
    ∧ (bits v 63 48 = 0xC0DE → v.getLsbD 0 = true → ∃ s', exec (.bootctl v) s = .next s' ∧ s'.cores = [] ∧ s'.ctxs = [(0, {})] ∧ s'.mem = []
      ∧ s'.boot.phase = .rom ∧ s'.boot.reasons = s.boot.reasons ∧ s'.time = 0)
    ∧ (bits v 63 48 = 0xC0DE → v.getLsbD 0 = false → v.getLsbD 1 = true → exec (.bootctl v) s = .next (s.setBootcnt 0))
    ∧ (s.boot.phase = .maquette → exec (.debugAttachSelect v) s = .next s ∧ exec (.debugStepMode v) s = .next s
      ∧ (bits v 1 0 = 1 → exec (.debugResume v) s = .next s) ∧ (bits v 1 0 = 2 → exec (.debugKill v) s = .next s))
    ∧ (s.boot.phase ≠ .maquette → s.mgmt.attach = false → ∀ x, s.ctx (bits v 7 0) = some x → v.getLsbD 8 = true → x.dead = false → exec (.debugAttachSelect v) s =
        .next { s with mgmt := { s.mgmt with dbgCtx := bits v 7 0, attach := !x.sealed } })
    ∧ (s.boot.phase ≠ .maquette → s.mgmt.attach = false → s.ctx (bits v 7 0) = none → exec (.debugAttachSelect v) s =
        .next { s with mgmt := { s.mgmt with dbgCtx := bits v 7 0, attach := false } })
    ∧ (s.mgmt.attach = false → exec (.debugStepMode v) s = .next s)
    ∧ (s.boot.phase ≠ .maquette → s.mgmt.attach = true → ∃ s', exec (.debugStepMode v) s = .next s' ∧ s'.mem = s.mem
      ∧ ∀ c k t, (s.core c).ctx = some s.mgmt.dbgCtx → s.thread c k = some t →
        s'.thread c k = some (if v.getLsbD 1 = true ∨ t.tid.toNat = bits v 63 32 then { t with step := v.getLsbD 0 } else t))
    ∧ (s.boot.phase ≠ .maquette → bits v 1 0 = 1 →
      (s.debugRecord v = none → exec (.debugResume v) s = .next { s with mgmt := { s.mgmt with dbgOk := false } })
      ∧ (∀ p, s.debugRecord v = some p → exec (.debugResume v) s =
        .next (State.dbgOk (s.debugResumeRec s.mgmt.dbgCtx p) true)))
    ∧ (s.boot.phase ≠ .maquette → bits v 1 0 = 2 →
      (s.debugRecord v = none → exec (.debugKill v) s = .next { s with mgmt := { s.mgmt with dbgOk := false } })
      ∧ (∀ p, s.debugRecord v = some p → exec (.debugKill v) s = .next (s.debugKillRec s.mgmt.dbgCtx p))
      ∧ (∀ p t x, s.debugRecord v = some p → s.ctx s.mgmt.dbgCtx = some x → x.saved = false → s.tagged p.2.core p.2.slot = some t →
        t.outst ≠ 0 → ∃ s', exec (.debugKill v) s = .next s'
        ∧ s'.mgmt.dbgOk = true ∧ s'.mgmt.dbgKill = s.mgmt.dbgKill ++ [(s.mgmt.dbgCtx, p.1)] ∧ s'.cores = s.cores
        ∧ (s'.reg false 0x10018).getLsbD 0 = true))

/-- R469-R473, R487, R488: the boot ROM counts the start and stops with a reason at the first step that fails, or starts
the plinth; the plinth brings up what it found, or fails with its reason; its watchdog is 2 s; the marker flips; power
loss loses all but the flash. R228, R402: a context is created on free cores and slices; an in-field test refreshes the
curve of a cluster no context holds.
What the manual leaves open there is the model's, log entries 9, 51 and 55. -/
def Obligations.BootEvents : Prop :=
  ∀ (s : State),
    (∀ rom, (s.boot.phase = .held ∨ s.boot.phase = .rom) →
      (3 ≤ s.bootcnt → exec (.powerOnReset rom) s = .next { s with boot := { s.boot with phase := .maquette } })
      ∧ (s.bootcnt < 3 →
        (rom.fuses = false → exec (.powerOnReset rom) s = .next ((s.setBootcnt (s.bootcnt + 1)).failStart 7))
        ∧ (rom.fuses = true → rom.armatureSig = false → exec (.powerOnReset rom) s = .next ((s.setBootcnt (s.bootcnt + 1)).failStart 1))
        ∧ (rom.fuses = true → rom.armatureSig = true → armatureOk rom.armature = false →
          exec (.powerOnReset rom) s = .next ((s.setBootcnt (s.bootcnt + 1)).failStart 6))
        ∧ (rom.fuses = true → rom.armatureSig = true → armatureOk rom.armature = true → rom.imageA = false → rom.imageB = false →
          exec (.powerOnReset rom) s = .next ((s.setBootcnt (s.bootcnt + 1)).failStart 2))
        ∧ (rom.fuses = true → rom.armatureSig = true → armatureOk rom.armature = true → rom.imageA = true → rom.imageB = true →
          let t := s.setBootcnt (s.bootcnt + 1)
          let started := { t.boot with
            phase := .plinth, wdog := s.time, slotB := t.activeB, armature := rom.armature, meas0 := t.measTable, meas1 := t.measImage t.activeB }
          exec (.powerOnReset rom) s = .next { t with boot := started })))
    ∧ (∀ n, (s.failStart n).boot.reasons = (s.boot.reasons <<< 8) ||| BitVec.ofNat 24 n ∧ (s.failStart n).boot.phase = .rom
      ∧ (s.failStart n).boot.flash = s.boot.flash ∧ (s.failStart n).time = 0 ∧ (s.failStart n).cores = [])
    ∧ (s.boot.phase = .plinth → ∀ f, (f.dram = false → exec (.plinthBringup f) s = .next (s.failStart 3))
      ∧ (f.dram = true → f.host = false → exec (.plinthBringup f) s = .next (s.failStart 4))
      ∧ (f.dram = true → f.host = true → let t := (((List.range 4).zip f.ports).foldl (fun (s : State) p => s.trainPort p) (s.loadTables f)).setBootcnt 0
        exec (.plinthBringup f) s = .next { t with boot := { t.boot with phase := .done } }))
    ∧ (∀ f, (s.loadTables f).qs.qtbase = f.qtbase ∧ (s.loadTables f).heel.dumpbase = f.dumpbase ∧ (s.loadTables f).host.atomicEnable = f.atomicEnable)
    ∧ (s.boot.phase = .plinth → (2000000000 ≤ (s.time - s.boot.wdog).toNat → exec .plinthWatchdogExpiry s = .next (s.failStart 5))
      ∧ ((s.time - s.boot.wdog).toNat < 2000000000 →
        exec .plinthWatchdogExpiry s = .refused (.cannotOccur "PLINTH_WATCHDOG_EXPIRY")))
    ∧ (s.boot.phase = .done → ∀ b,
      exec (.markerFlip b 1024) s = .next (s.setFlash 0x10000 (markerRecord b ++ markerRecord b))
      ∧ (∀ n, n < 1024 → exec (.markerFlip b n) s = .next (s.setFlash 0x10000 ((markerRecord b ++ markerRecord b).take n)).losePower))
    ∧ (∃ s', exec .powerLoss s = .next s' ∧ s'.boot.flash = s.boot.flash ∧ s'.boot.phase = .held ∧ s'.time = 0 ∧ s'.mem = [] ∧ s'.cores = []
      ∧ s'.ctxs = [(0, {})])
    ∧ (∀ p, s.boot.phase = .done →
      (s.specOk p = true → ∃ s', exec (.contextCreate p) s = .next s' ∧ (∃ x, s'.ctx p.num = some x ∧ x.cores = p.place.cores
        ∧ x.slices = p.place.slices ∧ x.tenant = p.tenant ∧ x.sealed = p.sealedCtx)
        ∧ (∀ c ∈ p.place.cores, (s'.core c).ctx = some p.num ∧ (s'.core c).slots = []) ∧ ∀ f ∈ p.frames, s'.keyIndex.get? f = some p.num)
      ∧ (s.specOk p = false → exec (.contextCreate p) s = .refused (.cannotOccur "CONTEXT_CREATE")))
    ∧ (∀ n curve, n < 64 → curve.length = 8 → (∀ f ∈ curve, 500 ≤ f.1 ∧ f.1 ≤ 1200) → (∀ i, i < 8 → (s.core (8 * n + i)).ctx = none) →
      ∃ s', exec (.inFieldTest n curve) s = .next s' ∧ s'.boot.armature.curves[n]? = some curve
        ∧ s'.boot.armature.ranks = s.boot.armature.ranks ∧ s'.cores = s.cores ∧ s'.mem = s.mem)

/-! ### The machine -/

/-- R28: memory is byte-addressed and little-endian: a value of n bytes stored at an address places its bits 8j + 7 to 8j
in the byte at that address + j, every other byte stays, and the basic word has 64 bits. -/
def Obligations.LittleEndian : Prop :=
  ∀ (s : State) (a n v : Nat), Mem.wf s.mem = true →
    Mem.wf (s.write a n v).mem = true
    ∧ (∀ j, j < n → (s.write a n v).byte (a + j) = BitVec.ofNat 8 (v / 2 ^ (8 * j)))
    ∧ (∀ b, (b < a ∨ a + n ≤ b) → (s.write a n v).byte b = s.byte b)
    ∧ (s.write a n v).read a n = v % 2 ^ (8 * n)
    ∧ (∀ b (j : Fin 8), (s.word b).extractLsb' (8 * j.val) 8 = s.byte (b + j.val))

/-- R39, R40, R42, R43: the 64 bytes of a line are 32 parcels, each with its low byte first; a header whose N is 0 or 31,
or whose bits 10 to 0 are not all zero, is a bad line; the tail of head i begins at parcel 32 less the lengths of the
tails up to its own, and its parcels are the value's bits from the lowest. -/
def Obligations.LineLayout : Prop :=
  (∀ (s : State) (a p : Nat), Mem.wf s.mem = true → p < 32 →
    Exec.parcel (BitVec.ofNat 512 (s.read a 64)) p = s.byte (a + 2 * p + 1) ++ s.byte (a + 2 * p))
  ∧ (∀ b : Vec,
    let n := ((Exec.parcel b 0).extractLsb' 11 5).toNat
    (n = 0 ∨ n = 31 ∨ (Exec.parcel b 0).extractLsb' 0 11 ≠ 0) → Exec.lineOk b = false)
  ∧ (∀ (b : Vec) (i : Nat), Exec.lineOk b = true → 1 ≤ i → i ≤ Exec.headCount b →
    let start := 32 - ((List.range i).map fun j => Exec.tailLen (Exec.parcel b (j + 1))).sum
    let tail := (Exec.headTail b i).2
    (Exec.headTail b i).1 = Exec.parcel b i
    ∧ (∀ j, j < Exec.tailLen (Exec.parcel b i) → tail.extractLsb' (16 * j) 16 = Exec.parcel b (start + j))
    ∧ (∀ j, Exec.tailLen (Exec.parcel b i) ≤ j → j < 4 → tail.extractLsb' (16 * j) 16 = 0))

/-- R15: p0 reads 1 and its writes are discarded; a guard of 1 to 7 reads p1 to p7, and a guard of 0 is always true. -/
def Obligations.PredicateZero : Prop :=
  ∀ (t : Thread) (w : BitVec 8) (b : Bool) (p q : PReg),
    Exec.setPred w 0 b = w ∧ Exec.pget t 0 = true ∧ (p ≠ 0 → Exec.pget t p = t.pred.getLsbD p.toNat)
    ∧ (p ≠ 0 → (Exec.setPred w p b).getLsbD p.toNat = b) ∧ (p ≠ q → (Exec.setPred w p b).getLsbD q.toNat = w.getLsbD q.toNat)

/-- R129, R42-R44, R58: words written out from the spec: nop, brk, trap and eret, and the example line of R44, whose heads
and tails decode to li, add, loop and nop, and whose header with bit 0 set is a bad line; major 0, an unassigned major and
a zero head are no instruction. -/
def Obligations.DecodedWords : Prop :=
  let line : Vec := BitVec.ofNat 512 (0x2000 + 0x1021 * 2 ^ 16 + 0x0841 * 2 ^ 32 + 0x50A2 * 2 ^ 48 + 0x0400 * 2 ^ 64
    + 0x0001 * 2 ^ (16 * 28) + 0x1040 * 2 ^ (16 * 30) + 0x0064 * 2 ^ (16 * 31))
  let head := fun (i : Nat) => decodeHead (Exec.headTail line i).1 (Exec.headTail line i).2
  decodeHead 0x0400#16 0 = .ok (.nop 0) ∧ decodeHead 0x0420#16 0 = .ok (.brk 0) ∧ decodeHead 0x5420#16 0 = .ok (.eret 0)
  ∧ (∀ code : BitVec 16, decodeHead 0x0421#16 (code.zeroExtend 64) = .ok (.brkCode 0 code)
    ∧ decodeHead 0x5401#16 (code.zeroExtend 64) = .ok (.trap 0 code))
  ∧ Exec.lineOk line = true ∧ Exec.lineOk (line ||| 1) = false ∧ Exec.headCount line = 4
  ∧ head 1 = .ok (.li 0 (.g 1) 100) ∧ head 2 = .ok (.add 0 (.g 2) (.g 2) (.g 1)) ∧ head 3 = .ok (.loop 0 (.g 5) 0 1)
  ∧ head 4 = .ok (.nop 0)
  ∧ decodeHead 0 0 = .error .illegal ∧ decodeHead 0x3800#16 0 = .error .illegal ∧ decodeHead 0x0402#16 0 = .error .malformed
  ∧ decodeTableWord 16 0x0400 = some (.nop 0) ∧ decodeTableWord 16 0 = none

/-- R130, R58: nop completes with no effect but the advance of the pc; a head that is no instruction traps when it is
reached, with 0x01 or 0x02 as the earliest failing step says. -/
def Obligations.NopAndBadHeads : Prop :=
  (∀ (s : State) (c k : Nat) (t : Thread) (g : Guard), Issues s c k t g →
    Completes (.nop g) s c k (s, t) (nextHead t) 1)
  ∧ (∀ (s : State) (c k : Nat) (t : Thread) (e : DecodeError), s.thread c k = some t → t.refusal = none → t.poisoned = false →
    t.decoded = some (.error e) → s.runAt c k = .next (({ s with cur := some (c, k) } : State).takeTrap c k
      { code := (match e with | .illegal => 0x01#8 | .malformed => 0x02#8), pc := t.pc, rpc := t.pc }))

/-- R32, R43, R162: a step whose move is a cycle of a core, in which slot cycle mod 16 holds a READY thread that stands at
a head that decodes to an instruction, is exec of that instruction, with the allocator's work and the end of the cycle
behind it. The agenda is the model's own (log entry 1). -/
def Obligations.StepRunsDecoded : Prop :=
  ∀ (s : State) (c : Nat) (rest : List Move) (t : Thread) (h : BitVec 16) (tail : Word) (i : Instr) (l : Line),
    let k := (s.core c).cycle % 16
    s.agenda = .cycle c :: rest → s.boot.phase ≠ .held → k ≠ 15 → s.thread c k = some t → (s.core c).evicting ≠ some k → s.coreOn c = true →
    t.run = .ready → t.readyAt ≤ (s.core c).cycle → t.refusal = none → t.poisoned = false →
    t.line = some l → l.num = Exec.lineNum t.pc → Exec.headTail l.bytes (Exec.headIdx t.pc) = (h, tail) → decodeHead h tail = .ok i →
    step s = match exec i { s with agenda := rest, cur := some (c, k) } with
      | .next u => .next ((u.allocate c).endCycle c)
      | o => o

/-- R41-R58: for every instruction whose operands its encoding admits, with every operand at every value, decoding its
words gives the instruction back. -/
def Obligations.DecodeEncode : Prop :=
  ∀ (i : Instr) (h : BitVec 16) (t : Word), i.wf = true → encode i = some (h, t) → decodeHead h t = .ok i

/-- The form of memory (log entry 4) is kept by every step from every state that has it: cells rising with no zero byte
listed, empty words rising. -/
def Obligations.StepKeepsForm : Prop :=
  ∀ s s' : State, s.Inv → step s = .next s' → s'.Inv

/-- R161, R393, R404, R469, R490: after reset memory has its form, no core belongs to a context, nothing is under way,
time is 0, the boot ROM is to run, no heel is in progress, and the first step only plans the next round (log entries 1, 2, 9 and
11 name what the model chose). -/
def Obligations.ResetState : Prop :=
  State.reset.Inv ∧ State.reset.cores = [] ∧ State.reset.mem = [] ∧ State.reset.reqs = [] ∧ State.reset.messages = []
  ∧ State.reset.time = 0 ∧ State.reset.boot.phase = .rom ∧ State.reset.heel.freeze = .none ∧ State.reset.heel.count = 0
  ∧ State.reset.selfRefresh = false ∧ (∀ n, (State.reset.trigger n).en = false) ∧ (∀ q, (State.reset.queue q).en = false)
  ∧ (∀ n, (State.reset.port n).up = false) ∧ ∃ s', step State.reset = .next s' ∧ s'.mem = [] ∧ s'.cores = []
end

