-- ==== Sys2Proof/Laws/State.lean ====
section
/-! SUPPORT. Tables, and every field of State through every named update of it. -/

namespace Sys2Proof.Machine

/-! ### Tables -/

namespace Tab
variable {α : Type}

@[simp] theorem get?_set_same (t : Tab α) (n : Nat) (x : α) : get? (set t n x) n = some x := by
  induction t with
  | nil => simp [set, get?]
  | cons p t ih =>
    obtain ⟨k, v⟩ := p
    unfold set
    split
    · simp [get?]
    · split
      · simp [get?]
      · simp only [get?]
        rw [if_neg (by omega), ih]

theorem get?_set_ne (t : Tab α) {n m : Nat} (x : α) (h : m ≠ n) : get? (set t n x) m = get? t m := by
  induction t with
  | nil => simp [set, get?, Ne.symm h]
  | cons p t ih =>
    obtain ⟨k, v⟩ := p
    unfold set
    split
    · simp [get?, Ne.symm h]
    · split
      · subst_vars
        simp [get?, Ne.symm h]
      · simp only [get?]
        rw [ih]

@[simp] theorem set_set (t : Tab α) (n : Nat) (x y : α) : set (set t n x) n y = set t n y := by
  induction t with
  | nil => simp [set]
  | cons p t ih =>
    obtain ⟨k, v⟩ := p
    by_cases h : n < k
    · simp [set, h]
    · by_cases h2 : n = k
      · simp [set, h2]
      · simp [set, h, h2, ih]

@[simp] theorem getD_set_same (t : Tab α) (n : Nat) (x d : α) : getD (set t n x) n d = x := by simp [getD]
theorem getD_set_ne (t : Tab α) {n m : Nat} (x d : α) (h : m ≠ n) : getD (set t n x) m d = getD t m d := by
  simp [getD, get?_set_ne t x h]

theorem get?_erase_ne (t : Tab α) {n m : Nat} (h : m ≠ n) : get? (erase t n) m = get? t m := by
  induction t with
  | nil => rfl
  | cons p t ih =>
    obtain ⟨k, v⟩ := p
    unfold erase
    split
    · subst_vars
      simp [get?, Ne.symm h]
    · simp only [get?]
      rw [ih]

@[simp] theorem get?_mapV (t : Tab α) (f : Nat → α → α) (n : Nat) : get? (mapV t f) n = (get? t n).map (f n) := by
  induction t with
  | nil => rfl
  | cons p t ih =>
    obtain ⟨k, v⟩ := p
    simp only [mapV, get?]
    split
    · subst_vars
      rfl
    · exact ih

end Tab

/-! ### Cores, threads, clusters and contexts -/

namespace State
variable (s : State)

@[simp] theorem core_setCore_same (c : Nat) (k : Core) : (s.setCore c k).core c = k := by simp [State.core, State.setCore]
theorem core_setCore_ne {c d : Nat} (k : Core) (h : d ≠ c) : (s.setCore c k).core d = s.core d := by
  simp [State.core, State.setCore, Tab.getD_set_ne _ _ _ h]
@[simp] theorem core_updCore_same (c : Nat) (f : Core → Core) : (s.updCore c f).core c = f (s.core c) := by simp [State.updCore]
theorem core_updCore_ne {c d : Nat} (f : Core → Core) (h : d ≠ c) : (s.updCore c f).core d = s.core d := by
  simp [State.updCore, core_setCore_ne s _ h]
@[simp] theorem core_setThread (c k : Nat) (t : Thread) :
    (s.setThread c k t).core c = { s.core c with slots := Tab.set (s.core c).slots k t } := by simp [State.setThread]
theorem core_setThread_ne {c d : Nat} (k : Nat) (t : Thread) (h : d ≠ c) : (s.setThread c k t).core d = s.core d := by
  simp [State.setThread, core_updCore_ne s _ h]
@[simp] theorem thread_setThread_same (c k : Nat) (t : Thread) : (s.setThread c k t).thread c k = some t := by simp [State.thread]
theorem thread_setThread_slot {c k m : Nat} (t : Thread) (h : m ≠ k) : (s.setThread c k t).thread c m = s.thread c m := by
  simp [State.thread, Tab.get?_set_ne _ _ h]
theorem thread_setThread_core {c d : Nat} (k m : Nat) (t : Thread) (h : d ≠ c) : (s.setThread c k t).thread d m = s.thread d m := by
  simp [State.thread, core_setThread_ne s k t h]
theorem updThread_some {c k : Nat} {t : Thread} (f : Thread → Thread) (h : s.thread c k = some t) :
    s.updThread c k f = s.setThread c k (f t) := by simp [State.updThread, h]
@[simp] theorem setCore_setCore (c : Nat) (k m : Core) : (s.setCore c k).setCore c m = s.setCore c m := by simp [State.setCore]
@[simp] theorem setThread_setThread (c k : Nat) (t u : Thread) : (s.setThread c k t).setThread c k u = s.setThread c k u := by
  simp [State.setThread, State.updCore]

@[simp] theorem cluster_setCluster_same (c : Nat) (k : Cluster) : (s.setCluster c k).cluster c = k := by
  simp [State.cluster, State.setCluster]
theorem cluster_setCluster_ne {c d : Nat} (k : Cluster) (h : d ≠ c) : (s.setCluster c k).cluster d = s.cluster d := by
  simp [State.cluster, State.setCluster, Tab.getD_set_ne _ _ _ h]
@[simp] theorem ctx_setCtx_same (n : Nat) (x : Ctx) : (s.setCtx n x).ctx n = some x := by simp [State.ctx, State.setCtx]
theorem ctx_setCtx_ne {n m : Nat} (x : Ctx) (h : m ≠ n) : (s.setCtx n x).ctx m = s.ctx m := by
  simp [State.ctx, State.setCtx, Tab.get?_set_ne _ _ h]


/-! `setCore` leaves every other field as it is. -/

@[simp] theorem setCore_agenda (c : Nat) (k : Core) : (s.setCore c k).agenda = s.agenda := rfl
@[simp] theorem setCore_turn (c : Nat) (k : Core) : (s.setCore c k).turn = s.turn := rfl
@[simp] theorem setCore_cur (c : Nat) (k : Core) : (s.setCore c k).cur = s.cur := rfl
@[simp] theorem setCore_freeCtr (c : Nat) (k : Core) : (s.setCore c k).freeCtr = s.freeCtr := rfl
@[simp] theorem setCore_time (c : Nat) (k : Core) : (s.setCore c k).time = s.time := rfl
@[simp] theorem setCore_mem (c : Nat) (k : Core) : (s.setCore c k).mem = s.mem := rfl
@[simp] theorem setCore_empties (c : Nat) (k : Core) : (s.setCore c k).empties = s.empties := rfl
@[simp] theorem setCore_keyIndex (c : Nat) (k : Core) : (s.setCore c k).keyIndex = s.keyIndex := rfl
@[simp] theorem setCore_fencedBlocks (c : Nat) (k : Core) : (s.setCore c k).fencedBlocks = s.fencedBlocks := rfl
@[simp] theorem setCore_clusters (c : Nat) (k : Core) : (s.setCore c k).clusters = s.clusters := rfl
@[simp] theorem setCore_lz (c : Nat) (k : Core) : (s.setCore c k).lz = s.lz := rfl
@[simp] theorem setCore_ctxs (c : Nat) (k : Core) : (s.setCore c k).ctxs = s.ctxs := rfl
@[simp] theorem setCore_roots (c : Nat) (k : Core) : (s.setCore c k).roots = s.roots := rfl
@[simp] theorem setCore_tcache (c : Nat) (k : Core) : (s.setCore c k).tcache = s.tcache := rfl
@[simp] theorem setCore_sysCache (c : Nat) (k : Core) : (s.setCore c k).sysCache = s.sysCache := rfl
@[simp] theorem setCore_posted (c : Nat) (k : Core) : (s.setCore c k).posted = s.posted := rfl
@[simp] theorem setCore_reqs (c : Nat) (k : Core) : (s.setCore c k).reqs = s.reqs := rfl
@[simp] theorem setCore_nextReq (c : Nat) (k : Core) : (s.setCore c k).nextReq = s.nextReq := rfl
@[simp] theorem setCore_inflight (c : Nat) (k : Core) : (s.setCore c k).inflight = s.inflight := rfl
@[simp] theorem setCore_localInv (c : Nat) (k : Core) : (s.setCore c k).localInv = s.localInv := rfl
@[simp] theorem setCore_messages (c : Nat) (k : Core) : (s.setCore c k).messages = s.messages := rfl
@[simp] theorem setCore_routes (c : Nat) (k : Core) : (s.setCore c k).routes = s.routes := rfl
@[simp] theorem setCore_qs (c : Nat) (k : Core) : (s.setCore c k).qs = s.qs := rfl
@[simp] theorem setCore_burst (c : Nat) (k : Core) : (s.setCore c k).burst = s.burst := rfl
@[simp] theorem setCore_watch (c : Nat) (k : Core) : (s.setCore c k).watch = s.watch := rfl
@[simp] theorem setCore_selfRefresh (c : Nat) (k : Core) : (s.setCore c k).selfRefresh = s.selfRefresh := rfl
@[simp] theorem setCore_dramExit (c : Nat) (k : Core) : (s.setCore c k).dramExit = s.dramExit := rfl
@[simp] theorem setCore_burstUsed (c : Nat) (k : Core) : (s.setCore c k).burstUsed = s.burstUsed := rfl
@[simp] theorem setCore_watchUsed (c : Nat) (k : Core) : (s.setCore c k).watchUsed = s.watchUsed := rfl
@[simp] theorem setCore_dramUsed (c : Nat) (k : Core) : (s.setCore c k).dramUsed = s.dramUsed := rfl
@[simp] theorem setCore_clocks (c : Nat) (k : Core) : (s.setCore c k).clocks = s.clocks := rfl
@[simp] theorem setCore_requests (c : Nat) (k : Core) : (s.setCore c k).requests = s.requests := rfl
@[simp] theorem setCore_triggers (c : Nat) (k : Core) : (s.setCore c k).triggers = s.triggers := rfl
@[simp] theorem setCore_migrations (c : Nat) (k : Core) : (s.setCore c k).migrations = s.migrations := rfl
@[simp] theorem setCore_heel (c : Nat) (k : Core) : (s.setCore c k).heel = s.heel := rfl
@[simp] theorem setCore_routing (c : Nat) (k : Core) : (s.setCore c k).routing = s.routing := rfl
@[simp] theorem setCore_ports (c : Nat) (k : Core) : (s.setCore c k).ports = s.ports := rfl
@[simp] theorem setCore_host (c : Nat) (k : Core) : (s.setCore c k).host = s.host := rfl
@[simp] theorem setCore_mgmt (c : Nat) (k : Core) : (s.setCore c k).mgmt = s.mgmt := rfl
@[simp] theorem setCore_boot (c : Nat) (k : Core) : (s.setCore c k).boot = s.boot := rfl
@[simp] theorem setCore_out (c : Nat) (k : Core) : (s.setCore c k).out = s.out := rfl

/-! `updCore` leaves every other field as it is. -/

@[simp] theorem updCore_agenda (c : Nat) (f : Core → Core) : (s.updCore c f).agenda = s.agenda := rfl
@[simp] theorem updCore_turn (c : Nat) (f : Core → Core) : (s.updCore c f).turn = s.turn := rfl
@[simp] theorem updCore_cur (c : Nat) (f : Core → Core) : (s.updCore c f).cur = s.cur := rfl
@[simp] theorem updCore_freeCtr (c : Nat) (f : Core → Core) : (s.updCore c f).freeCtr = s.freeCtr := rfl
@[simp] theorem updCore_time (c : Nat) (f : Core → Core) : (s.updCore c f).time = s.time := rfl
@[simp] theorem updCore_mem (c : Nat) (f : Core → Core) : (s.updCore c f).mem = s.mem := rfl
@[simp] theorem updCore_empties (c : Nat) (f : Core → Core) : (s.updCore c f).empties = s.empties := rfl
@[simp] theorem updCore_keyIndex (c : Nat) (f : Core → Core) : (s.updCore c f).keyIndex = s.keyIndex := rfl
@[simp] theorem updCore_fencedBlocks (c : Nat) (f : Core → Core) : (s.updCore c f).fencedBlocks = s.fencedBlocks := rfl
@[simp] theorem updCore_clusters (c : Nat) (f : Core → Core) : (s.updCore c f).clusters = s.clusters := rfl
@[simp] theorem updCore_lz (c : Nat) (f : Core → Core) : (s.updCore c f).lz = s.lz := rfl
@[simp] theorem updCore_ctxs (c : Nat) (f : Core → Core) : (s.updCore c f).ctxs = s.ctxs := rfl
@[simp] theorem updCore_roots (c : Nat) (f : Core → Core) : (s.updCore c f).roots = s.roots := rfl
@[simp] theorem updCore_tcache (c : Nat) (f : Core → Core) : (s.updCore c f).tcache = s.tcache := rfl
@[simp] theorem updCore_sysCache (c : Nat) (f : Core → Core) : (s.updCore c f).sysCache = s.sysCache := rfl
@[simp] theorem updCore_posted (c : Nat) (f : Core → Core) : (s.updCore c f).posted = s.posted := rfl
@[simp] theorem updCore_reqs (c : Nat) (f : Core → Core) : (s.updCore c f).reqs = s.reqs := rfl
@[simp] theorem updCore_nextReq (c : Nat) (f : Core → Core) : (s.updCore c f).nextReq = s.nextReq := rfl
@[simp] theorem updCore_inflight (c : Nat) (f : Core → Core) : (s.updCore c f).inflight = s.inflight := rfl
@[simp] theorem updCore_localInv (c : Nat) (f : Core → Core) : (s.updCore c f).localInv = s.localInv := rfl
@[simp] theorem updCore_messages (c : Nat) (f : Core → Core) : (s.updCore c f).messages = s.messages := rfl
@[simp] theorem updCore_routes (c : Nat) (f : Core → Core) : (s.updCore c f).routes = s.routes := rfl
@[simp] theorem updCore_qs (c : Nat) (f : Core → Core) : (s.updCore c f).qs = s.qs := rfl
@[simp] theorem updCore_burst (c : Nat) (f : Core → Core) : (s.updCore c f).burst = s.burst := rfl
@[simp] theorem updCore_watch (c : Nat) (f : Core → Core) : (s.updCore c f).watch = s.watch := rfl
@[simp] theorem updCore_selfRefresh (c : Nat) (f : Core → Core) : (s.updCore c f).selfRefresh = s.selfRefresh := rfl
@[simp] theorem updCore_dramExit (c : Nat) (f : Core → Core) : (s.updCore c f).dramExit = s.dramExit := rfl
@[simp] theorem updCore_burstUsed (c : Nat) (f : Core → Core) : (s.updCore c f).burstUsed = s.burstUsed := rfl
@[simp] theorem updCore_watchUsed (c : Nat) (f : Core → Core) : (s.updCore c f).watchUsed = s.watchUsed := rfl
@[simp] theorem updCore_dramUsed (c : Nat) (f : Core → Core) : (s.updCore c f).dramUsed = s.dramUsed := rfl
@[simp] theorem updCore_clocks (c : Nat) (f : Core → Core) : (s.updCore c f).clocks = s.clocks := rfl
@[simp] theorem updCore_requests (c : Nat) (f : Core → Core) : (s.updCore c f).requests = s.requests := rfl
@[simp] theorem updCore_triggers (c : Nat) (f : Core → Core) : (s.updCore c f).triggers = s.triggers := rfl
@[simp] theorem updCore_migrations (c : Nat) (f : Core → Core) : (s.updCore c f).migrations = s.migrations := rfl
@[simp] theorem updCore_heel (c : Nat) (f : Core → Core) : (s.updCore c f).heel = s.heel := rfl
@[simp] theorem updCore_routing (c : Nat) (f : Core → Core) : (s.updCore c f).routing = s.routing := rfl
@[simp] theorem updCore_ports (c : Nat) (f : Core → Core) : (s.updCore c f).ports = s.ports := rfl
@[simp] theorem updCore_host (c : Nat) (f : Core → Core) : (s.updCore c f).host = s.host := rfl
@[simp] theorem updCore_mgmt (c : Nat) (f : Core → Core) : (s.updCore c f).mgmt = s.mgmt := rfl
@[simp] theorem updCore_boot (c : Nat) (f : Core → Core) : (s.updCore c f).boot = s.boot := rfl
@[simp] theorem updCore_out (c : Nat) (f : Core → Core) : (s.updCore c f).out = s.out := rfl

/-! `setThread` leaves every other field as it is. -/

@[simp] theorem setThread_agenda (c k : Nat) (t : Thread) : (s.setThread c k t).agenda = s.agenda := rfl
@[simp] theorem setThread_turn (c k : Nat) (t : Thread) : (s.setThread c k t).turn = s.turn := rfl
@[simp] theorem setThread_cur (c k : Nat) (t : Thread) : (s.setThread c k t).cur = s.cur := rfl
@[simp] theorem setThread_freeCtr (c k : Nat) (t : Thread) : (s.setThread c k t).freeCtr = s.freeCtr := rfl
@[simp] theorem setThread_time (c k : Nat) (t : Thread) : (s.setThread c k t).time = s.time := rfl
@[simp] theorem setThread_mem (c k : Nat) (t : Thread) : (s.setThread c k t).mem = s.mem := rfl
@[simp] theorem setThread_empties (c k : Nat) (t : Thread) : (s.setThread c k t).empties = s.empties := rfl
@[simp] theorem setThread_keyIndex (c k : Nat) (t : Thread) : (s.setThread c k t).keyIndex = s.keyIndex := rfl
@[simp] theorem setThread_fencedBlocks (c k : Nat) (t : Thread) : (s.setThread c k t).fencedBlocks = s.fencedBlocks := rfl
@[simp] theorem setThread_clusters (c k : Nat) (t : Thread) : (s.setThread c k t).clusters = s.clusters := rfl
@[simp] theorem setThread_lz (c k : Nat) (t : Thread) : (s.setThread c k t).lz = s.lz := rfl
@[simp] theorem setThread_ctxs (c k : Nat) (t : Thread) : (s.setThread c k t).ctxs = s.ctxs := rfl
@[simp] theorem setThread_roots (c k : Nat) (t : Thread) : (s.setThread c k t).roots = s.roots := rfl
@[simp] theorem setThread_tcache (c k : Nat) (t : Thread) : (s.setThread c k t).tcache = s.tcache := rfl
@[simp] theorem setThread_sysCache (c k : Nat) (t : Thread) : (s.setThread c k t).sysCache = s.sysCache := rfl
@[simp] theorem setThread_posted (c k : Nat) (t : Thread) : (s.setThread c k t).posted = s.posted := rfl
@[simp] theorem setThread_reqs (c k : Nat) (t : Thread) : (s.setThread c k t).reqs = s.reqs := rfl
@[simp] theorem setThread_nextReq (c k : Nat) (t : Thread) : (s.setThread c k t).nextReq = s.nextReq := rfl
@[simp] theorem setThread_inflight (c k : Nat) (t : Thread) : (s.setThread c k t).inflight = s.inflight := rfl
@[simp] theorem setThread_localInv (c k : Nat) (t : Thread) : (s.setThread c k t).localInv = s.localInv := rfl
@[simp] theorem setThread_messages (c k : Nat) (t : Thread) : (s.setThread c k t).messages = s.messages := rfl
@[simp] theorem setThread_routes (c k : Nat) (t : Thread) : (s.setThread c k t).routes = s.routes := rfl
@[simp] theorem setThread_qs (c k : Nat) (t : Thread) : (s.setThread c k t).qs = s.qs := rfl
@[simp] theorem setThread_burst (c k : Nat) (t : Thread) : (s.setThread c k t).burst = s.burst := rfl
@[simp] theorem setThread_watch (c k : Nat) (t : Thread) : (s.setThread c k t).watch = s.watch := rfl
@[simp] theorem setThread_selfRefresh (c k : Nat) (t : Thread) : (s.setThread c k t).selfRefresh = s.selfRefresh := rfl
@[simp] theorem setThread_dramExit (c k : Nat) (t : Thread) : (s.setThread c k t).dramExit = s.dramExit := rfl
@[simp] theorem setThread_burstUsed (c k : Nat) (t : Thread) : (s.setThread c k t).burstUsed = s.burstUsed := rfl
@[simp] theorem setThread_watchUsed (c k : Nat) (t : Thread) : (s.setThread c k t).watchUsed = s.watchUsed := rfl
@[simp] theorem setThread_dramUsed (c k : Nat) (t : Thread) : (s.setThread c k t).dramUsed = s.dramUsed := rfl
@[simp] theorem setThread_clocks (c k : Nat) (t : Thread) : (s.setThread c k t).clocks = s.clocks := rfl
@[simp] theorem setThread_requests (c k : Nat) (t : Thread) : (s.setThread c k t).requests = s.requests := rfl
@[simp] theorem setThread_triggers (c k : Nat) (t : Thread) : (s.setThread c k t).triggers = s.triggers := rfl
@[simp] theorem setThread_migrations (c k : Nat) (t : Thread) : (s.setThread c k t).migrations = s.migrations := rfl
@[simp] theorem setThread_heel (c k : Nat) (t : Thread) : (s.setThread c k t).heel = s.heel := rfl
@[simp] theorem setThread_routing (c k : Nat) (t : Thread) : (s.setThread c k t).routing = s.routing := rfl
@[simp] theorem setThread_ports (c k : Nat) (t : Thread) : (s.setThread c k t).ports = s.ports := rfl
@[simp] theorem setThread_host (c k : Nat) (t : Thread) : (s.setThread c k t).host = s.host := rfl
@[simp] theorem setThread_mgmt (c k : Nat) (t : Thread) : (s.setThread c k t).mgmt = s.mgmt := rfl
@[simp] theorem setThread_boot (c k : Nat) (t : Thread) : (s.setThread c k t).boot = s.boot := rfl
@[simp] theorem setThread_out (c k : Nat) (t : Thread) : (s.setThread c k t).out = s.out := rfl

/-! `dropThread` leaves every other field as it is. -/

@[simp] theorem dropThread_agenda (c k : Nat) : (s.dropThread c k).agenda = s.agenda := rfl
@[simp] theorem dropThread_turn (c k : Nat) : (s.dropThread c k).turn = s.turn := rfl
@[simp] theorem dropThread_cur (c k : Nat) : (s.dropThread c k).cur = s.cur := rfl
@[simp] theorem dropThread_freeCtr (c k : Nat) : (s.dropThread c k).freeCtr = s.freeCtr := rfl
@[simp] theorem dropThread_time (c k : Nat) : (s.dropThread c k).time = s.time := rfl
@[simp] theorem dropThread_mem (c k : Nat) : (s.dropThread c k).mem = s.mem := rfl
@[simp] theorem dropThread_empties (c k : Nat) : (s.dropThread c k).empties = s.empties := rfl
@[simp] theorem dropThread_keyIndex (c k : Nat) : (s.dropThread c k).keyIndex = s.keyIndex := rfl
@[simp] theorem dropThread_fencedBlocks (c k : Nat) : (s.dropThread c k).fencedBlocks = s.fencedBlocks := rfl
@[simp] theorem dropThread_clusters (c k : Nat) : (s.dropThread c k).clusters = s.clusters := rfl
@[simp] theorem dropThread_lz (c k : Nat) : (s.dropThread c k).lz = s.lz := rfl
@[simp] theorem dropThread_ctxs (c k : Nat) : (s.dropThread c k).ctxs = s.ctxs := rfl
@[simp] theorem dropThread_roots (c k : Nat) : (s.dropThread c k).roots = s.roots := rfl
@[simp] theorem dropThread_tcache (c k : Nat) : (s.dropThread c k).tcache = s.tcache := rfl
@[simp] theorem dropThread_sysCache (c k : Nat) : (s.dropThread c k).sysCache = s.sysCache := rfl
@[simp] theorem dropThread_posted (c k : Nat) : (s.dropThread c k).posted = s.posted := rfl
@[simp] theorem dropThread_reqs (c k : Nat) : (s.dropThread c k).reqs = s.reqs := rfl
@[simp] theorem dropThread_nextReq (c k : Nat) : (s.dropThread c k).nextReq = s.nextReq := rfl
@[simp] theorem dropThread_inflight (c k : Nat) : (s.dropThread c k).inflight = s.inflight := rfl
@[simp] theorem dropThread_localInv (c k : Nat) : (s.dropThread c k).localInv = s.localInv := rfl
@[simp] theorem dropThread_messages (c k : Nat) : (s.dropThread c k).messages = s.messages := rfl
@[simp] theorem dropThread_routes (c k : Nat) : (s.dropThread c k).routes = s.routes := rfl
@[simp] theorem dropThread_qs (c k : Nat) : (s.dropThread c k).qs = s.qs := rfl
@[simp] theorem dropThread_burst (c k : Nat) : (s.dropThread c k).burst = s.burst := rfl
@[simp] theorem dropThread_watch (c k : Nat) : (s.dropThread c k).watch = s.watch := rfl
@[simp] theorem dropThread_selfRefresh (c k : Nat) : (s.dropThread c k).selfRefresh = s.selfRefresh := rfl
@[simp] theorem dropThread_dramExit (c k : Nat) : (s.dropThread c k).dramExit = s.dramExit := rfl
@[simp] theorem dropThread_burstUsed (c k : Nat) : (s.dropThread c k).burstUsed = s.burstUsed := rfl
@[simp] theorem dropThread_watchUsed (c k : Nat) : (s.dropThread c k).watchUsed = s.watchUsed := rfl
@[simp] theorem dropThread_dramUsed (c k : Nat) : (s.dropThread c k).dramUsed = s.dramUsed := rfl
@[simp] theorem dropThread_clocks (c k : Nat) : (s.dropThread c k).clocks = s.clocks := rfl
@[simp] theorem dropThread_requests (c k : Nat) : (s.dropThread c k).requests = s.requests := rfl
@[simp] theorem dropThread_triggers (c k : Nat) : (s.dropThread c k).triggers = s.triggers := rfl
@[simp] theorem dropThread_migrations (c k : Nat) : (s.dropThread c k).migrations = s.migrations := rfl
@[simp] theorem dropThread_heel (c k : Nat) : (s.dropThread c k).heel = s.heel := rfl
@[simp] theorem dropThread_routing (c k : Nat) : (s.dropThread c k).routing = s.routing := rfl
@[simp] theorem dropThread_ports (c k : Nat) : (s.dropThread c k).ports = s.ports := rfl
@[simp] theorem dropThread_host (c k : Nat) : (s.dropThread c k).host = s.host := rfl
@[simp] theorem dropThread_mgmt (c k : Nat) : (s.dropThread c k).mgmt = s.mgmt := rfl
@[simp] theorem dropThread_boot (c k : Nat) : (s.dropThread c k).boot = s.boot := rfl
@[simp] theorem dropThread_out (c k : Nat) : (s.dropThread c k).out = s.out := rfl

/-! `setCluster` leaves every other field as it is. -/

@[simp] theorem setCluster_agenda (c : Nat) (k : Cluster) : (s.setCluster c k).agenda = s.agenda := rfl
@[simp] theorem setCluster_turn (c : Nat) (k : Cluster) : (s.setCluster c k).turn = s.turn := rfl
@[simp] theorem setCluster_cur (c : Nat) (k : Cluster) : (s.setCluster c k).cur = s.cur := rfl
@[simp] theorem setCluster_freeCtr (c : Nat) (k : Cluster) : (s.setCluster c k).freeCtr = s.freeCtr := rfl
@[simp] theorem setCluster_time (c : Nat) (k : Cluster) : (s.setCluster c k).time = s.time := rfl
@[simp] theorem setCluster_mem (c : Nat) (k : Cluster) : (s.setCluster c k).mem = s.mem := rfl
@[simp] theorem setCluster_empties (c : Nat) (k : Cluster) : (s.setCluster c k).empties = s.empties := rfl
@[simp] theorem setCluster_keyIndex (c : Nat) (k : Cluster) : (s.setCluster c k).keyIndex = s.keyIndex := rfl
@[simp] theorem setCluster_fencedBlocks (c : Nat) (k : Cluster) : (s.setCluster c k).fencedBlocks = s.fencedBlocks := rfl
@[simp] theorem setCluster_cores (c : Nat) (k : Cluster) : (s.setCluster c k).cores = s.cores := rfl
@[simp] theorem setCluster_lz (c : Nat) (k : Cluster) : (s.setCluster c k).lz = s.lz := rfl
@[simp] theorem setCluster_ctxs (c : Nat) (k : Cluster) : (s.setCluster c k).ctxs = s.ctxs := rfl
@[simp] theorem setCluster_roots (c : Nat) (k : Cluster) : (s.setCluster c k).roots = s.roots := rfl
@[simp] theorem setCluster_tcache (c : Nat) (k : Cluster) : (s.setCluster c k).tcache = s.tcache := rfl
@[simp] theorem setCluster_sysCache (c : Nat) (k : Cluster) : (s.setCluster c k).sysCache = s.sysCache := rfl
@[simp] theorem setCluster_posted (c : Nat) (k : Cluster) : (s.setCluster c k).posted = s.posted := rfl
@[simp] theorem setCluster_reqs (c : Nat) (k : Cluster) : (s.setCluster c k).reqs = s.reqs := rfl
@[simp] theorem setCluster_nextReq (c : Nat) (k : Cluster) : (s.setCluster c k).nextReq = s.nextReq := rfl
@[simp] theorem setCluster_inflight (c : Nat) (k : Cluster) : (s.setCluster c k).inflight = s.inflight := rfl
@[simp] theorem setCluster_localInv (c : Nat) (k : Cluster) : (s.setCluster c k).localInv = s.localInv := rfl
@[simp] theorem setCluster_messages (c : Nat) (k : Cluster) : (s.setCluster c k).messages = s.messages := rfl
@[simp] theorem setCluster_routes (c : Nat) (k : Cluster) : (s.setCluster c k).routes = s.routes := rfl
@[simp] theorem setCluster_qs (c : Nat) (k : Cluster) : (s.setCluster c k).qs = s.qs := rfl
@[simp] theorem setCluster_burst (c : Nat) (k : Cluster) : (s.setCluster c k).burst = s.burst := rfl
@[simp] theorem setCluster_watch (c : Nat) (k : Cluster) : (s.setCluster c k).watch = s.watch := rfl
@[simp] theorem setCluster_selfRefresh (c : Nat) (k : Cluster) : (s.setCluster c k).selfRefresh = s.selfRefresh := rfl
@[simp] theorem setCluster_dramExit (c : Nat) (k : Cluster) : (s.setCluster c k).dramExit = s.dramExit := rfl
@[simp] theorem setCluster_burstUsed (c : Nat) (k : Cluster) : (s.setCluster c k).burstUsed = s.burstUsed := rfl
@[simp] theorem setCluster_watchUsed (c : Nat) (k : Cluster) : (s.setCluster c k).watchUsed = s.watchUsed := rfl
@[simp] theorem setCluster_dramUsed (c : Nat) (k : Cluster) : (s.setCluster c k).dramUsed = s.dramUsed := rfl
@[simp] theorem setCluster_clocks (c : Nat) (k : Cluster) : (s.setCluster c k).clocks = s.clocks := rfl
@[simp] theorem setCluster_requests (c : Nat) (k : Cluster) : (s.setCluster c k).requests = s.requests := rfl
@[simp] theorem setCluster_triggers (c : Nat) (k : Cluster) : (s.setCluster c k).triggers = s.triggers := rfl
@[simp] theorem setCluster_migrations (c : Nat) (k : Cluster) : (s.setCluster c k).migrations = s.migrations := rfl
@[simp] theorem setCluster_heel (c : Nat) (k : Cluster) : (s.setCluster c k).heel = s.heel := rfl
@[simp] theorem setCluster_routing (c : Nat) (k : Cluster) : (s.setCluster c k).routing = s.routing := rfl
@[simp] theorem setCluster_ports (c : Nat) (k : Cluster) : (s.setCluster c k).ports = s.ports := rfl
@[simp] theorem setCluster_host (c : Nat) (k : Cluster) : (s.setCluster c k).host = s.host := rfl
@[simp] theorem setCluster_mgmt (c : Nat) (k : Cluster) : (s.setCluster c k).mgmt = s.mgmt := rfl
@[simp] theorem setCluster_boot (c : Nat) (k : Cluster) : (s.setCluster c k).boot = s.boot := rfl
@[simp] theorem setCluster_out (c : Nat) (k : Cluster) : (s.setCluster c k).out = s.out := rfl

/-! `updMe` leaves every other field as it is. -/

@[simp] theorem updMe_agenda (c : Nat) (f : Me → Me) : (s.updMe c f).agenda = s.agenda := rfl
@[simp] theorem updMe_turn (c : Nat) (f : Me → Me) : (s.updMe c f).turn = s.turn := rfl
@[simp] theorem updMe_cur (c : Nat) (f : Me → Me) : (s.updMe c f).cur = s.cur := rfl
@[simp] theorem updMe_freeCtr (c : Nat) (f : Me → Me) : (s.updMe c f).freeCtr = s.freeCtr := rfl
@[simp] theorem updMe_time (c : Nat) (f : Me → Me) : (s.updMe c f).time = s.time := rfl
@[simp] theorem updMe_mem (c : Nat) (f : Me → Me) : (s.updMe c f).mem = s.mem := rfl
@[simp] theorem updMe_empties (c : Nat) (f : Me → Me) : (s.updMe c f).empties = s.empties := rfl
@[simp] theorem updMe_keyIndex (c : Nat) (f : Me → Me) : (s.updMe c f).keyIndex = s.keyIndex := rfl
@[simp] theorem updMe_fencedBlocks (c : Nat) (f : Me → Me) : (s.updMe c f).fencedBlocks = s.fencedBlocks := rfl
@[simp] theorem updMe_cores (c : Nat) (f : Me → Me) : (s.updMe c f).cores = s.cores := rfl
@[simp] theorem updMe_lz (c : Nat) (f : Me → Me) : (s.updMe c f).lz = s.lz := rfl
@[simp] theorem updMe_ctxs (c : Nat) (f : Me → Me) : (s.updMe c f).ctxs = s.ctxs := rfl
@[simp] theorem updMe_roots (c : Nat) (f : Me → Me) : (s.updMe c f).roots = s.roots := rfl
@[simp] theorem updMe_tcache (c : Nat) (f : Me → Me) : (s.updMe c f).tcache = s.tcache := rfl
@[simp] theorem updMe_sysCache (c : Nat) (f : Me → Me) : (s.updMe c f).sysCache = s.sysCache := rfl
@[simp] theorem updMe_posted (c : Nat) (f : Me → Me) : (s.updMe c f).posted = s.posted := rfl
@[simp] theorem updMe_reqs (c : Nat) (f : Me → Me) : (s.updMe c f).reqs = s.reqs := rfl
@[simp] theorem updMe_nextReq (c : Nat) (f : Me → Me) : (s.updMe c f).nextReq = s.nextReq := rfl
@[simp] theorem updMe_inflight (c : Nat) (f : Me → Me) : (s.updMe c f).inflight = s.inflight := rfl
@[simp] theorem updMe_localInv (c : Nat) (f : Me → Me) : (s.updMe c f).localInv = s.localInv := rfl
@[simp] theorem updMe_messages (c : Nat) (f : Me → Me) : (s.updMe c f).messages = s.messages := rfl
@[simp] theorem updMe_routes (c : Nat) (f : Me → Me) : (s.updMe c f).routes = s.routes := rfl
@[simp] theorem updMe_qs (c : Nat) (f : Me → Me) : (s.updMe c f).qs = s.qs := rfl
@[simp] theorem updMe_burst (c : Nat) (f : Me → Me) : (s.updMe c f).burst = s.burst := rfl
@[simp] theorem updMe_watch (c : Nat) (f : Me → Me) : (s.updMe c f).watch = s.watch := rfl
@[simp] theorem updMe_selfRefresh (c : Nat) (f : Me → Me) : (s.updMe c f).selfRefresh = s.selfRefresh := rfl
@[simp] theorem updMe_dramExit (c : Nat) (f : Me → Me) : (s.updMe c f).dramExit = s.dramExit := rfl
@[simp] theorem updMe_burstUsed (c : Nat) (f : Me → Me) : (s.updMe c f).burstUsed = s.burstUsed := rfl
@[simp] theorem updMe_watchUsed (c : Nat) (f : Me → Me) : (s.updMe c f).watchUsed = s.watchUsed := rfl
@[simp] theorem updMe_dramUsed (c : Nat) (f : Me → Me) : (s.updMe c f).dramUsed = s.dramUsed := rfl
@[simp] theorem updMe_clocks (c : Nat) (f : Me → Me) : (s.updMe c f).clocks = s.clocks := rfl
@[simp] theorem updMe_requests (c : Nat) (f : Me → Me) : (s.updMe c f).requests = s.requests := rfl
@[simp] theorem updMe_triggers (c : Nat) (f : Me → Me) : (s.updMe c f).triggers = s.triggers := rfl
@[simp] theorem updMe_migrations (c : Nat) (f : Me → Me) : (s.updMe c f).migrations = s.migrations := rfl
@[simp] theorem updMe_heel (c : Nat) (f : Me → Me) : (s.updMe c f).heel = s.heel := rfl
@[simp] theorem updMe_routing (c : Nat) (f : Me → Me) : (s.updMe c f).routing = s.routing := rfl
@[simp] theorem updMe_ports (c : Nat) (f : Me → Me) : (s.updMe c f).ports = s.ports := rfl
@[simp] theorem updMe_host (c : Nat) (f : Me → Me) : (s.updMe c f).host = s.host := rfl
@[simp] theorem updMe_mgmt (c : Nat) (f : Me → Me) : (s.updMe c f).mgmt = s.mgmt := rfl
@[simp] theorem updMe_boot (c : Nat) (f : Me → Me) : (s.updMe c f).boot = s.boot := rfl
@[simp] theorem updMe_out (c : Nat) (f : Me → Me) : (s.updMe c f).out = s.out := rfl

/-! `updCe` leaves every other field as it is. -/

@[simp] theorem updCe_agenda (c : Nat) (f : Ce → Ce) : (s.updCe c f).agenda = s.agenda := rfl
@[simp] theorem updCe_turn (c : Nat) (f : Ce → Ce) : (s.updCe c f).turn = s.turn := rfl
@[simp] theorem updCe_cur (c : Nat) (f : Ce → Ce) : (s.updCe c f).cur = s.cur := rfl
@[simp] theorem updCe_freeCtr (c : Nat) (f : Ce → Ce) : (s.updCe c f).freeCtr = s.freeCtr := rfl
@[simp] theorem updCe_time (c : Nat) (f : Ce → Ce) : (s.updCe c f).time = s.time := rfl
@[simp] theorem updCe_mem (c : Nat) (f : Ce → Ce) : (s.updCe c f).mem = s.mem := rfl
@[simp] theorem updCe_empties (c : Nat) (f : Ce → Ce) : (s.updCe c f).empties = s.empties := rfl
@[simp] theorem updCe_keyIndex (c : Nat) (f : Ce → Ce) : (s.updCe c f).keyIndex = s.keyIndex := rfl
@[simp] theorem updCe_fencedBlocks (c : Nat) (f : Ce → Ce) : (s.updCe c f).fencedBlocks = s.fencedBlocks := rfl
@[simp] theorem updCe_cores (c : Nat) (f : Ce → Ce) : (s.updCe c f).cores = s.cores := rfl
@[simp] theorem updCe_lz (c : Nat) (f : Ce → Ce) : (s.updCe c f).lz = s.lz := rfl
@[simp] theorem updCe_ctxs (c : Nat) (f : Ce → Ce) : (s.updCe c f).ctxs = s.ctxs := rfl
@[simp] theorem updCe_roots (c : Nat) (f : Ce → Ce) : (s.updCe c f).roots = s.roots := rfl
@[simp] theorem updCe_tcache (c : Nat) (f : Ce → Ce) : (s.updCe c f).tcache = s.tcache := rfl
@[simp] theorem updCe_sysCache (c : Nat) (f : Ce → Ce) : (s.updCe c f).sysCache = s.sysCache := rfl
@[simp] theorem updCe_posted (c : Nat) (f : Ce → Ce) : (s.updCe c f).posted = s.posted := rfl
@[simp] theorem updCe_reqs (c : Nat) (f : Ce → Ce) : (s.updCe c f).reqs = s.reqs := rfl
@[simp] theorem updCe_nextReq (c : Nat) (f : Ce → Ce) : (s.updCe c f).nextReq = s.nextReq := rfl
@[simp] theorem updCe_inflight (c : Nat) (f : Ce → Ce) : (s.updCe c f).inflight = s.inflight := rfl
@[simp] theorem updCe_localInv (c : Nat) (f : Ce → Ce) : (s.updCe c f).localInv = s.localInv := rfl
@[simp] theorem updCe_messages (c : Nat) (f : Ce → Ce) : (s.updCe c f).messages = s.messages := rfl
@[simp] theorem updCe_routes (c : Nat) (f : Ce → Ce) : (s.updCe c f).routes = s.routes := rfl
@[simp] theorem updCe_qs (c : Nat) (f : Ce → Ce) : (s.updCe c f).qs = s.qs := rfl
@[simp] theorem updCe_burst (c : Nat) (f : Ce → Ce) : (s.updCe c f).burst = s.burst := rfl
@[simp] theorem updCe_watch (c : Nat) (f : Ce → Ce) : (s.updCe c f).watch = s.watch := rfl
@[simp] theorem updCe_selfRefresh (c : Nat) (f : Ce → Ce) : (s.updCe c f).selfRefresh = s.selfRefresh := rfl
@[simp] theorem updCe_dramExit (c : Nat) (f : Ce → Ce) : (s.updCe c f).dramExit = s.dramExit := rfl
@[simp] theorem updCe_burstUsed (c : Nat) (f : Ce → Ce) : (s.updCe c f).burstUsed = s.burstUsed := rfl
@[simp] theorem updCe_watchUsed (c : Nat) (f : Ce → Ce) : (s.updCe c f).watchUsed = s.watchUsed := rfl
@[simp] theorem updCe_dramUsed (c : Nat) (f : Ce → Ce) : (s.updCe c f).dramUsed = s.dramUsed := rfl
@[simp] theorem updCe_clocks (c : Nat) (f : Ce → Ce) : (s.updCe c f).clocks = s.clocks := rfl
@[simp] theorem updCe_requests (c : Nat) (f : Ce → Ce) : (s.updCe c f).requests = s.requests := rfl
@[simp] theorem updCe_triggers (c : Nat) (f : Ce → Ce) : (s.updCe c f).triggers = s.triggers := rfl
@[simp] theorem updCe_migrations (c : Nat) (f : Ce → Ce) : (s.updCe c f).migrations = s.migrations := rfl
@[simp] theorem updCe_heel (c : Nat) (f : Ce → Ce) : (s.updCe c f).heel = s.heel := rfl
@[simp] theorem updCe_routing (c : Nat) (f : Ce → Ce) : (s.updCe c f).routing = s.routing := rfl
@[simp] theorem updCe_ports (c : Nat) (f : Ce → Ce) : (s.updCe c f).ports = s.ports := rfl
@[simp] theorem updCe_host (c : Nat) (f : Ce → Ce) : (s.updCe c f).host = s.host := rfl
@[simp] theorem updCe_mgmt (c : Nat) (f : Ce → Ce) : (s.updCe c f).mgmt = s.mgmt := rfl
@[simp] theorem updCe_boot (c : Nat) (f : Ce → Ce) : (s.updCe c f).boot = s.boot := rfl
@[simp] theorem updCe_out (c : Nat) (f : Ce → Ce) : (s.updCe c f).out = s.out := rfl

/-! `updKse` leaves every other field as it is. -/

@[simp] theorem updKse_agenda (c : Nat) (f : Kse → Kse) : (s.updKse c f).agenda = s.agenda := rfl
@[simp] theorem updKse_turn (c : Nat) (f : Kse → Kse) : (s.updKse c f).turn = s.turn := rfl
@[simp] theorem updKse_cur (c : Nat) (f : Kse → Kse) : (s.updKse c f).cur = s.cur := rfl
@[simp] theorem updKse_freeCtr (c : Nat) (f : Kse → Kse) : (s.updKse c f).freeCtr = s.freeCtr := rfl
@[simp] theorem updKse_time (c : Nat) (f : Kse → Kse) : (s.updKse c f).time = s.time := rfl
@[simp] theorem updKse_mem (c : Nat) (f : Kse → Kse) : (s.updKse c f).mem = s.mem := rfl
@[simp] theorem updKse_empties (c : Nat) (f : Kse → Kse) : (s.updKse c f).empties = s.empties := rfl
@[simp] theorem updKse_keyIndex (c : Nat) (f : Kse → Kse) : (s.updKse c f).keyIndex = s.keyIndex := rfl
@[simp] theorem updKse_fencedBlocks (c : Nat) (f : Kse → Kse) : (s.updKse c f).fencedBlocks = s.fencedBlocks := rfl
@[simp] theorem updKse_cores (c : Nat) (f : Kse → Kse) : (s.updKse c f).cores = s.cores := rfl
@[simp] theorem updKse_lz (c : Nat) (f : Kse → Kse) : (s.updKse c f).lz = s.lz := rfl
@[simp] theorem updKse_ctxs (c : Nat) (f : Kse → Kse) : (s.updKse c f).ctxs = s.ctxs := rfl
@[simp] theorem updKse_roots (c : Nat) (f : Kse → Kse) : (s.updKse c f).roots = s.roots := rfl
@[simp] theorem updKse_tcache (c : Nat) (f : Kse → Kse) : (s.updKse c f).tcache = s.tcache := rfl
@[simp] theorem updKse_sysCache (c : Nat) (f : Kse → Kse) : (s.updKse c f).sysCache = s.sysCache := rfl
@[simp] theorem updKse_posted (c : Nat) (f : Kse → Kse) : (s.updKse c f).posted = s.posted := rfl
@[simp] theorem updKse_reqs (c : Nat) (f : Kse → Kse) : (s.updKse c f).reqs = s.reqs := rfl
@[simp] theorem updKse_nextReq (c : Nat) (f : Kse → Kse) : (s.updKse c f).nextReq = s.nextReq := rfl
@[simp] theorem updKse_inflight (c : Nat) (f : Kse → Kse) : (s.updKse c f).inflight = s.inflight := rfl
@[simp] theorem updKse_localInv (c : Nat) (f : Kse → Kse) : (s.updKse c f).localInv = s.localInv := rfl
@[simp] theorem updKse_messages (c : Nat) (f : Kse → Kse) : (s.updKse c f).messages = s.messages := rfl
@[simp] theorem updKse_routes (c : Nat) (f : Kse → Kse) : (s.updKse c f).routes = s.routes := rfl
@[simp] theorem updKse_qs (c : Nat) (f : Kse → Kse) : (s.updKse c f).qs = s.qs := rfl
@[simp] theorem updKse_burst (c : Nat) (f : Kse → Kse) : (s.updKse c f).burst = s.burst := rfl
@[simp] theorem updKse_watch (c : Nat) (f : Kse → Kse) : (s.updKse c f).watch = s.watch := rfl
@[simp] theorem updKse_selfRefresh (c : Nat) (f : Kse → Kse) : (s.updKse c f).selfRefresh = s.selfRefresh := rfl
@[simp] theorem updKse_dramExit (c : Nat) (f : Kse → Kse) : (s.updKse c f).dramExit = s.dramExit := rfl
@[simp] theorem updKse_burstUsed (c : Nat) (f : Kse → Kse) : (s.updKse c f).burstUsed = s.burstUsed := rfl
@[simp] theorem updKse_watchUsed (c : Nat) (f : Kse → Kse) : (s.updKse c f).watchUsed = s.watchUsed := rfl
@[simp] theorem updKse_dramUsed (c : Nat) (f : Kse → Kse) : (s.updKse c f).dramUsed = s.dramUsed := rfl
@[simp] theorem updKse_clocks (c : Nat) (f : Kse → Kse) : (s.updKse c f).clocks = s.clocks := rfl
@[simp] theorem updKse_requests (c : Nat) (f : Kse → Kse) : (s.updKse c f).requests = s.requests := rfl
@[simp] theorem updKse_triggers (c : Nat) (f : Kse → Kse) : (s.updKse c f).triggers = s.triggers := rfl
@[simp] theorem updKse_migrations (c : Nat) (f : Kse → Kse) : (s.updKse c f).migrations = s.migrations := rfl
@[simp] theorem updKse_heel (c : Nat) (f : Kse → Kse) : (s.updKse c f).heel = s.heel := rfl
@[simp] theorem updKse_routing (c : Nat) (f : Kse → Kse) : (s.updKse c f).routing = s.routing := rfl
@[simp] theorem updKse_ports (c : Nat) (f : Kse → Kse) : (s.updKse c f).ports = s.ports := rfl
@[simp] theorem updKse_host (c : Nat) (f : Kse → Kse) : (s.updKse c f).host = s.host := rfl
@[simp] theorem updKse_mgmt (c : Nat) (f : Kse → Kse) : (s.updKse c f).mgmt = s.mgmt := rfl
@[simp] theorem updKse_boot (c : Nat) (f : Kse → Kse) : (s.updKse c f).boot = s.boot := rfl
@[simp] theorem updKse_out (c : Nat) (f : Kse → Kse) : (s.updKse c f).out = s.out := rfl

/-! `setCtx` leaves every other field as it is. -/

@[simp] theorem setCtx_agenda (n : Nat) (x : Ctx) : (s.setCtx n x).agenda = s.agenda := rfl
@[simp] theorem setCtx_turn (n : Nat) (x : Ctx) : (s.setCtx n x).turn = s.turn := rfl
@[simp] theorem setCtx_cur (n : Nat) (x : Ctx) : (s.setCtx n x).cur = s.cur := rfl
@[simp] theorem setCtx_freeCtr (n : Nat) (x : Ctx) : (s.setCtx n x).freeCtr = s.freeCtr := rfl
@[simp] theorem setCtx_time (n : Nat) (x : Ctx) : (s.setCtx n x).time = s.time := rfl
@[simp] theorem setCtx_mem (n : Nat) (x : Ctx) : (s.setCtx n x).mem = s.mem := rfl
@[simp] theorem setCtx_empties (n : Nat) (x : Ctx) : (s.setCtx n x).empties = s.empties := rfl
@[simp] theorem setCtx_keyIndex (n : Nat) (x : Ctx) : (s.setCtx n x).keyIndex = s.keyIndex := rfl
@[simp] theorem setCtx_fencedBlocks (n : Nat) (x : Ctx) : (s.setCtx n x).fencedBlocks = s.fencedBlocks := rfl
@[simp] theorem setCtx_cores (n : Nat) (x : Ctx) : (s.setCtx n x).cores = s.cores := rfl
@[simp] theorem setCtx_clusters (n : Nat) (x : Ctx) : (s.setCtx n x).clusters = s.clusters := rfl
@[simp] theorem setCtx_lz (n : Nat) (x : Ctx) : (s.setCtx n x).lz = s.lz := rfl
@[simp] theorem setCtx_roots (n : Nat) (x : Ctx) : (s.setCtx n x).roots = s.roots := rfl
@[simp] theorem setCtx_tcache (n : Nat) (x : Ctx) : (s.setCtx n x).tcache = s.tcache := rfl
@[simp] theorem setCtx_sysCache (n : Nat) (x : Ctx) : (s.setCtx n x).sysCache = s.sysCache := rfl
@[simp] theorem setCtx_posted (n : Nat) (x : Ctx) : (s.setCtx n x).posted = s.posted := rfl
@[simp] theorem setCtx_reqs (n : Nat) (x : Ctx) : (s.setCtx n x).reqs = s.reqs := rfl
@[simp] theorem setCtx_nextReq (n : Nat) (x : Ctx) : (s.setCtx n x).nextReq = s.nextReq := rfl
@[simp] theorem setCtx_inflight (n : Nat) (x : Ctx) : (s.setCtx n x).inflight = s.inflight := rfl
@[simp] theorem setCtx_localInv (n : Nat) (x : Ctx) : (s.setCtx n x).localInv = s.localInv := rfl
@[simp] theorem setCtx_messages (n : Nat) (x : Ctx) : (s.setCtx n x).messages = s.messages := rfl
@[simp] theorem setCtx_routes (n : Nat) (x : Ctx) : (s.setCtx n x).routes = s.routes := rfl
@[simp] theorem setCtx_qs (n : Nat) (x : Ctx) : (s.setCtx n x).qs = s.qs := rfl
@[simp] theorem setCtx_burst (n : Nat) (x : Ctx) : (s.setCtx n x).burst = s.burst := rfl
@[simp] theorem setCtx_watch (n : Nat) (x : Ctx) : (s.setCtx n x).watch = s.watch := rfl
@[simp] theorem setCtx_selfRefresh (n : Nat) (x : Ctx) : (s.setCtx n x).selfRefresh = s.selfRefresh := rfl
@[simp] theorem setCtx_dramExit (n : Nat) (x : Ctx) : (s.setCtx n x).dramExit = s.dramExit := rfl
@[simp] theorem setCtx_burstUsed (n : Nat) (x : Ctx) : (s.setCtx n x).burstUsed = s.burstUsed := rfl
@[simp] theorem setCtx_watchUsed (n : Nat) (x : Ctx) : (s.setCtx n x).watchUsed = s.watchUsed := rfl
@[simp] theorem setCtx_dramUsed (n : Nat) (x : Ctx) : (s.setCtx n x).dramUsed = s.dramUsed := rfl
@[simp] theorem setCtx_clocks (n : Nat) (x : Ctx) : (s.setCtx n x).clocks = s.clocks := rfl
@[simp] theorem setCtx_requests (n : Nat) (x : Ctx) : (s.setCtx n x).requests = s.requests := rfl
@[simp] theorem setCtx_triggers (n : Nat) (x : Ctx) : (s.setCtx n x).triggers = s.triggers := rfl
@[simp] theorem setCtx_migrations (n : Nat) (x : Ctx) : (s.setCtx n x).migrations = s.migrations := rfl
@[simp] theorem setCtx_heel (n : Nat) (x : Ctx) : (s.setCtx n x).heel = s.heel := rfl
@[simp] theorem setCtx_routing (n : Nat) (x : Ctx) : (s.setCtx n x).routing = s.routing := rfl
@[simp] theorem setCtx_ports (n : Nat) (x : Ctx) : (s.setCtx n x).ports = s.ports := rfl
@[simp] theorem setCtx_host (n : Nat) (x : Ctx) : (s.setCtx n x).host = s.host := rfl
@[simp] theorem setCtx_mgmt (n : Nat) (x : Ctx) : (s.setCtx n x).mgmt = s.mgmt := rfl
@[simp] theorem setCtx_boot (n : Nat) (x : Ctx) : (s.setCtx n x).boot = s.boot := rfl
@[simp] theorem setCtx_out (n : Nat) (x : Ctx) : (s.setCtx n x).out = s.out := rfl

/-! `updCtx` leaves every other field as it is. -/

@[simp] theorem updCtx_agenda (n : Nat) (f : Ctx → Ctx) : (s.updCtx n f).agenda = s.agenda := rfl
@[simp] theorem updCtx_turn (n : Nat) (f : Ctx → Ctx) : (s.updCtx n f).turn = s.turn := rfl
@[simp] theorem updCtx_cur (n : Nat) (f : Ctx → Ctx) : (s.updCtx n f).cur = s.cur := rfl
@[simp] theorem updCtx_freeCtr (n : Nat) (f : Ctx → Ctx) : (s.updCtx n f).freeCtr = s.freeCtr := rfl
@[simp] theorem updCtx_time (n : Nat) (f : Ctx → Ctx) : (s.updCtx n f).time = s.time := rfl
@[simp] theorem updCtx_mem (n : Nat) (f : Ctx → Ctx) : (s.updCtx n f).mem = s.mem := rfl
@[simp] theorem updCtx_empties (n : Nat) (f : Ctx → Ctx) : (s.updCtx n f).empties = s.empties := rfl
@[simp] theorem updCtx_keyIndex (n : Nat) (f : Ctx → Ctx) : (s.updCtx n f).keyIndex = s.keyIndex := rfl
@[simp] theorem updCtx_fencedBlocks (n : Nat) (f : Ctx → Ctx) : (s.updCtx n f).fencedBlocks = s.fencedBlocks := rfl
@[simp] theorem updCtx_cores (n : Nat) (f : Ctx → Ctx) : (s.updCtx n f).cores = s.cores := rfl
@[simp] theorem updCtx_clusters (n : Nat) (f : Ctx → Ctx) : (s.updCtx n f).clusters = s.clusters := rfl
@[simp] theorem updCtx_lz (n : Nat) (f : Ctx → Ctx) : (s.updCtx n f).lz = s.lz := rfl
@[simp] theorem updCtx_roots (n : Nat) (f : Ctx → Ctx) : (s.updCtx n f).roots = s.roots := rfl
@[simp] theorem updCtx_tcache (n : Nat) (f : Ctx → Ctx) : (s.updCtx n f).tcache = s.tcache := rfl
@[simp] theorem updCtx_sysCache (n : Nat) (f : Ctx → Ctx) : (s.updCtx n f).sysCache = s.sysCache := rfl
@[simp] theorem updCtx_posted (n : Nat) (f : Ctx → Ctx) : (s.updCtx n f).posted = s.posted := rfl
@[simp] theorem updCtx_reqs (n : Nat) (f : Ctx → Ctx) : (s.updCtx n f).reqs = s.reqs := rfl
@[simp] theorem updCtx_nextReq (n : Nat) (f : Ctx → Ctx) : (s.updCtx n f).nextReq = s.nextReq := rfl
@[simp] theorem updCtx_inflight (n : Nat) (f : Ctx → Ctx) : (s.updCtx n f).inflight = s.inflight := rfl
@[simp] theorem updCtx_localInv (n : Nat) (f : Ctx → Ctx) : (s.updCtx n f).localInv = s.localInv := rfl
@[simp] theorem updCtx_messages (n : Nat) (f : Ctx → Ctx) : (s.updCtx n f).messages = s.messages := rfl
@[simp] theorem updCtx_routes (n : Nat) (f : Ctx → Ctx) : (s.updCtx n f).routes = s.routes := rfl
@[simp] theorem updCtx_qs (n : Nat) (f : Ctx → Ctx) : (s.updCtx n f).qs = s.qs := rfl
@[simp] theorem updCtx_burst (n : Nat) (f : Ctx → Ctx) : (s.updCtx n f).burst = s.burst := rfl
@[simp] theorem updCtx_watch (n : Nat) (f : Ctx → Ctx) : (s.updCtx n f).watch = s.watch := rfl
@[simp] theorem updCtx_selfRefresh (n : Nat) (f : Ctx → Ctx) : (s.updCtx n f).selfRefresh = s.selfRefresh := rfl
@[simp] theorem updCtx_dramExit (n : Nat) (f : Ctx → Ctx) : (s.updCtx n f).dramExit = s.dramExit := rfl
@[simp] theorem updCtx_burstUsed (n : Nat) (f : Ctx → Ctx) : (s.updCtx n f).burstUsed = s.burstUsed := rfl
@[simp] theorem updCtx_watchUsed (n : Nat) (f : Ctx → Ctx) : (s.updCtx n f).watchUsed = s.watchUsed := rfl
@[simp] theorem updCtx_dramUsed (n : Nat) (f : Ctx → Ctx) : (s.updCtx n f).dramUsed = s.dramUsed := rfl
@[simp] theorem updCtx_clocks (n : Nat) (f : Ctx → Ctx) : (s.updCtx n f).clocks = s.clocks := rfl
@[simp] theorem updCtx_requests (n : Nat) (f : Ctx → Ctx) : (s.updCtx n f).requests = s.requests := rfl
@[simp] theorem updCtx_triggers (n : Nat) (f : Ctx → Ctx) : (s.updCtx n f).triggers = s.triggers := rfl
@[simp] theorem updCtx_migrations (n : Nat) (f : Ctx → Ctx) : (s.updCtx n f).migrations = s.migrations := rfl
@[simp] theorem updCtx_heel (n : Nat) (f : Ctx → Ctx) : (s.updCtx n f).heel = s.heel := rfl
@[simp] theorem updCtx_routing (n : Nat) (f : Ctx → Ctx) : (s.updCtx n f).routing = s.routing := rfl
@[simp] theorem updCtx_ports (n : Nat) (f : Ctx → Ctx) : (s.updCtx n f).ports = s.ports := rfl
@[simp] theorem updCtx_host (n : Nat) (f : Ctx → Ctx) : (s.updCtx n f).host = s.host := rfl
@[simp] theorem updCtx_mgmt (n : Nat) (f : Ctx → Ctx) : (s.updCtx n f).mgmt = s.mgmt := rfl
@[simp] theorem updCtx_boot (n : Nat) (f : Ctx → Ctx) : (s.updCtx n f).boot = s.boot := rfl
@[simp] theorem updCtx_out (n : Nat) (f : Ctx → Ctx) : (s.updCtx n f).out = s.out := rfl

/-! `setTrigger` leaves every other field as it is. -/

@[simp] theorem setTrigger_agenda (n : Nat) (x : Trigger) : (s.setTrigger n x).agenda = s.agenda := rfl
@[simp] theorem setTrigger_turn (n : Nat) (x : Trigger) : (s.setTrigger n x).turn = s.turn := rfl
@[simp] theorem setTrigger_cur (n : Nat) (x : Trigger) : (s.setTrigger n x).cur = s.cur := rfl
@[simp] theorem setTrigger_freeCtr (n : Nat) (x : Trigger) : (s.setTrigger n x).freeCtr = s.freeCtr := rfl
@[simp] theorem setTrigger_time (n : Nat) (x : Trigger) : (s.setTrigger n x).time = s.time := rfl
@[simp] theorem setTrigger_mem (n : Nat) (x : Trigger) : (s.setTrigger n x).mem = s.mem := rfl
@[simp] theorem setTrigger_empties (n : Nat) (x : Trigger) : (s.setTrigger n x).empties = s.empties := rfl
@[simp] theorem setTrigger_keyIndex (n : Nat) (x : Trigger) : (s.setTrigger n x).keyIndex = s.keyIndex := rfl
@[simp] theorem setTrigger_fencedBlocks (n : Nat) (x : Trigger) : (s.setTrigger n x).fencedBlocks = s.fencedBlocks := rfl
@[simp] theorem setTrigger_cores (n : Nat) (x : Trigger) : (s.setTrigger n x).cores = s.cores := rfl
@[simp] theorem setTrigger_clusters (n : Nat) (x : Trigger) : (s.setTrigger n x).clusters = s.clusters := rfl
@[simp] theorem setTrigger_lz (n : Nat) (x : Trigger) : (s.setTrigger n x).lz = s.lz := rfl
@[simp] theorem setTrigger_ctxs (n : Nat) (x : Trigger) : (s.setTrigger n x).ctxs = s.ctxs := rfl
@[simp] theorem setTrigger_roots (n : Nat) (x : Trigger) : (s.setTrigger n x).roots = s.roots := rfl
@[simp] theorem setTrigger_tcache (n : Nat) (x : Trigger) : (s.setTrigger n x).tcache = s.tcache := rfl
@[simp] theorem setTrigger_sysCache (n : Nat) (x : Trigger) : (s.setTrigger n x).sysCache = s.sysCache := rfl
@[simp] theorem setTrigger_posted (n : Nat) (x : Trigger) : (s.setTrigger n x).posted = s.posted := rfl
@[simp] theorem setTrigger_reqs (n : Nat) (x : Trigger) : (s.setTrigger n x).reqs = s.reqs := rfl
@[simp] theorem setTrigger_nextReq (n : Nat) (x : Trigger) : (s.setTrigger n x).nextReq = s.nextReq := rfl
@[simp] theorem setTrigger_inflight (n : Nat) (x : Trigger) : (s.setTrigger n x).inflight = s.inflight := rfl
@[simp] theorem setTrigger_localInv (n : Nat) (x : Trigger) : (s.setTrigger n x).localInv = s.localInv := rfl
@[simp] theorem setTrigger_messages (n : Nat) (x : Trigger) : (s.setTrigger n x).messages = s.messages := rfl
@[simp] theorem setTrigger_routes (n : Nat) (x : Trigger) : (s.setTrigger n x).routes = s.routes := rfl
@[simp] theorem setTrigger_qs (n : Nat) (x : Trigger) : (s.setTrigger n x).qs = s.qs := rfl
@[simp] theorem setTrigger_burst (n : Nat) (x : Trigger) : (s.setTrigger n x).burst = s.burst := rfl
@[simp] theorem setTrigger_watch (n : Nat) (x : Trigger) : (s.setTrigger n x).watch = s.watch := rfl
@[simp] theorem setTrigger_selfRefresh (n : Nat) (x : Trigger) : (s.setTrigger n x).selfRefresh = s.selfRefresh := rfl
@[simp] theorem setTrigger_dramExit (n : Nat) (x : Trigger) : (s.setTrigger n x).dramExit = s.dramExit := rfl
@[simp] theorem setTrigger_burstUsed (n : Nat) (x : Trigger) : (s.setTrigger n x).burstUsed = s.burstUsed := rfl
@[simp] theorem setTrigger_watchUsed (n : Nat) (x : Trigger) : (s.setTrigger n x).watchUsed = s.watchUsed := rfl
@[simp] theorem setTrigger_dramUsed (n : Nat) (x : Trigger) : (s.setTrigger n x).dramUsed = s.dramUsed := rfl
@[simp] theorem setTrigger_clocks (n : Nat) (x : Trigger) : (s.setTrigger n x).clocks = s.clocks := rfl
@[simp] theorem setTrigger_requests (n : Nat) (x : Trigger) : (s.setTrigger n x).requests = s.requests := rfl
@[simp] theorem setTrigger_migrations (n : Nat) (x : Trigger) : (s.setTrigger n x).migrations = s.migrations := rfl
@[simp] theorem setTrigger_heel (n : Nat) (x : Trigger) : (s.setTrigger n x).heel = s.heel := rfl
@[simp] theorem setTrigger_routing (n : Nat) (x : Trigger) : (s.setTrigger n x).routing = s.routing := rfl
@[simp] theorem setTrigger_ports (n : Nat) (x : Trigger) : (s.setTrigger n x).ports = s.ports := rfl
@[simp] theorem setTrigger_host (n : Nat) (x : Trigger) : (s.setTrigger n x).host = s.host := rfl
@[simp] theorem setTrigger_mgmt (n : Nat) (x : Trigger) : (s.setTrigger n x).mgmt = s.mgmt := rfl
@[simp] theorem setTrigger_boot (n : Nat) (x : Trigger) : (s.setTrigger n x).boot = s.boot := rfl
@[simp] theorem setTrigger_out (n : Nat) (x : Trigger) : (s.setTrigger n x).out = s.out := rfl

/-! `count` leaves every other field as it is. -/

@[simp] theorem count_agenda (n : Nat) : (s.count n).agenda = s.agenda := rfl
@[simp] theorem count_turn (n : Nat) : (s.count n).turn = s.turn := rfl
@[simp] theorem count_cur (n : Nat) : (s.count n).cur = s.cur := rfl
@[simp] theorem count_freeCtr (n : Nat) : (s.count n).freeCtr = s.freeCtr := rfl
@[simp] theorem count_time (n : Nat) : (s.count n).time = s.time := rfl
@[simp] theorem count_mem (n : Nat) : (s.count n).mem = s.mem := rfl
@[simp] theorem count_empties (n : Nat) : (s.count n).empties = s.empties := rfl
@[simp] theorem count_keyIndex (n : Nat) : (s.count n).keyIndex = s.keyIndex := rfl
@[simp] theorem count_fencedBlocks (n : Nat) : (s.count n).fencedBlocks = s.fencedBlocks := rfl
@[simp] theorem count_cores (n : Nat) : (s.count n).cores = s.cores := rfl
@[simp] theorem count_clusters (n : Nat) : (s.count n).clusters = s.clusters := rfl
@[simp] theorem count_lz (n : Nat) : (s.count n).lz = s.lz := rfl
@[simp] theorem count_ctxs (n : Nat) : (s.count n).ctxs = s.ctxs := rfl
@[simp] theorem count_roots (n : Nat) : (s.count n).roots = s.roots := rfl
@[simp] theorem count_tcache (n : Nat) : (s.count n).tcache = s.tcache := rfl
@[simp] theorem count_sysCache (n : Nat) : (s.count n).sysCache = s.sysCache := rfl
@[simp] theorem count_posted (n : Nat) : (s.count n).posted = s.posted := rfl
@[simp] theorem count_reqs (n : Nat) : (s.count n).reqs = s.reqs := rfl
@[simp] theorem count_nextReq (n : Nat) : (s.count n).nextReq = s.nextReq := rfl
@[simp] theorem count_inflight (n : Nat) : (s.count n).inflight = s.inflight := rfl
@[simp] theorem count_localInv (n : Nat) : (s.count n).localInv = s.localInv := rfl
@[simp] theorem count_messages (n : Nat) : (s.count n).messages = s.messages := rfl
@[simp] theorem count_routes (n : Nat) : (s.count n).routes = s.routes := rfl
@[simp] theorem count_qs (n : Nat) : (s.count n).qs = s.qs := rfl
@[simp] theorem count_burst (n : Nat) : (s.count n).burst = s.burst := rfl
@[simp] theorem count_watch (n : Nat) : (s.count n).watch = s.watch := rfl
@[simp] theorem count_selfRefresh (n : Nat) : (s.count n).selfRefresh = s.selfRefresh := rfl
@[simp] theorem count_dramExit (n : Nat) : (s.count n).dramExit = s.dramExit := rfl
@[simp] theorem count_burstUsed (n : Nat) : (s.count n).burstUsed = s.burstUsed := rfl
@[simp] theorem count_watchUsed (n : Nat) : (s.count n).watchUsed = s.watchUsed := rfl
@[simp] theorem count_dramUsed (n : Nat) : (s.count n).dramUsed = s.dramUsed := rfl
@[simp] theorem count_clocks (n : Nat) : (s.count n).clocks = s.clocks := rfl
@[simp] theorem count_requests (n : Nat) : (s.count n).requests = s.requests := rfl
@[simp] theorem count_triggers (n : Nat) : (s.count n).triggers = s.triggers := rfl
@[simp] theorem count_migrations (n : Nat) : (s.count n).migrations = s.migrations := rfl
@[simp] theorem count_heel (n : Nat) : (s.count n).heel = s.heel := rfl
@[simp] theorem count_routing (n : Nat) : (s.count n).routing = s.routing := rfl
@[simp] theorem count_ports (n : Nat) : (s.count n).ports = s.ports := rfl
@[simp] theorem count_host (n : Nat) : (s.count n).host = s.host := rfl
@[simp] theorem count_boot (n : Nat) : (s.count n).boot = s.boot := rfl
@[simp] theorem count_out (n : Nat) : (s.count n).out = s.out := rfl

/-! `setFull` leaves every other field as it is. -/

@[simp] theorem setFull_agenda (a : Nat) : (s.setFull a).agenda = s.agenda := rfl
@[simp] theorem setFull_turn (a : Nat) : (s.setFull a).turn = s.turn := rfl
@[simp] theorem setFull_cur (a : Nat) : (s.setFull a).cur = s.cur := rfl
@[simp] theorem setFull_freeCtr (a : Nat) : (s.setFull a).freeCtr = s.freeCtr := rfl
@[simp] theorem setFull_time (a : Nat) : (s.setFull a).time = s.time := rfl
@[simp] theorem setFull_mem (a : Nat) : (s.setFull a).mem = s.mem := rfl
@[simp] theorem setFull_keyIndex (a : Nat) : (s.setFull a).keyIndex = s.keyIndex := rfl
@[simp] theorem setFull_fencedBlocks (a : Nat) : (s.setFull a).fencedBlocks = s.fencedBlocks := rfl
@[simp] theorem setFull_cores (a : Nat) : (s.setFull a).cores = s.cores := rfl
@[simp] theorem setFull_clusters (a : Nat) : (s.setFull a).clusters = s.clusters := rfl
@[simp] theorem setFull_lz (a : Nat) : (s.setFull a).lz = s.lz := rfl
@[simp] theorem setFull_ctxs (a : Nat) : (s.setFull a).ctxs = s.ctxs := rfl
@[simp] theorem setFull_roots (a : Nat) : (s.setFull a).roots = s.roots := rfl
@[simp] theorem setFull_tcache (a : Nat) : (s.setFull a).tcache = s.tcache := rfl
@[simp] theorem setFull_sysCache (a : Nat) : (s.setFull a).sysCache = s.sysCache := rfl
@[simp] theorem setFull_posted (a : Nat) : (s.setFull a).posted = s.posted := rfl
@[simp] theorem setFull_reqs (a : Nat) : (s.setFull a).reqs = s.reqs := rfl
@[simp] theorem setFull_nextReq (a : Nat) : (s.setFull a).nextReq = s.nextReq := rfl
@[simp] theorem setFull_inflight (a : Nat) : (s.setFull a).inflight = s.inflight := rfl
@[simp] theorem setFull_localInv (a : Nat) : (s.setFull a).localInv = s.localInv := rfl
@[simp] theorem setFull_messages (a : Nat) : (s.setFull a).messages = s.messages := rfl
@[simp] theorem setFull_routes (a : Nat) : (s.setFull a).routes = s.routes := rfl
@[simp] theorem setFull_qs (a : Nat) : (s.setFull a).qs = s.qs := rfl
@[simp] theorem setFull_burst (a : Nat) : (s.setFull a).burst = s.burst := rfl
@[simp] theorem setFull_watch (a : Nat) : (s.setFull a).watch = s.watch := rfl
@[simp] theorem setFull_selfRefresh (a : Nat) : (s.setFull a).selfRefresh = s.selfRefresh := rfl
@[simp] theorem setFull_dramExit (a : Nat) : (s.setFull a).dramExit = s.dramExit := rfl
@[simp] theorem setFull_burstUsed (a : Nat) : (s.setFull a).burstUsed = s.burstUsed := rfl
@[simp] theorem setFull_watchUsed (a : Nat) : (s.setFull a).watchUsed = s.watchUsed := rfl
@[simp] theorem setFull_dramUsed (a : Nat) : (s.setFull a).dramUsed = s.dramUsed := rfl
@[simp] theorem setFull_clocks (a : Nat) : (s.setFull a).clocks = s.clocks := rfl
@[simp] theorem setFull_requests (a : Nat) : (s.setFull a).requests = s.requests := rfl
@[simp] theorem setFull_triggers (a : Nat) : (s.setFull a).triggers = s.triggers := rfl
@[simp] theorem setFull_migrations (a : Nat) : (s.setFull a).migrations = s.migrations := rfl
@[simp] theorem setFull_heel (a : Nat) : (s.setFull a).heel = s.heel := rfl
@[simp] theorem setFull_routing (a : Nat) : (s.setFull a).routing = s.routing := rfl
@[simp] theorem setFull_ports (a : Nat) : (s.setFull a).ports = s.ports := rfl
@[simp] theorem setFull_host (a : Nat) : (s.setFull a).host = s.host := rfl
@[simp] theorem setFull_mgmt (a : Nat) : (s.setFull a).mgmt = s.mgmt := rfl
@[simp] theorem setFull_boot (a : Nat) : (s.setFull a).boot = s.boot := rfl
@[simp] theorem setFull_out (a : Nat) : (s.setFull a).out = s.out := rfl

/-! `setEmpty` leaves every other field as it is. -/

@[simp] theorem setEmpty_agenda (a : Nat) : (s.setEmpty a).agenda = s.agenda := rfl
@[simp] theorem setEmpty_turn (a : Nat) : (s.setEmpty a).turn = s.turn := rfl
@[simp] theorem setEmpty_cur (a : Nat) : (s.setEmpty a).cur = s.cur := rfl
@[simp] theorem setEmpty_freeCtr (a : Nat) : (s.setEmpty a).freeCtr = s.freeCtr := rfl
@[simp] theorem setEmpty_time (a : Nat) : (s.setEmpty a).time = s.time := rfl
@[simp] theorem setEmpty_mem (a : Nat) : (s.setEmpty a).mem = s.mem := rfl
@[simp] theorem setEmpty_keyIndex (a : Nat) : (s.setEmpty a).keyIndex = s.keyIndex := rfl
@[simp] theorem setEmpty_fencedBlocks (a : Nat) : (s.setEmpty a).fencedBlocks = s.fencedBlocks := rfl
@[simp] theorem setEmpty_cores (a : Nat) : (s.setEmpty a).cores = s.cores := rfl
@[simp] theorem setEmpty_clusters (a : Nat) : (s.setEmpty a).clusters = s.clusters := rfl
@[simp] theorem setEmpty_lz (a : Nat) : (s.setEmpty a).lz = s.lz := rfl
@[simp] theorem setEmpty_ctxs (a : Nat) : (s.setEmpty a).ctxs = s.ctxs := rfl
@[simp] theorem setEmpty_roots (a : Nat) : (s.setEmpty a).roots = s.roots := rfl
@[simp] theorem setEmpty_tcache (a : Nat) : (s.setEmpty a).tcache = s.tcache := rfl
@[simp] theorem setEmpty_sysCache (a : Nat) : (s.setEmpty a).sysCache = s.sysCache := rfl
@[simp] theorem setEmpty_posted (a : Nat) : (s.setEmpty a).posted = s.posted := rfl
@[simp] theorem setEmpty_reqs (a : Nat) : (s.setEmpty a).reqs = s.reqs := rfl
@[simp] theorem setEmpty_nextReq (a : Nat) : (s.setEmpty a).nextReq = s.nextReq := rfl
@[simp] theorem setEmpty_inflight (a : Nat) : (s.setEmpty a).inflight = s.inflight := rfl
@[simp] theorem setEmpty_localInv (a : Nat) : (s.setEmpty a).localInv = s.localInv := rfl
@[simp] theorem setEmpty_messages (a : Nat) : (s.setEmpty a).messages = s.messages := rfl
@[simp] theorem setEmpty_routes (a : Nat) : (s.setEmpty a).routes = s.routes := rfl
@[simp] theorem setEmpty_qs (a : Nat) : (s.setEmpty a).qs = s.qs := rfl
@[simp] theorem setEmpty_burst (a : Nat) : (s.setEmpty a).burst = s.burst := rfl
@[simp] theorem setEmpty_watch (a : Nat) : (s.setEmpty a).watch = s.watch := rfl
@[simp] theorem setEmpty_selfRefresh (a : Nat) : (s.setEmpty a).selfRefresh = s.selfRefresh := rfl
@[simp] theorem setEmpty_dramExit (a : Nat) : (s.setEmpty a).dramExit = s.dramExit := rfl
@[simp] theorem setEmpty_burstUsed (a : Nat) : (s.setEmpty a).burstUsed = s.burstUsed := rfl
@[simp] theorem setEmpty_watchUsed (a : Nat) : (s.setEmpty a).watchUsed = s.watchUsed := rfl
@[simp] theorem setEmpty_dramUsed (a : Nat) : (s.setEmpty a).dramUsed = s.dramUsed := rfl
@[simp] theorem setEmpty_clocks (a : Nat) : (s.setEmpty a).clocks = s.clocks := rfl
@[simp] theorem setEmpty_requests (a : Nat) : (s.setEmpty a).requests = s.requests := rfl
@[simp] theorem setEmpty_triggers (a : Nat) : (s.setEmpty a).triggers = s.triggers := rfl
@[simp] theorem setEmpty_migrations (a : Nat) : (s.setEmpty a).migrations = s.migrations := rfl
@[simp] theorem setEmpty_heel (a : Nat) : (s.setEmpty a).heel = s.heel := rfl
@[simp] theorem setEmpty_routing (a : Nat) : (s.setEmpty a).routing = s.routing := rfl
@[simp] theorem setEmpty_ports (a : Nat) : (s.setEmpty a).ports = s.ports := rfl
@[simp] theorem setEmpty_host (a : Nat) : (s.setEmpty a).host = s.host := rfl
@[simp] theorem setEmpty_mgmt (a : Nat) : (s.setEmpty a).mgmt = s.mgmt := rfl
@[simp] theorem setEmpty_boot (a : Nat) : (s.setEmpty a).boot = s.boot := rfl
@[simp] theorem setEmpty_out (a : Nat) : (s.setEmpty a).out = s.out := rfl

/-! `write` leaves every other field as it is. -/

@[simp] theorem write_agenda (a n v : Nat) : (s.write a n v).agenda = s.agenda := rfl
@[simp] theorem write_turn (a n v : Nat) : (s.write a n v).turn = s.turn := rfl
@[simp] theorem write_cur (a n v : Nat) : (s.write a n v).cur = s.cur := rfl
@[simp] theorem write_freeCtr (a n v : Nat) : (s.write a n v).freeCtr = s.freeCtr := rfl
@[simp] theorem write_time (a n v : Nat) : (s.write a n v).time = s.time := rfl
@[simp] theorem write_empties (a n v : Nat) : (s.write a n v).empties = s.empties := rfl
@[simp] theorem write_keyIndex (a n v : Nat) : (s.write a n v).keyIndex = s.keyIndex := rfl
@[simp] theorem write_fencedBlocks (a n v : Nat) : (s.write a n v).fencedBlocks = s.fencedBlocks := rfl
@[simp] theorem write_cores (a n v : Nat) : (s.write a n v).cores = s.cores := rfl
@[simp] theorem write_clusters (a n v : Nat) : (s.write a n v).clusters = s.clusters := rfl
@[simp] theorem write_lz (a n v : Nat) : (s.write a n v).lz = s.lz := rfl
@[simp] theorem write_ctxs (a n v : Nat) : (s.write a n v).ctxs = s.ctxs := rfl
@[simp] theorem write_roots (a n v : Nat) : (s.write a n v).roots = s.roots := rfl
@[simp] theorem write_tcache (a n v : Nat) : (s.write a n v).tcache = s.tcache := rfl
@[simp] theorem write_sysCache (a n v : Nat) : (s.write a n v).sysCache = s.sysCache := rfl
@[simp] theorem write_posted (a n v : Nat) : (s.write a n v).posted = s.posted := rfl
@[simp] theorem write_reqs (a n v : Nat) : (s.write a n v).reqs = s.reqs := rfl
@[simp] theorem write_nextReq (a n v : Nat) : (s.write a n v).nextReq = s.nextReq := rfl
@[simp] theorem write_inflight (a n v : Nat) : (s.write a n v).inflight = s.inflight := rfl
@[simp] theorem write_localInv (a n v : Nat) : (s.write a n v).localInv = s.localInv := rfl
@[simp] theorem write_messages (a n v : Nat) : (s.write a n v).messages = s.messages := rfl
@[simp] theorem write_routes (a n v : Nat) : (s.write a n v).routes = s.routes := rfl
@[simp] theorem write_qs (a n v : Nat) : (s.write a n v).qs = s.qs := rfl
@[simp] theorem write_burst (a n v : Nat) : (s.write a n v).burst = s.burst := rfl
@[simp] theorem write_watch (a n v : Nat) : (s.write a n v).watch = s.watch := rfl
@[simp] theorem write_selfRefresh (a n v : Nat) : (s.write a n v).selfRefresh = s.selfRefresh := rfl
@[simp] theorem write_dramExit (a n v : Nat) : (s.write a n v).dramExit = s.dramExit := rfl
@[simp] theorem write_burstUsed (a n v : Nat) : (s.write a n v).burstUsed = s.burstUsed := rfl
@[simp] theorem write_watchUsed (a n v : Nat) : (s.write a n v).watchUsed = s.watchUsed := rfl
@[simp] theorem write_dramUsed (a n v : Nat) : (s.write a n v).dramUsed = s.dramUsed := rfl
@[simp] theorem write_clocks (a n v : Nat) : (s.write a n v).clocks = s.clocks := rfl
@[simp] theorem write_requests (a n v : Nat) : (s.write a n v).requests = s.requests := rfl
@[simp] theorem write_triggers (a n v : Nat) : (s.write a n v).triggers = s.triggers := rfl
@[simp] theorem write_migrations (a n v : Nat) : (s.write a n v).migrations = s.migrations := rfl
@[simp] theorem write_heel (a n v : Nat) : (s.write a n v).heel = s.heel := rfl
@[simp] theorem write_routing (a n v : Nat) : (s.write a n v).routing = s.routing := rfl
@[simp] theorem write_ports (a n v : Nat) : (s.write a n v).ports = s.ports := rfl
@[simp] theorem write_host (a n v : Nat) : (s.write a n v).host = s.host := rfl
@[simp] theorem write_mgmt (a n v : Nat) : (s.write a n v).mgmt = s.mgmt := rfl
@[simp] theorem write_boot (a n v : Nat) : (s.write a n v).boot = s.boot := rfl
@[simp] theorem write_out (a n v : Nat) : (s.write a n v).out = s.out := rfl

/-! `writeEn` leaves every other field as it is. -/

@[simp] theorem writeEn_agenda (a : Nat) (v : Vec) (en : BitVec 64) : (s.writeEn a v en).agenda = s.agenda := rfl
@[simp] theorem writeEn_turn (a : Nat) (v : Vec) (en : BitVec 64) : (s.writeEn a v en).turn = s.turn := rfl
@[simp] theorem writeEn_cur (a : Nat) (v : Vec) (en : BitVec 64) : (s.writeEn a v en).cur = s.cur := rfl
@[simp] theorem writeEn_freeCtr (a : Nat) (v : Vec) (en : BitVec 64) : (s.writeEn a v en).freeCtr = s.freeCtr := rfl
@[simp] theorem writeEn_time (a : Nat) (v : Vec) (en : BitVec 64) : (s.writeEn a v en).time = s.time := rfl
@[simp] theorem writeEn_empties (a : Nat) (v : Vec) (en : BitVec 64) : (s.writeEn a v en).empties = s.empties := rfl
@[simp] theorem writeEn_keyIndex (a : Nat) (v : Vec) (en : BitVec 64) : (s.writeEn a v en).keyIndex = s.keyIndex := rfl
@[simp] theorem writeEn_fencedBlocks (a : Nat) (v : Vec) (en : BitVec 64) : (s.writeEn a v en).fencedBlocks = s.fencedBlocks := rfl
@[simp] theorem writeEn_cores (a : Nat) (v : Vec) (en : BitVec 64) : (s.writeEn a v en).cores = s.cores := rfl
@[simp] theorem writeEn_clusters (a : Nat) (v : Vec) (en : BitVec 64) : (s.writeEn a v en).clusters = s.clusters := rfl
@[simp] theorem writeEn_lz (a : Nat) (v : Vec) (en : BitVec 64) : (s.writeEn a v en).lz = s.lz := rfl
@[simp] theorem writeEn_ctxs (a : Nat) (v : Vec) (en : BitVec 64) : (s.writeEn a v en).ctxs = s.ctxs := rfl
@[simp] theorem writeEn_roots (a : Nat) (v : Vec) (en : BitVec 64) : (s.writeEn a v en).roots = s.roots := rfl
@[simp] theorem writeEn_tcache (a : Nat) (v : Vec) (en : BitVec 64) : (s.writeEn a v en).tcache = s.tcache := rfl
@[simp] theorem writeEn_sysCache (a : Nat) (v : Vec) (en : BitVec 64) : (s.writeEn a v en).sysCache = s.sysCache := rfl
@[simp] theorem writeEn_posted (a : Nat) (v : Vec) (en : BitVec 64) : (s.writeEn a v en).posted = s.posted := rfl
@[simp] theorem writeEn_reqs (a : Nat) (v : Vec) (en : BitVec 64) : (s.writeEn a v en).reqs = s.reqs := rfl
@[simp] theorem writeEn_nextReq (a : Nat) (v : Vec) (en : BitVec 64) : (s.writeEn a v en).nextReq = s.nextReq := rfl
@[simp] theorem writeEn_inflight (a : Nat) (v : Vec) (en : BitVec 64) : (s.writeEn a v en).inflight = s.inflight := rfl
@[simp] theorem writeEn_localInv (a : Nat) (v : Vec) (en : BitVec 64) : (s.writeEn a v en).localInv = s.localInv := rfl
@[simp] theorem writeEn_messages (a : Nat) (v : Vec) (en : BitVec 64) : (s.writeEn a v en).messages = s.messages := rfl
@[simp] theorem writeEn_routes (a : Nat) (v : Vec) (en : BitVec 64) : (s.writeEn a v en).routes = s.routes := rfl
@[simp] theorem writeEn_qs (a : Nat) (v : Vec) (en : BitVec 64) : (s.writeEn a v en).qs = s.qs := rfl
@[simp] theorem writeEn_burst (a : Nat) (v : Vec) (en : BitVec 64) : (s.writeEn a v en).burst = s.burst := rfl
@[simp] theorem writeEn_watch (a : Nat) (v : Vec) (en : BitVec 64) : (s.writeEn a v en).watch = s.watch := rfl
@[simp] theorem writeEn_selfRefresh (a : Nat) (v : Vec) (en : BitVec 64) : (s.writeEn a v en).selfRefresh = s.selfRefresh := rfl
@[simp] theorem writeEn_dramExit (a : Nat) (v : Vec) (en : BitVec 64) : (s.writeEn a v en).dramExit = s.dramExit := rfl
@[simp] theorem writeEn_burstUsed (a : Nat) (v : Vec) (en : BitVec 64) : (s.writeEn a v en).burstUsed = s.burstUsed := rfl
@[simp] theorem writeEn_watchUsed (a : Nat) (v : Vec) (en : BitVec 64) : (s.writeEn a v en).watchUsed = s.watchUsed := rfl
@[simp] theorem writeEn_dramUsed (a : Nat) (v : Vec) (en : BitVec 64) : (s.writeEn a v en).dramUsed = s.dramUsed := rfl
@[simp] theorem writeEn_clocks (a : Nat) (v : Vec) (en : BitVec 64) : (s.writeEn a v en).clocks = s.clocks := rfl
@[simp] theorem writeEn_requests (a : Nat) (v : Vec) (en : BitVec 64) : (s.writeEn a v en).requests = s.requests := rfl
@[simp] theorem writeEn_triggers (a : Nat) (v : Vec) (en : BitVec 64) : (s.writeEn a v en).triggers = s.triggers := rfl
@[simp] theorem writeEn_migrations (a : Nat) (v : Vec) (en : BitVec 64) : (s.writeEn a v en).migrations = s.migrations := rfl
@[simp] theorem writeEn_heel (a : Nat) (v : Vec) (en : BitVec 64) : (s.writeEn a v en).heel = s.heel := rfl
@[simp] theorem writeEn_routing (a : Nat) (v : Vec) (en : BitVec 64) : (s.writeEn a v en).routing = s.routing := rfl
@[simp] theorem writeEn_ports (a : Nat) (v : Vec) (en : BitVec 64) : (s.writeEn a v en).ports = s.ports := rfl
@[simp] theorem writeEn_host (a : Nat) (v : Vec) (en : BitVec 64) : (s.writeEn a v en).host = s.host := rfl
@[simp] theorem writeEn_mgmt (a : Nat) (v : Vec) (en : BitVec 64) : (s.writeEn a v en).mgmt = s.mgmt := rfl
@[simp] theorem writeEn_boot (a : Nat) (v : Vec) (en : BitVec 64) : (s.writeEn a v en).boot = s.boot := rfl
@[simp] theorem writeEn_out (a : Nat) (v : Vec) (en : BitVec 64) : (s.writeEn a v en).out = s.out := rfl

end State
end Sys2Proof.Machine
end

