-- ==== Sys2Proof/Laws/Exec.lean ====
section
/-! SUPPORT. How instruction programs run: one law per shared operation of Machine/Ops.lean (R18-R21, R32-R37). -/

namespace Sys2Proof.Machine
open Exec

namespace Exec

/-! ### The monad -/

theorem bind_ok {α β : Type} {x : Exec α} {f : α → Exec β} {e e' : Env} {a : α} (h : EStateM.run x e = .ok a e') :
    EStateM.run (x >>= f) e = EStateM.run (f a) e' := by
  show EStateM.bind x f e = _
  have h : x e = .ok a e' := h
  simp [EStateM.bind, h, EStateM.run]

theorem bind_err {α β : Type} {x : Exec α} {f : α → Exec β} {e e' : Env} {a : Halt} (h : EStateM.run x e = .error a e') :
    EStateM.run (x >>= f) e = .error a e' := by
  show EStateM.bind x f e = _
  have h : x e = .error a e' := h
  simp [EStateM.bind, h]

theorem bind_pure_run {α β : Type} (a : α) (f : α → Exec β) : ((pure a : Exec α) >>= f) = f a := rfl

theorem bind_assoc_run {α β γ : Type} (x : Exec α) (f : α → Exec β) (g : β → Exec γ) :
    ((x >>= f) >>= g) = (x >>= fun a => f a >>= g) := by
  simp

theorem pure_ok {α : Type} (a : α) (e : Env) : EStateM.run (pure a : Exec α) e = .ok a e := rfl
theorem get_ok (e : Env) : EStateM.run (get : Exec Env) e = .ok e e := rfl
theorem set_ok (e' e : Env) : EStateM.run (set e' : Exec PUnit) e = .ok ⟨⟩ e' := rfl
theorem modify_ok (f : Env → Env) (e : Env) : EStateM.run (modify f : Exec PUnit) e = .ok ⟨⟩ (f e) := rfl
theorem throw_err {α : Type} (h : Halt) (e : Env) : EStateM.run (throw h : Exec α) e = .error h e := rfl
theorem modS_ok (f : State → State) (e : Env) : EStateM.run (modS f) e = .ok () { e with s := f e.s } := rfl
theorem modKeep_ok (f : State → State) (e : Env) : EStateM.run (modKeep f) e = .ok () { e with keep := f e.keep } := rfl
theorem both_ok (f : State → State) (e : Env) : EStateM.run (both f) e = .ok () { e with s := f e.s, keep := f e.keep } := rfl
theorem modTh_ok (f : Thread → Thread) (e : Env) : EStateM.run (modTh f) e = .ok () { e with th := f e.th } := rfl
theorem modKeepTh_ok (f : Thread → Thread) (e : Env) :
    EStateM.run (modKeepTh f) e = .ok () { e with keep := e.keep.updThread e.core e.slot f } := rfl
theorem updCore_ok (f : Core → Core) (e : Env) : EStateM.run (updCore f) e = .ok () { e with s := e.s.updCore e.core f } := rfl
theorem latency_ok (n : Nat) (e : Env) : EStateM.run (latency n) e = .ok () { e with lat := n } := rfl
theorem trap_err {α : Type} (c : Byte) (a : Word) (e : Env) :
    EStateM.run (trap c a : Exec α) e = .error (.trap (mkStop e c a)) e := rfl
theorem writePred_ok (p : BitVec 3) (b : Bool) (e : Env) :
    EStateM.run (writePred p b) e = .ok () { e with th := { e.th with pred := setPred e.th.pred p b } } := rfl

theorem nextPc_ok (e : Env) : EStateM.run nextPc e = .ok (nextHead e.th) e := by
  unfold nextPc nextHead
  rw [bind_ok (get_ok _)]
  cases hl : e.th.line <;> simp only <;> split <;> rfl

/-! ### Register fields (R18-R21) -/

theorem unpaired_ok {e : Env} (h : e.th.twin.isSome = false) : EStateM.run unpaired e = .ok () e := by
  unfold unpaired
  rw [bind_ok (get_ok _)]
  simp only [h, Bool.false_eq_true, if_false, pure_ok]

theorem chan_ok {e : Env} {wr : Bool} {r : Reg} {x : Option Chan} (h : fieldChan e.th wr r = some x) :
    EStateM.run (chan wr r) e = .ok x e := by
  unfold fieldChan at h
  unfold chan
  cases r with
  | x n =>
    simp only at h ⊢
    split at h
    · cases h
    · rename_i hp
      rw [bind_ok (unpaired_ok (by simpa using hp)), bind_ok (get_ok _)]
      split at h
      · rename_i b hb
        try simp only [hb]
        split at h
        · rename_i hw
          cases h
          simp [hw, pure_ok]
        · cases h
      · cases h
  | lw =>
    simp only at h ⊢
    split at h
    · cases h
    · rename_i hp
      cases h
      rw [bind_ok (unpaired_ok (by simpa using hp))]
      rfl
  | le =>
    simp only at h ⊢
    split at h
    · cases h
    · rename_i hp
      cases h
      rw [bind_ok (unpaired_ok (by simpa using hp))]
      rfl
  | g n => cases h; rfl
  | z => cases h; rfl

theorem mapM_chan_ok {e : Env} {wr : Bool} : ∀ {l : List Reg} {x : List (Option Chan)},
    l.mapM (fieldChan e.th wr) = some x → EStateM.run (l.mapM (chan wr) : Exec _) e = .ok x e
  | [], x, h => by
    simp at h
    cases h
    simp [pure_ok]
  | r :: l, x, h => by
    simp only [List.mapM_cons, Option.bind_eq_bind, Option.bind_eq_some_iff, Option.pure_def, Option.some.injEq] at h ⊢
    obtain ⟨a, ha, b, hb, rfl⟩ := h
    rw [bind_ok (chan_ok ha), bind_ok (mapM_chan_ok hb), pure_ok]

/-- Taking fields one by one with the channels they name. -/
theorem take_zip (c k : Nat) (t : Thread) : ∀ (srcs : List Reg) (rd : List (Option Chan)) (acc : List Word × State),
    srcs.mapM (fieldChan t false) = some rd →
    (srcs.zip rd).foldl (fun (acc : List Word × State) (p : Reg × Option Chan) =>
      match p.2 with
      | some ch => (acc.1 ++ [(present acc.2 c k ch).headD 0], popChan acc.2 c ch)
      | none => (acc.1 ++ [regVal t p.1], acc.2)) acc = srcs.foldl (takeField c k t) acc
  | [], rd, acc, h => by
    simp at h
    cases h
    rfl
  | r :: l, rd, acc, h => by
    simp only [List.mapM_cons, Option.bind_eq_bind, Option.bind_eq_some_iff, Option.pure_def, Option.some.injEq] at h
    obtain ⟨a, ha, b, hb, rfl⟩ := h
    simp only [List.zip_cons_cons, List.foldl_cons]
    rw [take_zip c k t l b _ hb]
    congr 1
    unfold takeField
    rw [ha]
    cases a <;> rfl

/-- The state a park leaves holds at most reservations of the thread (R20). -/
def Held (e : Env) (keep : State) : Prop :=
  keep = e.keep ∨ ∃ p r, keep = e.keep.updThread e.core e.slot fun t => { t with heldPops := p, heldRoom := r }

/-- Reading and reserving the fields of an instruction whose fields are ready (R18-R20). -/
theorem operands_held {e : Env} {srcs dsts : List Reg} (h : fieldsReady e.s e.core e.slot e.th srcs dsts = true)
    (hr : e.rowEnd = false) :
    ∃ keep pops, Held e keep ∧ EStateM.run (operands srcs dsts) e =
      .ok (takeFields e.s e.core e.slot e.th srcs).1 { e with
        s := (takeFields e.s e.core e.slot e.th srcs).2, keep := keep, pops := pops } := by
  unfold fieldsReady at h
  split at h
  case h_2 => cases h
  case h_1 rd wr hrd hwr =>
  simp only [Bool.and_eq_true] at h
  obtain ⟨⟨hends, hp⟩, hw⟩ := h
  have hE : (wr.filterMap id).filter (fun c => c == .west && (linkEnd e.s e.core false).isNone ||
      c == .east && (linkEnd e.s e.core true).isNone) = [] := by
    rw [List.filter_eq_nil_iff]
    intro a ha
    have := List.all_eq_true.mp hends a ha
    simp only [rowEndAt] at this
    simp only [Bool.not_eq_true'] at this
    simp only [this, Bool.false_eq_true, not_false_eq_true]
  unfold operands
  rw [bind_ok (mapM_chan_ok hrd), bind_ok (mapM_chan_ok hwr), bind_ok (get_ok _)]
  have hR : (wr.filterMap id).filter (fun c => !([] : List Chan).contains c) = wr.filterMap id := by simp
  simp only [hE, hR]
  have hok : ((rd.filterMap id).all (fun c => decide (((rd.filterMap id).filter (· == c)).length ≤ (present e.s e.core e.slot c).length))
    && (wr.filterMap id).all (fun c => decide (((wr.filterMap id).filter (· == c)).length ≤ room e.s e.core e.slot c))) = true := by
    simp only [uses] at hp hw
    exact (Bool.and_eq_true _ _).mpr ⟨hp, hw⟩
  have hz := take_zip e.core e.slot e.th srcs rd ([], e.s) hrd
  simp only [hok, Bool.not_true, Bool.false_eq_true, if_false, bind_pure_run]
  rw [bind_ok (modify_ok _ _)]
  cases e
  simp only at hr
  subst hr
  by_cases hc : ((rd.filterMap id).isEmpty && (wr.filterMap id).isEmpty) = true
  · simp only [hc, if_true, bind_pure_run]
    exact ⟨_, _, .inl rfl, Eq.trans rfl (congrArg (fun (p : List Word × State) => EStateM.Result.ok p.1 (Env.mk _ _ p.2 _ _ _ _ _ _ _ _ _ _ _)) hz)⟩
  · simp only [hc]
    rw [if_neg (by simp), bind_ok (modKeepTh_ok _ _)]
    exact ⟨_, _, .inr ⟨_, _, rfl⟩, Eq.trans rfl (congrArg (fun (p : List Word × State) => EStateM.Result.ok p.1 (Env.mk _ _ p.2 _ _ _ _ _ _ _ _ _ _ _)) hz)⟩

theorem operands_ok {e : Env} {srcs dsts : List Reg} (h : fieldsReady e.s e.core e.slot e.th srcs dsts = true)
    (hr : e.rowEnd = false) :
    ∃ keep pops, EStateM.run (operands srcs dsts) e =
      .ok (takeFields e.s e.core e.slot e.th srcs).1 { e with
        s := (takeFields e.s e.core e.slot e.th srcs).2, keep := keep, pops := pops } := by
  obtain ⟨keep, pops, -, h⟩ := operands_held h hr
  exact ⟨keep, pops, h⟩

/-- The start of an instruction. -/
def start (s : State) (c k : Nat) (t : Thread) : Env := { core := c, slot := k, s := s, keep := s, th := t }

theorem src1_ok {e : Env} {a : Reg} {dsts : List Reg} (h : fieldsReady e.s e.core e.slot e.th [a] dsts = true)
    (hr : e.rowEnd = false) :
    ∃ keep pops, EStateM.run (src1 a dsts) e =
      .ok ((takeFields e.s e.core e.slot e.th [a]).1.headD 0)
        { e with s := (takeFields e.s e.core e.slot e.th [a]).2, keep := keep, pops := pops } := by
  obtain ⟨keep, pops, h⟩ := operands_ok h hr
  refine ⟨keep, pops, ?_⟩
  unfold src1
  rw [bind_ok h, pure_ok]

theorem src2_ok {e : Env} {a b : Reg} {dsts : List Reg} (h : fieldsReady e.s e.core e.slot e.th [a, b] dsts = true)
    (hr : e.rowEnd = false) :
    ∃ keep pops, EStateM.run (src2 a b dsts) e =
      .ok ((takeFields e.s e.core e.slot e.th [a, b]).1.headD 0, ((takeFields e.s e.core e.slot e.th [a, b]).1.drop 1).headD 0)
        { e with s := (takeFields e.s e.core e.slot e.th [a, b]).2, keep := keep, pops := pops } := by
  obtain ⟨keep, pops, h⟩ := operands_ok h hr
  refine ⟨keep, pops, ?_⟩
  unfold src2
  rw [bind_ok h, pure_ok]

theorem src3_ok {e : Env} {a b c : Reg} {dsts : List Reg} (h : fieldsReady e.s e.core e.slot e.th [a, b, c] dsts = true)
    (hr : e.rowEnd = false) :
    ∃ keep pops, EStateM.run (src3 a b c dsts) e =
      .ok ((takeFields e.s e.core e.slot e.th [a, b, c]).1.headD 0, ((takeFields e.s e.core e.slot e.th [a, b, c]).1.drop 1).headD 0,
          ((takeFields e.s e.core e.slot e.th [a, b, c]).1.drop 2).headD 0)
        { e with s := (takeFields e.s e.core e.slot e.th [a, b, c]).2, keep := keep, pops := pops } := by
  obtain ⟨keep, pops, h⟩ := operands_ok h hr
  refine ⟨keep, pops, ?_⟩
  unfold src3
  rw [bind_ok h, pure_ok]

/-- A destination field names something that can be written. -/
theorem fieldsReady_dst {s : State} {c k : Nat} {t : Thread} {srcs dsts : List Reg} {d : Reg}
    (h : fieldsReady s c k t srcs dsts = true) (hd : d ∈ dsts) : ∃ x, fieldChan t true d = some x := by
  unfold fieldsReady at h
  split at h
  case h_2 => cases h
  case h_1 rd wr hrd hwr =>
  clear h hrd
  induction dsts generalizing wr with
  | nil => cases hd
  | cons r l ih =>
    simp only [List.mapM_cons, Option.bind_eq_bind, Option.bind_eq_some_iff, Option.pure_def, Option.some.injEq] at hwr
    obtain ⟨a, ha, b, hb, rfl⟩ := hwr
    cases hd with
    | head => exact ⟨a, ha⟩
    | tail _ hd => exact ih hd b hb

/-- Writing a destination field (R18). -/
theorem write_ok {e : Env} {d : Reg} {w : Word} (h : ∃ x, fieldChan e.th true d = some x) (hr : e.rowEnd = false) :
    ∃ pushes, EStateM.run (write d w) e =
      .ok () { e with s := (putField e.core d w (e.s, e.th)).1, th := (putField e.core d w (e.s, e.th)).2, pushes := pushes } := by
  obtain ⟨x, hx⟩ := h
  cases e with | mk core slot s keep th lat log used unit pops pushes rowEnd ends job =>
  simp only at hx hr
  subst hr
  cases d with
  | g n => exact ⟨pushes, rfl⟩
  | z => exact ⟨pushes, rfl⟩
  | x n =>
    unfold write putField
    simp only
    rw [bind_ok (chan_ok hx)]
    simp only [hx]
    cases x with
    | none => exact ⟨pushes, rfl⟩
    | some ch => exact ⟨_, rfl⟩
  | lw =>
    unfold write putField
    simp only
    rw [bind_ok (chan_ok hx)]
    simp only [hx]
    cases x with
    | none => exact ⟨pushes, rfl⟩
    | some ch => exact ⟨_, rfl⟩
  | le =>
    unfold write putField
    simp only
    rw [bind_ok (chan_ok hx)]
    simp only [hx]
    cases x with
    | none => exact ⟨pushes, rfl⟩
    | some ch => exact ⟨_, rfl⟩

/-! ### Entering a line and completing (R32, R36, R37) -/

theorem ctx_ok (e : Env) : EStateM.run ctx e = .ok (e.s.ctxOf e.core, (e.s.ctx (e.s.ctxOf e.core)).getD {}) e := rfl

theorem rights_ok {e : Env} {a addr : Word} {p : PlbEntry} {s1 : State} (h : entryAt e.s e.core e.th a = some (p, s1)) :
    ∃ used, EStateM.run (rights a addr) e = .ok p.rights { e with s := s1, used := used } := by
  unfold entryAt State.keyOf at h
  unfold rights
  rw [bind_ok (get_ok _), bind_ok (ctx_ok _)]
  simp only at h ⊢
  split at h
  · rename_i hf
    cases h
    exact ⟨e.used, by simp only [hf]; rfl⟩
  · cases h
  · rename_i hf
    simp only [hf]
    rw [Option.map_eq_some_iff] at h
    obtain ⟨q, hq, h⟩ := h
    cases h
    simp only [hq]
    exact ⟨_, by rw [bind_ok (updCore_ok _ _), bind_ok (modify_ok _ _), pure_ok]⟩

theorem lineRights_ok {e : Env} {p : Place} {a pc : Word} {s1 : State} (h : (match p with
      | .mgmt _ => some e.s
      | _ => match entryAt e.s e.core e.th a with
        | some (en, s1) => if en.rights &&& rX = rX then some s1 else none
        | none => none) = some s1) : ∃ used, EStateM.run (lineRights p a pc) e = .ok () { e with s := s1, used := used } := by
  have paged : (match entryAt e.s e.core e.th a with
        | some (en, s1) => if en.rights &&& rX = rX then some s1 else none
        | none => none) = some s1 → ∃ used, EStateM.run (do
          let r ← rights a pc
          if r &&& rX = rX then pure () else trap 0x14#8 pc : Exec Unit) e = .ok () { e with s := s1, used := used } := by
    intro hx
    split at hx
    · rename_i en s2 hen
      split at hx
      · rename_i hr
        cases hx
        obtain ⟨used, hrun⟩ := rights_ok (addr := pc) hen
        exact ⟨used, by rw [bind_ok hrun, if_pos hr, pure_ok]⟩
      · cases hx
    · cases hx
  cases p with
  | mgmt off =>
    cases h
    exact ⟨e.used, rfl⟩
  | sram q => exact paged h
  | paged q => exact paged h

theorem lineFor_ok {e e' : Env} {p : Place} {pc : Word} {l : Line} (h : lineHeld e.s e.core e.th p (lineNum pc) = some l) :
    EStateM.run (lineFor e p pc) e' = .ok l e' := by
  unfold lineHeld at h
  unfold lineFor
  split at h
  · rename_i l1 hf
    split at h
    · rename_i hn
      cases h
      simp only [hf, hn, if_true, pure_ok]
    · cases h
  · cases h
  · rename_i hf
    split at h
    · rename_i hc
      split at h
      · rename_i b hb
        cases h
        simp only [hf, hc, if_true, hb, pure_ok]
      · cases h
    · cases h

/-- A line that is at hand is entered without waiting (R36, R37). -/
theorem fetchLine_ok {e : Env} {pc : Word} {l : Line} {s' : State} (h : bufferedLine e.s e.core e.th (lineNum pc) = some (l, s')) :
    ∃ used, EStateM.run (fetchLine pc) e = .ok l { e with s := s', used := used } := by
  unfold bufferedLine at h
  simp only at h
  split at h
  · cases h
  rename_i hl
  split at h
  · cases h
  rename_i q hm
  split at h
  case h_2 => cases h
  rename_i hchk hheld
  split at h
  case isFalse => cases h
  rename_i ho
  cases h
  have hfence : e.th.fenceLeft = 0 := by simpa using hl
  obtain ⟨used, hr⟩ := lineRights_ok (pc := pc) hchk
  refine ⟨used, ?_⟩
  unfold fetchLine
  rw [bind_ok (get_ok _), bind_ok (ctx_ok _)]
  simp only [hfence, ne_eq, not_true_eq_false, if_false, bind_pure_run, hm]
  rw [bind_ok hr, bind_ok (lineFor_ok hheld), if_pos ho, pure_ok]

/-- Entering a line without waiting (R32). -/
theorem enter_ok {e : Env} {pc : Word} {l : Line} {s' : State} (he : e.th.entered = none) (h : lineAt e.s e.core e.th pc = some (l, s')) :
    ∃ used, EStateM.run (enter pc) e = .ok l { e with s := s', used := used } := by
  unfold lineAt at h
  split at h
  · cases h
  rename_i hpc
  have fin : ∀ {x : Exec Line}, (∃ used, EStateM.run x e = .ok l { e with s := s', used := used }) → headIdx pc ≤ headCount l.bytes →
      ∃ used, EStateM.run (x >>= fun line => if headIdx pc ≤ headCount line.bytes then pure line else trap 0x04#8 pc) e
        = .ok l { e with s := s', used := used } := by
    intro x ⟨used, hx⟩ hn
    exact ⟨used, by rw [bind_ok hx, if_pos hn, pure_ok]⟩
  unfold enter
  rw [bind_ok (get_ok _)]
  simp only [he]
  rw [if_neg hpc]
  cases hl0 : e.th.line with
  | none =>
    simp only [hl0] at h ⊢
    split at h
    case h_2 => cases h
    case h_1 l1 s1 hbuf =>
    split at h
    case isFalse => cases h
    case isTrue hn =>
    cases h
    exact fin (fetchLine_ok hbuf) hn
  | some l0 =>
    simp only [hl0] at h ⊢
    split at h
    case h_2 => cases h
    case h_1 l1 s1 hbuf =>
    split at h
    case isFalse => cases h
    case isTrue hn =>
    cases h
    by_cases hnum : l0.num = lineNum pc
    · simp only [hnum, if_true] at hbuf ⊢
      cases hbuf
      exact ⟨e.used, by rw [bind_pure_run, if_pos hn, pure_ok]⟩
    · simp only [hnum, if_false] at hbuf ⊢
      exact fin (fetchLine_ok hbuf) hn

/-- What an environment keeps of a thread that issues. -/
structure Fresh (e : Env) : Prop where
  rowEnd : e.rowEnd = false
  unit : e.unit = none
  step : e.th.step = false
  entered : e.th.entered = none

/-- An instruction that completes at a given pc. -/
theorem finish_ok {e : Env} {n : Next} {pc : Word} {l : Line} {s' : State} (hF : Fresh e) (hlat : e.lat ≤ 16)
    (hn : (n = .advance ∧ pc = nextHead e.th) ∨ n = .goto pc) (hl : lineAt e.s e.core e.th pc = some (l, s')) :
    ∃ used, EStateM.run (finish n) e = .ok () { e with s := retired s' e.core e.slot e.th pc l e.lat, used := used } := by
  obtain ⟨h1, h2, h3, h4⟩ := hF
  obtain ⟨used, hE⟩ := enter_ok h4 hl
  refine ⟨used, ?_⟩
  cases e with | mk core slot s keep th lat log used unit pops pushes rowEnd ends job =>
  simp only at h1 h2 h3 h4 hlat
  have hlat : ¬ 16 < lat := by omega
  subst h1 h2
  rcases hn with ⟨rfl, rfl⟩ | rfl
  · unfold finish
    simp only
    rw [bind_ok (get_ok _)]
    simp only [Bool.false_eq_true, if_false, bind_pure_run]
    rw [bind_ok (nextPc_ok _), bind_ok hE, bind_ok (get_ok _)]
    simp only [stepStop, stopAfter, h3, hlat, Bool.false_eq_true, if_false]
    rfl
  · unfold finish
    simp only
    rw [bind_ok (get_ok _)]
    simp only [Bool.false_eq_true, if_false, bind_pure_run]
    rw [bind_ok hE, bind_ok (get_ok _)]
    simp only [stepStop, stopAfter, h3, hlat, Bool.false_eq_true, if_false]
    rfl

/-- An issued instruction whose program runs to its end completes at the next head or at its target. -/
theorem runThread_ok {s : State} {c k : Nat} {t : Thread} {g : Guard} {body : Exec Next} {e : Env} {n : Next} {pc : Word} {l : Line}
    {s' : State} (hi : Issues s c k t g) (hlat : e.lat ≤ 16) (hb : EStateM.run body (start s c k t) = .ok n e) (hF : Fresh e)
    (hn : (n = .advance ∧ pc = nextHead e.th) ∨ n = .goto pc) (hl : lineAt e.s e.core e.th pc = some (l, s')) :
    runThread g body s = .next (retired s' e.core e.slot e.th pc l e.lat) := by
  obtain ⟨used, hf⟩ := finish_ok hF hlat hn hl
  unfold runThread
  simp only [hi.cur, hi.here, hi.guard, if_true]
  show settle (EStateM.run (body >>= finish) (start s c k t)) = _
  rw [bind_ok hb, hf]
  rfl

end Exec
end Sys2Proof.Machine
end

