-- ==== Sys2Proof/Laws/Scalar.lean ====
section
/-! SUPPORT. The forms of the scalar instructions complete (04 R101-R118). -/

namespace Sys2Proof.Machine
open Exec

/-! ### What writing a destination leaves -/

section PutField
variable (c : Nat) (d : Reg) (w : Word) (p : State × Thread)

/-- A destination changes at most the general registers of the thread. -/
theorem putField_thread : ∃ g, (putField c d w p).2 = { p.2 with g := g } := by
  unfold putField
  split
  · exact ⟨_, rfl⟩
  · exact ⟨p.2.g, rfl⟩
  · split
    · exact ⟨p.2.g, rfl⟩
    · exact ⟨p.2.g, rfl⟩

end PutField

namespace Exec

variable {s : State} {c k : Nat} {t : Thread} {g : Guard} {a b d : Reg}

theorem Fresh.mk' {e : Env} (hi : Issues s c k t g) (hr : e.rowEnd = false) (hu : e.unit = none)
    (h : ∃ x p f v m st sb, e.th = { t with g := x, pred := p, fpctl := f, v := v, m := m, streams := st, sb := sb }) : Fresh e := by
  obtain ⟨x, p, f, v, m, st, sb, h⟩ := h
  exact ⟨hr, hu, by rw [h]; exact hi.step, by rw [h]; exact hi.entered⟩

/-- A program that runs to its end completes. -/
theorem completes {i : Instr} {body : Exec Next} {e : Env} {n : Next} {pc : Word} (hx : exec i s = runThread g body s)
    (hlat : e.lat ≤ 16) (hi : Issues s c k t g) (hb : EStateM.run body (start s c k t) = .ok n e) (hF : Fresh e) (hc : e.core = c) (hk : e.slot = k)
    (hn : (n = .advance ∧ pc = nextHead e.th) ∨ n = .goto pc) : Completes i s c k (e.s, e.th) pc e.lat := by
  intro l s' hl
  subst hc hk
  rw [if_pos hlat, hx, runThread_ok hi hlat hb hF hn hl]

/-- A field program: sources read, the thread changed by `u`, a word written, lying at a latency. -/
theorem form_completes {i : Instr} {srcs : List Reg} {body : Exec Next} {val : List Word → Word} {u : List Word → Thread → Thread}
    {lat : Nat} (hx : exec i s = runThread g body s) (hlat : lat ≤ 16) (hi : Issues s c k t g) (h : fieldsReady s c k t srcs [d] = true)
    (hu : ∀ v, ∃ p f, u v t = { t with pred := p, fpctl := f })
    (hb : ∀ keep pops e', (EStateM.run (write d (val (takeFields s c k t srcs).1)) { start s c k t with
        s := (takeFields s c k t srcs).2, keep := keep, pops := pops, lat := lat, th := u (takeFields s c k t srcs).1 t } = .ok () e' →
      EStateM.run (operands srcs [d]) (start s c k t) = .ok (takeFields s c k t srcs).1 { start s c k t with
        s := (takeFields s c k t srcs).2, keep := keep, pops := pops } →
      EStateM.run body (start s c k t) = .ok .advance e')) :
    Completes i s c k (putField c d (val (takeFields s c k t srcs).1) ((takeFields s c k t srcs).2, u (takeFields s c k t srcs).1 t))
      (nextHead t) lat := by
  obtain ⟨keep, pops, h2⟩ := operands_ok (e := start s c k t) h rfl
  obtain ⟨x, hw⟩ := fieldsReady_dst h (List.mem_singleton.mpr rfl)
  obtain ⟨p, f, hup⟩ := hu (takeFields s c k t srcs).1
  have hw' : ∃ x, fieldChan (u (takeFields s c k t srcs).1 t) true d = some x := by
    rw [hup]
    exact ⟨x, hw⟩
  obtain ⟨pushes, h3⟩ := write_ok (e := { start s c k t with
        s := (takeFields s c k t srcs).2, keep := keep, pops := pops, lat := lat, th := u (takeFields s c k t srcs).1 t })
      (w := val (takeFields s c k t srcs).1) hw' rfl
  have h4 := hb keep pops _ h3 h2
  obtain ⟨r, hp⟩ := putField_thread c d (val (takeFields s c k t srcs).1) ((takeFields s c k t srcs).2, u (takeFields s c k t srcs).1 t)
  refine completes hx hlat hi h4 (Fresh.mk' hi rfl rfl ⟨r, p, f, t.v, t.m, t.streams, t.sb, ?_⟩) rfl rfl (.inl ⟨rfl, ?_⟩)
  · show (putField c d _ ((takeFields s c k t srcs).2, u (takeFields s c k t srcs).1 t)).2 = _
    rw [hp, hup]
  · show nextHead t = nextHead (putField c d _ ((takeFields s c k t srcs).2, u (takeFields s c k t srcs).1 t)).2
    rw [hp, hup]
    rfl

theorem src1_of {e e' : Env} {v : List Word} {a : Reg} {dsts : List Reg} (h : EStateM.run (operands [a] dsts) e = .ok v e') :
    EStateM.run (src1 a dsts) e = .ok (v.headD 0) e' := by
  unfold src1
  rw [bind_ok h, pure_ok]
theorem src2_of {e e' : Env} {v : List Word} {a b : Reg} {dsts : List Reg} (h : EStateM.run (operands [a, b] dsts) e = .ok v e') :
    EStateM.run (src2 a b dsts) e = .ok (v.headD 0, (v.drop 1).headD 0) e' := by
  unfold src2
  rw [bind_ok h, pure_ok]
theorem src3_of {e e' : Env} {v : List Word} {a b r : Reg} {dsts : List Reg} (h : EStateM.run (operands [a, b, r] dsts) e = .ok v e') :
    EStateM.run (src3 a b r dsts) e = .ok (v.headD 0, (v.drop 1).headD 0, (v.drop 2).headD 0) e' := by
  unfold src3
  rw [bind_ok h, pure_ok]

theorem keepThread (v : List Word) : ∃ p f, (fun (_ : List Word) (t : Thread) => t) v t = { t with pred := p, fpctl := f } :=
  ⟨t.pred, t.fpctl, rfl⟩

/-! ### Two registers, one register, immediates (R102-R108, R111, R112) -/

theorem alu2_completes {f : Word → Word → Word} {lat : Nat} {i : Instr} (hx : exec i s = runThread g (alu2 d a b f lat) s)
    (hlat : lat ≤ 16)
    (hi : Issues s c k t g) (h : fieldsReady s c k t [a, b] [d] = true) :
    Completes i s c k (result s c k t [a, b] d (op2 f)) (nextHead t) lat := by
  refine form_completes (u := fun _ t => t) (val := op2 f) hx hlat hi h keepThread fun keep pops e' hw ho => ?_
  unfold alu2
  rw [bind_ok (src2_of ho)]
  simp only
  rw [bind_ok (latency_ok _ _)]
  exact bind_ok hw

theorem alu1_completes {f : Word → Word} {i : Instr} (hx : exec i s = runThread g (alu1 d a f) s)
    (hi : Issues s c k t g) (h : fieldsReady s c k t [a] [d] = true) :
    Completes i s c k (result s c k t [a] d (op1 f)) (nextHead t) 1 := by
  refine form_completes (u := fun _ t => t) (val := op1 f) hx (by decide) hi h keepThread fun keep pops e' hw ho => ?_
  unfold alu1
  rw [bind_ok (src1_of ho)]
  exact bind_ok hw

theorem put_completes {w : Word} {i : Instr} (hx : exec i s = runThread g (put d w) s)
    (hi : Issues s c k t g) (h : fieldsReady s c k t [] [d] = true) :
    Completes i s c k (result s c k t [] d (fun _ => w)) (nextHead t) 1 := by
  refine form_completes (u := fun _ t => t) (val := fun _ => w) hx (by decide) hi h keepThread fun keep pops e' hw ho => ?_
  unfold put
  rw [bind_ok ho]
  exact bind_ok hw

theorem setFlags_ok (f : Flags) (e : Env) :
    EStateM.run (setFlags f) e = .ok () { e with th := { e.th with fpctl := e.th.fpctl ||| f.word } } := rfl

/-- The thread with flags set. -/
theorem flagThread (f : List Word → Flags) (v : List Word) :
    ∃ p x, (fun (v : List Word) (t : Thread) => { t with fpctl := t.fpctl ||| (f v).word }) v t = { t with pred := p, fpctl := x } :=
  ⟨t.pred, _, rfl⟩

theorem alu2f_completes {f : Word → Word → Word × Flags} {i : Instr} (hx : exec i s = runThread g (alu2f d a b f) s)
    (hi : Issues s c k t g) (h : fieldsReady s c k t [a, b] [d] = true) :
    Completes i s c k (resultF s c k t [a, b] d (op2 f)) (nextHead t) 1 := by
  refine form_completes (u := fun v t => { t with fpctl := t.fpctl ||| (op2 f v).2.word }) (val := fun v => (op2 f v).1)
    hx (by decide) hi h (flagThread fun v => (op2 f v).2) fun keep pops e' hw ho => ?_
  unfold alu2f
  rw [bind_ok (src2_of ho)]
  simp only
  rw [bind_ok (setFlags_ok _ _)]
  exact bind_ok hw

theorem alu1f_completes {f : Word → Word × Flags} {i : Instr} (hx : exec i s = runThread g (alu1f d a f) s)
    (hi : Issues s c k t g) (h : fieldsReady s c k t [a] [d] = true) :
    Completes i s c k (resultF s c k t [a] d (op1 f)) (nextHead t) 1 := by
  refine form_completes (u := fun v t => { t with fpctl := t.fpctl ||| (op1 f v).2.word }) (val := fun v => (op1 f v).1)
    hx (by decide) hi h (flagThread fun v => (op1 f v).2) fun keep pops e' hw ho => ?_
  unfold alu1f
  rw [bind_ok (src1_of ho)]
  simp only
  rw [bind_ok (setFlags_ok _ _)]
  exact bind_ok hw

theorem sel_completes {p : PReg} (hi : Issues s c k t g) (h : fieldsReady s c k t [a, b] [d] = true) :
    Completes (.sel g d a b p) s c k (result s c k t [a, b] d (op2 fun x y => if pget t p then x else y)) (nextHead t) 1 := by
  refine form_completes (u := fun _ t => t) (val := op2 fun x y => if pget t p then x else y) rfl (by decide) hi h keepThread
    fun keep pops e' hw ho => ?_
  rw [bind_ok (src2_of ho)]
  simp only
  rw [bind_ok (get_ok _)]
  exact bind_ok hw

theorem bins_completes {pos len : BitVec 6} (hi : Issues s c k t g) (h : fieldsReady s c k t [d, a] [d] = true) :
    Completes (.bins g d a pos len) s c k (result s c k t [d, a] d (op2 fun y x => Alu.bins pos len x y)) (nextHead t) 1 := by
  refine form_completes (u := fun _ t => t) (val := op2 fun y x => Alu.bins pos len x y) rfl (by decide) hi h keepThread fun keep pops e' hw ho => ?_
  rw [bind_ok (src2_of ho)]
  exact bind_ok hw

/-! ### Floating point (R115-R118) -/

theorem mode_ok (rm : Rm) (e : Env) : EStateM.run (mode rm) e = .ok (RMode.select rm e.th.fpctl) e := rfl

theorem fp2_completes {ty : Ty} {lat : Nat} {f : Nat → Nat → Nat × Flags} {i : Instr} {body : Exec Next}
    (hx : exec i s = runThread g body s) (hbody : EStateM.run body (start s c k t) = EStateM.run (fp2 d a b ty lat f) (start s c k t))
    (hlat : lat ≤ 16) (hi : Issues s c k t g) (h : fieldsReady s c k t [a, b] [d] = true) :
    Completes i s c k (resultF s c k t [a, b] d (op2 (fpOp2 ty f))) (nextHead t) lat := by
  refine form_completes (u := fun v t => { t with fpctl := t.fpctl ||| (op2 (fpOp2 ty f) v).2.word })
    (val := fun v => (op2 (fpOp2 ty f) v).1) hx hlat hi h (flagThread fun v => (op2 (fpOp2 ty f) v).2) fun keep pops e' hw ho => ?_
  rw [hbody]
  unfold fp2
  rw [bind_ok (src2_of ho)]
  simp only
  rw [bind_ok (latency_ok _ _), bind_ok (setFlags_ok _ _)]
  exact bind_ok hw

theorem fpMulAdd_completes {ty : Ty} {rm : Rm} {np nc : Bool} {r : Reg} {i : Instr}
    (hx : exec i s = runThread g (fpMulAdd d a b r ty rm np nc) s) (hi : Issues s c k t g)
    (h : fieldsReady s c k t [a, b, r] [d] = true) :
    Completes i s c k (resultF s c k t [a, b, r] d (op3 (fpOp3 ty (ffma (fmt ty) (RMode.select rm t.fpctl) np nc)))) (nextHead t) 6 := by
  let f := fpOp3 ty (ffma (fmt ty) (RMode.select rm t.fpctl) np nc)
  refine form_completes (u := fun v t => { t with fpctl := t.fpctl ||| (op3 f v).2.word })
    (val := fun v => (op3 f v).1) hx (by decide) hi h (flagThread fun v => (op3 f v).2) fun keep pops e' hw ho => ?_
  unfold fpMulAdd
  rw [bind_ok (src3_of ho)]
  simp only
  rw [bind_ok (latency_ok _ _), bind_ok (mode_ok _ _)]
  simp only
  rw [bind_ok (setFlags_ok _ _)]
  exact bind_ok hw

theorem fsqrt_completes {ty : Ty} {rm : Rm} (hlat : divideLat ty ≤ 16) (hi : Issues s c k t g) (h : fieldsReady s c k t [a] [d] = true) :
    Completes (.fsqrt g d a ty rm) s c k (resultF s c k t [a] d (op1 fun x =>
      let r := fsqrt (fmt ty) (RMode.select rm t.fpctl) (ty.low x); (Word.ofNat r.1, r.2))) (nextHead t) (divideLat ty) := by
  let f := fun x : Word => let r := fsqrt (fmt ty) (RMode.select rm t.fpctl) (ty.low x); (Word.ofNat r.1, r.2)
  refine form_completes (u := fun v t => { t with fpctl := t.fpctl ||| (op1 f v).2.word })
    (val := fun v => (op1 f v).1) rfl hlat hi h (flagThread fun v => (op1 f v).2) fun keep pops e' hw ho => ?_
  rw [bind_ok (src1_of ho)]
  simp only
  rw [bind_ok (latency_ok _ _), bind_ok (mode_ok _ _)]
  simp only
  rw [bind_ok (setFlags_ok _ _)]
  exact bind_ok hw

theorem fcvt_completes {ty ty2 : Ty} {rm : Rm} (hi : Issues s c k t g) (h : fieldsReady s c k t [a] [d] = true) :
    Completes (.fcvt g d a ty ty2 rm) s c k (resultF s c k t [a] d (op1 fun x =>
      let r := convert ty ty2 (RMode.select rm t.fpctl) (ty2.low x); (ty.place r.1, r.2))) (nextHead t) 6 := by
  let f := fun x : Word => let r := convert ty ty2 (RMode.select rm t.fpctl) (ty2.low x); (ty.place r.1, r.2)
  refine form_completes (u := fun v t => { t with fpctl := t.fpctl ||| (op1 f v).2.word })
    (val := fun v => (op1 f v).1) rfl (by decide) hi h (flagThread fun v => (op1 f v).2) fun keep pops e' hw ho => ?_
  rw [bind_ok (src1_of ho)]
  simp only
  rw [bind_ok (latency_ok _ _), bind_ok (mode_ok _ _)]
  simp only
  rw [bind_ok (setFlags_ok _ _)]
  exact bind_ok hw

theorem fclass_completes {ty : Ty} (hi : Issues s c k t g) (h : fieldsReady s c k t [a] [d] = true) :
    Completes (.fclass g d a ty) s c k (result s c k t [a] d (op1 fun x => Word.ofNat (2 ^ fclassBit (fmt ty) (ty.low x))))
      (nextHead t) 6 := by
  refine form_completes (u := fun _ t => t) (val := op1 fun x => Word.ofNat (2 ^ fclassBit (fmt ty) (ty.low x))) rfl (by decide) hi h
    keepThread fun keep pops e' hw ho => ?_
  rw [bind_ok (src1_of ho)]
  simp only
  rw [bind_ok (latency_ok _ _)]
  exact bind_ok hw

/-! ### Programs without a register destination -/

/-- A program that reads sources and changes only predicates and fpctl. -/
theorem sources_complete {i : Instr} {srcs : List Reg} {body : Exec Next} {n : Next} {pc : Word} {u : List Word → Thread → Thread} {lat : Nat}
    (hx : exec i s = runThread g body s) (hlat : lat ≤ 16) (hi : Issues s c k t g) (h : fieldsReady s c k t srcs [] = true)
    (hu : ∃ p f, u (takeFields s c k t srcs).1 t = { t with pred := p, fpctl := f })
    (hn : (n = .advance ∧ pc = nextHead t) ∨ n = .goto pc)
    (hb : ∀ keep pops,
      EStateM.run (operands srcs []) (start s c k t) = .ok (takeFields s c k t srcs).1 { start s c k t with
        s := (takeFields s c k t srcs).2, keep := keep, pops := pops } →
      EStateM.run body (start s c k t) = .ok n { start s c k t with
        s := (takeFields s c k t srcs).2, keep := keep, pops := pops, lat := lat, th := u (takeFields s c k t srcs).1 t }) :
    Completes i s c k ((takeFields s c k t srcs).2, u (takeFields s c k t srcs).1 t) pc lat := by
  obtain ⟨keep, pops, h2⟩ := operands_ok (e := start s c k t) h rfl
  obtain ⟨p, f, hup⟩ := hu
  refine completes hx hlat hi (hb keep pops h2) (Fresh.mk' hi rfl rfl ⟨t.g, p, f, t.v, t.m, t.streams, t.sb, hup⟩) rfl rfl ?_
  rcases hn with ⟨h1, h2⟩ | h1
  · refine .inl ⟨h1, ?_⟩
    show pc = nextHead (u (takeFields s c k t srcs).1 t)
    rw [hup, h2]
    rfl
  · exact .inr h1

theorem cmp2_completes {p : PReg} {f : Word → Word → Bool} {i : Instr} (hx : exec i s = runThread g (cmp2 p a b f) s)
    (hi : Issues s c k t g) (h : fieldsReady s c k t [a, b] [] = true) :
    Completes i s c k (resultP s c k t [a, b] p (op2 f)) (nextHead t) 1 := by
  refine sources_complete (n := .advance) (u := fun v t => { t with pred := setPred t.pred p (op2 f v) }) hx (by decide) hi h
    ⟨_, t.fpctl, rfl⟩ (.inl ⟨rfl, rfl⟩) fun keep pops ho => ?_
  unfold cmp2
  rw [bind_ok (src2_of ho)]
  simp only
  rw [bind_ok (writePred_ok _ _ _)]
  rfl

theorem cmp1_completes {p : PReg} {f : Word → Bool} {i : Instr} (hx : exec i s = runThread g (cmp1 p a f) s)
    (hi : Issues s c k t g) (h : fieldsReady s c k t [a] [] = true) :
    Completes i s c k (resultP s c k t [a] p (op1 f)) (nextHead t) 1 := by
  refine sources_complete (n := .advance) (u := fun v t => { t with pred := setPred t.pred p (op1 f v) }) hx (by decide) hi h
    ⟨_, t.fpctl, rfl⟩ (.inl ⟨rfl, rfl⟩) fun keep pops ho => ?_
  unfold cmp1
  rw [bind_ok (src1_of ho)]
  simp only
  rw [bind_ok (writePred_ok _ _ _)]
  rfl

theorem fpCmp_completes {p : PReg} {ty : Ty} {op : FCmp} {i : Instr} (hx : exec i s = runThread g (fpCmp p a b ty op) s)
    (hi : Issues s c k t g) (h : fieldsReady s c k t [a, b] [] = true) :
    Completes i s c k (resultPF s c k t [a, b] p (op2 fun x y => fcompare (fmt ty) op (ty.low x) (ty.low y))) (nextHead t) 6 := by
  let f := op2 fun x y : Word => fcompare (fmt ty) op (ty.low x) (ty.low y)
  refine sources_complete (n := .advance) (u := fun v t => { t with fpctl := t.fpctl ||| (f v).2.word, pred := setPred t.pred p (f v).1 })
    hx (by decide) hi h ⟨_, _, rfl⟩ (.inl ⟨rfl, rfl⟩) fun keep pops ho => ?_
  unfold fpCmp
  rw [bind_ok (src2_of ho)]
  simp only
  rw [bind_ok (latency_ok _ _), bind_ok (setFlags_ok _ _), bind_ok (writePred_ok _ _ _)]
  rfl

theorem pred2_completes {p q r : PReg} {f : Bool → Bool → Bool} {i : Instr} (hx : exec i s = runThread g (pred2 p q r f) s)
    (hi : Issues s c k t g) :
    Completes i s c k (s, { t with pred := setPred t.pred p (f (pget t q) (pget t r)) }) (nextHead t) 1 := by
  refine completes (e := { start s c k t with th := { t with pred := _ } }) (n := .advance) hx (show (1 : Nat) ≤ 16 by decide) hi ?_
    (Fresh.mk' hi rfl rfl ⟨t.g, _, t.fpctl, t.v, t.m, t.streams, t.sb, rfl⟩) rfl rfl (.inl ⟨rfl, rfl⟩)
  unfold pred2
  rw [bind_ok (get_ok _), bind_ok (writePred_ok _ _ _)]
  rfl

/-! ### Results that a unit holds (R96, R152) -/

theorem start_thread (hi : Issues s c k t g) {keep : State} (hk : Held (start s c k t) keep) :
    ∃ p r, keep.thread c k = some { t with heldPops := p, heldRoom := r } := by
  rcases hk with rfl | ⟨p, r, rfl⟩
  · exact ⟨t.heldPops, t.heldRoom, hi.here⟩
  · refine ⟨p, r, ?_⟩
    rw [State.updThread_some _ _ (show (start s c k t).keep.thread (start s c k t).core (start s c k t).slot = some t from hi.here)]
    exact State.thread_setThread_same _ _ _ _

/-- The result an instruction leaves with the divider or the SFU. -/
def heldResult (e : Env) (s' : State) (l : Line) (pc : Word) (sfu : Bool) (lat : Nat) : Result :=
  { done := (s'.core e.core).cycle + lat, g := e.th.g, pred := e.th.pred, v := e.th.v, m := e.th.m,
    fpctl := e.th.fpctl, streams := e.th.streams, sb := e.th.sb.drop (((e.keep.thread e.core e.slot).getD e.th).sb.length),
    pops := e.pops, pushes := e.pushes, pc := pc, line := some l, sfu := sfu, started := !sfu }

theorem finish_held {e : Env} {l : Line} {s' : State} {sfu : Bool} {lat : Nat} (hr : e.rowEnd = false)
    (hu : (e.unit <|> (if 16 < e.lat then some (false, e.lat) else none)) = some (sfu, lat))
    (he : e.th.entered = none) (hl : lineAt e.s e.core e.th (nextHead e.th) = some (l, s')) :
    ∃ used, EStateM.run (finish .advance) e =
      .error (.hold (heldResult e s' l (nextHead e.th) sfu lat)) { e with s := s', used := used } := by
  obtain ⟨used, hE⟩ := enter_ok he hl
  refine ⟨used, ?_⟩
  cases e with | mk core slot s keep th lat' log used' unit pops pushes rowEnd ends job =>
  simp only at hr hu
  subst hr
  unfold finish
  simp only
  rw [bind_ok (get_ok _)]
  simp only [Bool.false_eq_true, if_false, bind_pure_run]
  rw [bind_ok (nextPc_ok _), bind_ok hE, bind_ok (get_ok _)]
  simp only [hu]
  rfl

theorem runThread_held {body : Exec Next} {e : Env} {l : Line} {s' : State} {sfu : Bool} {lat : Nat} (hi : Issues s c k t g)
    (hb : EStateM.run body (start s c k t) = .ok .advance e) (hr : e.rowEnd = false)
    (hu : (e.unit <|> (if 16 < e.lat then some (false, e.lat) else none)) = some (sfu, lat))
    (he : e.th.entered = none) (hl : lineAt e.s e.core e.th (nextHead e.th) = some (l, s')) :
    runThread g body s = .next (
      let s1 := e.keep.updThread e.core e.slot fun t =>
        { t with pending := some (heldResult e s' l (nextHead e.th) sfu lat), run := .parked .unit 0 0 }
      if sfu then s1.updCore e.core fun c => { c with sfuFifo := c.sfuFifo ++ [e.slot] } else s1) := by
  obtain ⟨used, hf⟩ := finish_held hr hu he hl
  unfold runThread
  simp only [hi.cur, hi.here, hi.guard, if_true]
  show settle (EStateM.run (body >>= finish) (start s c k t)) = _
  rw [bind_ok hb, hf]
  rfl

@[simp] theorem thread_popChan (s : State) (c m k : Nat) (ch : Chan) : (popChan s c ch).thread m k = s.thread m k := by
  unfold popChan State.thread
  by_cases h : m = c
  · subst h
    cases ch <;> simp
  · rw [State.core_updCore_ne _ _ h]

@[simp] theorem thread_pushChan (s : State) (c m k : Nat) (ch : Chan) (w : Word) : (pushChan s c ch w).thread m k = s.thread m k := by
  unfold pushChan State.thread
  have h : ∀ (n : Nat) (f : Core → Core), (∀ x, (f x).slots = x.slots) → ((s.updCore n f).core m).slots = (s.core m).slots := by
    intro n f hf
    by_cases h : m = n
    · subst h
      simp [hf]
    · rw [State.core_updCore_ne _ _ h]
  cases ch with
  | queue q => exact congrArg (fun x => Tab.get? x k) (h _ _ fun _ => rfl)
  | west =>
    simp only
    split
    · exact congrArg (fun x => Tab.get? x k) (h _ _ fun _ => rfl)
    · rfl
  | east =>
    simp only
    split
    · exact congrArg (fun x => Tab.get? x k) (h _ _ fun _ => rfl)
    · rfl

theorem cycle_takeFields (s : State) (c k : Nat) (t : Thread) (srcs : List Reg) (m : Nat) :
    ((takeFields s c k t srcs).2.core m).cycle = (s.core m).cycle := by
  have h : ∀ (l : List Reg) (acc : List Word × State), ((l.foldl (takeField c k t) acc).2.core m).cycle = (acc.2.core m).cycle := by
    intro l
    induction l with
    | nil => intro acc; rfl
    | cons r l ih =>
      intro acc
      rw [List.foldl_cons, ih]
      unfold takeField
      split
      · simp only [popChan]
        by_cases hm : m = c
        · subst hm
          simp only [State.core_updCore_same]
          split <;> rfl
        · rw [State.core_updCore_ne _ _ hm]
      · rfl
  exact h srcs _

end Exec
end Sys2Proof.Machine
end

