-- ==== Sys2Proof/Laws/Traps.lean ====
section
/-! SUPPORT. Taking a trap (13 R369): what an instruction that ends with a fault code answers. -/

namespace Sys2Proof.Machine
open Exec

theorem Tab.mapV_set {α : Type} (f : Nat → α → α) : ∀ (t : Tab α) (n : Nat) (x : α),
    Tab.mapV (Tab.set t n x) f = Tab.set (Tab.mapV t f) n (f n x)
  | [], n, x => by simp [Tab.set, Tab.mapV]
  | (k, v) :: t, n, x => by
    by_cases h : n < k
    · simp [Tab.set, Tab.mapV, h]
    · by_cases h2 : n = k
      · simp [Tab.set, Tab.mapV, h2]
      · simp [Tab.set, Tab.mapV, h, h2, Tab.mapV_set f t n x]

theorem Tab.getD_mapV {α : Type} (f : Nat → α → α) (t : Tab α) (n : Nat) (d : α) :
    Tab.getD (Tab.mapV t f) n d = ((Tab.get? t n).map (f n)).getD d := by
  unfold Tab.getD
  rw [Tab.get?_mapV]

/-- What a parked instruction holds outside its thread is given up in the same way, whatever its thread is. -/
theorem release_setThread {s : State} {c k : Nat} {t : Thread} (h : s.thread c k = some t) (u : Thread) :
    (s.setThread c k u).release c k = (s.release c k).setThread c k u := by
  have hc : ∃ x, Tab.get? s.cores c = some x := by
    cases hx : Tab.get? s.cores c with
    | some x => exact ⟨x, rfl⟩
    | none =>
      exfalso
      have : s.core c = {} := by simp [State.core, Tab.getD, hx]
      simp only [State.thread, this] at h
      cases h
  obtain ⟨x, hx⟩ := hc
  have hcore : s.core c = x := by simp [State.core, Tab.getD, hx]
  simp only [State.release, State.setThread, State.updCore, State.setCore, State.core, Tab.mapV_set, Tab.getD_mapV, State.updMe,
    State.setCluster, State.cluster, Tab.getD, Tab.get?_set_same, Tab.get?_mapV, hx, Option.map_some, Option.getD_some, Tab.set_set]

/-- Taking a trap gives up what the instruction had reserved. -/
theorem takeTrap_held {s : State} {c k : Nat} {t : Thread} (h : s.thread c k = some t) (st : Stop) (p r : List Chan) :
    (s.updThread c k fun t => { t with heldPops := p, heldRoom := r }).takeTrap c k st = s.takeTrap c k st := by
  rw [State.updThread_some _ _ h]
  have h2 : (s.release c k).thread c k = some t := by
    unfold State.thread State.release State.updMe State.setCluster
    simp only
    have hc : Tab.get? s.cores c = some (s.core c) := by
      cases hx : Tab.get? s.cores c with
      | some x => simp [State.core, Tab.getD, hx]
      | none =>
        exfalso
        have : s.core c = {} := by simp [State.core, Tab.getD, hx]
        simp only [State.thread, this] at h
        cases h
    simp only [State.core, State.updCore, State.setCore, Tab.getD_set_same, Tab.getD_mapV, hc, Option.map_some, Option.getD_some]
    exact h
  have e : ∀ u : Thread, u.giveUp = t.giveUp →
      ((s.release c k).setThread c k u).updThread c k (fun t => { t.giveUp with run := .trapped st none, waited := none })
        = (s.release c k).updThread c k (fun t => { t.giveUp with run := .trapped st none, waited := none }) := by
    intro u hu
    rw [State.updThread_some _ _ (State.thread_setThread_same _ _ _ _), State.updThread_some _ _ h2, hu, State.setThread_setThread]
  unfold State.takeTrap
  rw [release_setThread h]
  exact congrArg (fun x => State.giveRecord x c k) (e { t with heldPops := p, heldRoom := r } rfl)

namespace Exec
variable {s : State} {c k : Nat} {t : Thread} {g : Guard}

/-- An instruction that ends with a fault code after at most its fields were reserved. -/
theorem runThread_trap {body : Exec Next} {e : Env} {st : Stop} (hi : Issues s c k t g)
    (hb : EStateM.run (body >>= finish) (start s c k t) = .error (.trap st) e) (hc : e.core = c) (hk : e.slot = k)
    (hh : Held (start s c k t) e.keep) : runThread g body s = .next (s.takeTrap c k st) := by
  subst hc hk
  unfold runThread
  simp only [hi.cur, hi.here, hi.guard, if_true]
  show settle (EStateM.run (body >>= finish) (start s e.core e.slot t)) = _
  rw [hb]
  show Host.Outcome.next (e.keep.takeTrap e.core e.slot st) = _
  rcases hh with h | ⟨p, r, h⟩
  · rw [h]
    rfl
  · rw [h]
    exact congrArg Host.Outcome.next (takeTrap_held hi.here st p r)

theorem traps {i : Instr} {body : Exec Next} {e : Env} {code : Byte} {addr : Word} (hx : exec i s = runThread g body s)
    (hi : Issues s c k t g) (hb : EStateM.run body (start s c k t) = .error (.trap (mkStop e code addr)) e) (hpc : e.th.pc = t.pc)
    (hc : e.core = c) (hk : e.slot = k) (hh : Held (start s c k t) e.keep) : TrapsWith i s c k t code addr := by
  unfold TrapsWith
  rw [hx, runThread_trap hi (bind_err hb) hc hk hh]
  show Host.Outcome.next (s.takeTrap c k { code := code, pc := e.th.pc, rpc := e.th.pc, addr := addr }) = _
  rw [hpc]

/-- A program that ends in its first check. -/
theorem traps_at_once {i : Instr} {body : Exec Next} {code : Byte} {addr : Word} (hx : exec i s = runThread g body s)
    (hi : Issues s c k t g)
    (hb : EStateM.run body (start s c k t) = .error (.trap (mkStop (start s c k t) code addr)) (start s c k t)) :
    TrapsWith i s c k t code addr := traps hx hi hb rfl rfl rfl (.inl rfl)

/-! ### Effects after the next line has been entered (R32, R33) -/

/-- Entering the next line before an effect outside the thread. -/
theorem ensureNext_ok {e : Env} {l : Line} {s' : State} (hr : e.rowEnd = false) (hn : e.ends = false) (he : e.th.entered = none)
    (hl : lineAt e.s e.core e.th (nextHead e.th) = some (l, s')) :
    ∃ used, EStateM.run ensureNext e = .ok () { e with
      s := s', used := used, th := { e.th with entered := some (nextHead e.th, l) },
      keep := e.keep.updThread e.core e.slot fun t => { t with entered := some (nextHead e.th, l) } } := by
  obtain ⟨used, hE⟩ := enter_ok he hl
  refine ⟨used, ?_⟩
  cases e with | mk core slot s keep th lat' log used' unit pops pushes rowEnd ends job =>
  simp only at hr hn he
  subst hr hn
  unfold ensureNext
  rw [bind_ok (get_ok _)]
  simp only [Bool.false_eq_true, if_false, bind_pure_run, he]
  rw [bind_ok (nextPc_ok _), bind_ok hE, bind_ok (modTh_ok _ _), modKeepTh_ok]

/-- The entry of a line once it has been entered. -/
theorem finish_entered {e : Env} {l : Line} {pc : Word} (hlat : e.lat ≤ 16) (hr : e.rowEnd = false) (hu : e.unit = none) (hs : e.th.step = false)
    (he : e.th.entered = some (pc, l)) (hpc : pc = nextHead e.th) (hn : headIdx pc ≤ headCount l.bytes) :
    EStateM.run (finish .advance) e = .ok () { e with s := retired e.s e.core e.slot e.th pc l e.lat } := by
  cases e with | mk core slot s keep th lat' log used unit pops pushes rowEnd ends job =>
  simp only at hr hu hs he hpc hlat
  have hlat : ¬ 16 < lat' := by omega
  subst hr hu hpc
  unfold finish
  simp only
  rw [bind_ok (get_ok _)]
  simp only [Bool.false_eq_true, if_false, bind_pure_run]
  rw [bind_ok (nextPc_ok _)]
  have hE : ∀ e : Env, e.th.entered = some (nextHead th, l) → EStateM.run (enter (nextHead th)) e = .ok l e := by
    intro e h
    unfold enter
    rw [bind_ok (get_ok _)]
    simp only [h, if_true, bind_pure_run, hn, pure_ok]
  rw [bind_ok (hE _ he), bind_ok (get_ok _)]
  simp only [stepStop, stopAfter, hs, hlat, Bool.false_eq_true, if_false]
  rfl

theorem lineAt_head {s s' : State} {c : Nat} {t : Thread} {pc : Word} {l : Line} (h : lineAt s c t pc = some (l, s')) :
    headIdx pc ≤ headCount l.bytes := by
  have fin : ∀ o : Option (Line × State), (match o with
      | some (l, s') => if headIdx pc ≤ headCount l.bytes then some (l, s') else none
      | none => none) = some (l, s') → headIdx pc ≤ headCount l.bytes := by
    intro o ho
    cases o with
    | none => cases ho
    | some p =>
      obtain ⟨l0, s0⟩ := p
      simp only at ho
      split at ho
      · rename_i hn
        cases ho
        exact hn
      · cases ho
  simp only [lineAt] at h
  split at h
  · cases h
  · exact fin _ h

/-- A program that completes after it has entered the next line. -/
theorem runThread_entered {body : Exec Next} {e : Env} {l : Line} {pc : Word} (hi : Issues s c k t g)
    (hlat : e.lat ≤ 16) (hb : EStateM.run body (start s c k t) = .ok .advance e) (hr : e.rowEnd = false) (hu : e.unit = none) (hs : e.th.step = false)
    (he : e.th.entered = some (pc, l)) (hpc : pc = nextHead e.th) (hn : headIdx pc ≤ headCount l.bytes) :
    runThread g body s = .next (retired e.s e.core e.slot e.th pc l e.lat) := by
  unfold runThread
  simp only [hi.cur, hi.here, hi.guard, if_true]
  show settle (EStateM.run (body >>= finish) (start s c k t)) = _
  rw [bind_ok hb, finish_entered hlat hr hu hs he hpc hn]
  rfl

/-- What is kept of an entry ends with the instruction. -/
theorem retired_entered (s : State) (c k : Nat) (t : Thread) (x : Option (Word × Line)) (pc : Word) (l : Line) (lat : Nat) :
    retired s c k { t with entered := x } pc l lat = retired s c k t pc l lat := rfl

end Exec
end Sys2Proof.Machine
end

