-- ==== Sys2Proof/Laws/Access.lean ====
section
/-! SUPPORT. Checks, loads and stores (04 R119-R125): what each does when nothing waits. -/

namespace Sys2Proof.Machine
open Exec

namespace Exec

theorem align_ok {e : Env} {a : Word} {n : Nat} (h : a.toNat % n = 0) : EStateM.run (align a n) e = .ok () e := by
  unfold align
  rw [if_pos h, pure_ok]

theorem align_err {e : Env} {a : Word} {n : Nat} (h : a.toNat % n ≠ 0) :
    EStateM.run (align a n) e = .error (.trap (mkStop e 0x13#8 a)) e := by
  unfold align
  rw [if_neg h, trap_err]

theorem access_ok {e : Env} {a : Word} {need : Byte} {p : Place} {s' : State}
    (h : accessAt e.s e.core e.th a need = some (p, s')) : ∃ used, EStateM.run (access a need) e = .ok p { e with s := s', used := used } := by
  unfold accessAt at h
  unfold access
  rw [bind_ok (get_ok _), bind_ok (ctx_ok _)]
  simp only at h ⊢
  cases hm : e.s.mapCheck e.core ((e.s.ctx (e.s.ctxOf e.core)).getD {}) a with
  | error c =>
    simp only [hm] at h
    cases h
  | ok q =>
    simp only [hm] at h ⊢
    have main : ∀ q : Place, (match entryAt e.s e.core e.th a with
        | some (en, s1) => if en.rights &&& need = need then some (q, s1) else none
        | none => none) = some (p, s') →
        ∃ used, EStateM.run (do
          let r ← rights a a
          if r &&& need = need then pure q else trap 0x10#8 a : Exec Place) e = .ok p { e with s := s', used := used } := by
      intro q h
      split at h
      · rename_i en s1 hen
        split at h
        · rename_i hr
          cases h
          obtain ⟨used, hrun⟩ := rights_ok (addr := a) hen
          exact ⟨used, by rw [bind_ok hrun, if_pos hr, pure_ok]⟩
        · cases h
      · cases h
    cases q with
    | mgmt off =>
      simp only at h ⊢
      cases h
      exact ⟨_, rfl⟩
    | sram q => exact main _ h
    | paged q => exact main _ h

theorem observe_first {e : Env} {x : Exec Reply} {r : Reply} {e' : Env} (h : e.th.replies[e.log.length]? = none)
    (hx : EStateM.run x e = .ok r e') : EStateM.run (observe x) e = .ok r { e' with log := e'.log ++ [r] } := by
  unfold observe
  rw [bind_ok (get_ok _)]
  simp only [h]
  rw [bind_ok hx, bind_ok (modify_ok _ _), pure_ok]

theorem observe_again {e : Env} {x : Exec Reply} {r : Reply} (h : e.th.replies[e.log.length]? = some r) :
    EStateM.run (observe x) e = .ok r { e with log := e.log ++ [r] } := by
  unfold observe
  rw [bind_ok (get_ok _)]
  simp only [h, bind_pure_run]
  rw [bind_ok (modify_ok _ _), pure_ok]

theorem answer_val (v : Vec) (a : Word) (e : Env) : EStateM.run (answer (.val v) a) e = .ok v e := rfl

/-- What a load of the own quad slice finds when no earlier attempt has brought an answer: the buffer, or memory (R121, R122). -/
theorem loadReply_ok {e : Env} {a : Word} {n : Nat} {en : BitVec 64} {p : Place} {v : Vec} {i : Nat} (hr : e.th.replies[i]? = none)
    (h : loaded e.s e.core e.th a n en p i = some v) : EStateM.run (loadReply a n en p false) e = .ok (.val v) e := by
  unfold loaded State.keyOf at h
  unfold loadReply
  simp only [hr] at h
  rw [bind_ok (get_ok _), bind_ok (ctx_ok _)]
  simp only
  split at h
  case isTrue => cases h
  case isFalse htw =>
  have htw' : e.th.twin.isSome = false := by simpa using htw
  cases p with
  | paged q => cases h
  | mgmt off => cases h
  | sram q =>
    simp only at h
    split at h
    case isTrue => cases h
    case isFalse hq =>
    have hnear : nearby e (.sram q) false = true := by simpa [nearby] using hq
    split at h
    · rename_i b hb
      split at h
      case isFalse => cases h
      case isTrue hh =>
      cases h
      simp only [hb, hh, htw', hnear, Bool.not_true, Bool.or_self, if_true, Bool.false_eq_true, if_false, pure_ok]
    · rename_i hb
      split at h
      case isTrue => cases h
      case isFalse hf =>
      cases h
      simp only [hb, htw', hnear, Bool.not_true, or_self, Bool.false_eq_true, if_false, hf, pure_ok]

/-- A load from a checked address that does not wait (R121, R122). -/
theorem loadAt_ok {e : Env} {a : Word} {n : Nat} {en : BitVec 64} {p : Place} {v : Vec} (hlog : e.log = [])
    (h : loaded e.s e.core e.th a n en p = some v) : EStateM.run (loadAt a n en p) e = .ok v { e with log := [.val v] } := by
  have step : EStateM.run (observe (loadReply a n en p false)) e = .ok (.val v) { e with log := [.val v] } := by
    cases hr : e.th.replies[0]? with
    | none => simpa [hlog] using observe_first (by rw [hlog]; exact hr) (loadReply_ok hr h)
    | some r =>
      have hv : r = .val v := by
        unfold loaded at h
        simp only [hr] at h
        cases r with
        | val w => cases h; rfl
        | err c => cases h
      subst hv
      have := observe_again (x := loadReply a n en p false) (e := e) (by rw [hlog]; exact hr)
      rwa [hlog] at this
  unfold loadAt
  rw [bind_ok step]
  cases p <;> rfl

/-- A store finds an entry of the buffer free (R121). -/
theorem store_ok {e : Env} {a : Word} {v : Vec} {en : BitVec 64} (h : e.th.sb.length < 8) :
    EStateM.run (store a v en) e = .ok () { e with th := { e.th with
      sb := e.th.sb ++ [.store (Word.ofNat (e.s.keyOf e.core a)) v en a] } } := by
  unfold store
  rw [bind_ok (get_ok _), bind_ok (ctx_ok _)]
  simp only
  rw [if_neg (by omega)]
  exact modTh_ok _ _

theorem drained_ok {e : Env} (h : Drained e.th) : EStateM.run drained e = .ok () e := by
  unfold drained
  rw [bind_ok (get_ok _), h.1, h.2]
  rfl

theorem settled_ok {e : Env} (h : Drained e.th) (h2 : e.th.outst = 0) : EStateM.run settled e = .ok () e := by
  unfold settled
  rw [bind_ok (drained_ok h), bind_ok (get_ok _), if_pos h2, pure_ok]

end Exec
end Sys2Proof.Machine
end

