-- ==== Sys2Proof/Laws/Encode.lean ====
section
/-! SUPPORT. Reading back the fields of an encoded instruction, layout by layout (02 R41, R45-R47), and how a form is found. -/

namespace Sys2Proof

/-! ### Fields of concatenations -/

theorem extract_append_high {a b n : Nat} (x : BitVec a) (y : BitVec b) (k : Nat) (h : b ≤ k) :
    (x ++ y).extractLsb' k n = x.extractLsb' (k - b) n := by
  apply BitVec.eq_of_getLsbD_eq
  intro i _
  have : ¬ (k + i < b) := by omega
  simp only [BitVec.getLsbD_extractLsb', BitVec.getLsbD_append, this, if_false, show k + i - b = k - b + i by omega]

theorem extract_append_low {a b n : Nat} (x : BitVec a) (y : BitVec b) (k : Nat) (h : k + n ≤ b) :
    (x ++ y).extractLsb' k n = y.extractLsb' k n := by
  apply BitVec.eq_of_getLsbD_eq
  intro i hi
  have : k + i < b := by omega
  simp only [BitVec.getLsbD_extractLsb', BitVec.getLsbD_append, this, if_true]

theorem extract_whole {n : Nat} (x : BitVec n) : x.extractLsb' 0 n = x := by simp

theorem extract_widened {a n w : Nat} (x : BitVec a) (k : Nat) (h : a ≤ w) : (x.setWidth w).extractLsb' k n = x.extractLsb' k n := by
  apply BitVec.eq_of_getLsbD_eq
  intro i _
  simp only [BitVec.getLsbD_extractLsb', BitVec.getLsbD_setWidth]
  by_cases h2 : k + i < a
  · have : k + i < w := by omega
    simp [this]
  · rw [BitVec.getLsbD_of_ge x _ (by omega)]
    simp

theorem extract_then_extract {a n : Nat} (x : BitVec a) (h : a ≤ n) : (x.extractLsb' 0 n).setWidth 64 = x.setWidth 64 := by
  apply BitVec.eq_of_getLsbD_eq
  intro i hi
  simp only [BitVec.getLsbD_extractLsb', BitVec.getLsbD_setWidth, hi, decide_true, Bool.true_and, Nat.zero_add]
  by_cases h2 : i < n
  · simp [h2]
  · rw [BitVec.getLsbD_of_ge x _ (by omega)]
    simp

/-! ### The fields of each layout (R45-R47) -/

section Layouts
variable (op : BitVec 6) (d a b c : BitVec 5) (g : Guard) (tl : BitVec 2) (f : BitVec 6)

theorem read_none : Raw.read (Raw.words { op := op, d := d, g := g, tl := tl } .none).1
    (Raw.words { op := op, d := d, g := g, tl := tl } .none).2 .none = { op := op, d := d, g := g, tl := tl } := by
  simp only [Raw.read, Raw.words]
  simp (disch := omega) only [extract_append_high, extract_append_low, extract_whole, Nat.sub_self, Nat.reduceSub]

theorem read_ta : Raw.read (Raw.words { op := op, d := d, g := g, tl := tl, a := a, b := b, f := f } .ta).1
    (Raw.words { op := op, d := d, g := g, tl := tl, a := a, b := b, f := f } .ta).2 .ta
      = { op := op, d := d, g := g, tl := tl, a := a, b := b, f := f } := by
  simp only [Raw.read, Raw.words]
  simp (disch := omega) only [extract_append_high, extract_append_low, extract_widened, extract_whole, Nat.sub_self, Nat.reduceSub]

theorem read_tb {n : Nat} (x : BitVec n) (h : n ≤ 11) :
    Raw.read (Raw.words { op := op, d := d, g := g, tl := tl, a := a, b := b, c := c, f := f, x := x.setWidth 64 } .tb).1
      (Raw.words { op := op, d := d, g := g, tl := tl, a := a, b := b, c := c, f := f, x := x.setWidth 64 } .tb).2 .tb
        = { op := op, d := d, g := g, tl := tl, a := a, b := b, c := c, f := f, x := x.setWidth 64 } := by
  simp only [Raw.read, Raw.words]
  simp (disch := omega) only [extract_append_high, extract_append_low, extract_widened, extract_whole, Nat.sub_self, Nat.reduceSub,
    extract_then_extract]

theorem read_tcs {n : Nat} (x : BitVec n) (h : n ≤ 21) :
    Raw.read (Raw.words { op := op, d := d, g := g, tl := tl, a := a, f := f, x := x.setWidth 64 } .tcs).1
      (Raw.words { op := op, d := d, g := g, tl := tl, a := a, f := f, x := x.setWidth 64 } .tcs).2 .tcs
        = { op := op, d := d, g := g, tl := tl, a := a, f := f, x := x.setWidth 64 } := by
  simp only [Raw.read, Raw.words]
  simp (disch := omega) only [extract_append_high, extract_append_low, extract_widened, extract_whole, Nat.sub_self, Nat.reduceSub,
    extract_then_extract]

theorem read_tc {n : Nat} (x : BitVec n) (h : n ≤ 27) :
    Raw.read (Raw.words { op := op, d := d, g := g, tl := tl, a := a, x := x.setWidth 64 } .tc).1
      (Raw.words { op := op, d := d, g := g, tl := tl, a := a, x := x.setWidth 64 } .tc).2 .tc
        = { op := op, d := d, g := g, tl := tl, a := a, x := x.setWidth 64 } := by
  simp only [Raw.read, Raw.words]
  simp (disch := omega) only [extract_append_high, extract_append_low, extract_widened, extract_whole, Nat.sub_self, Nat.reduceSub,
    extract_then_extract]

theorem read_td (y : BitVec 15) (td : Td) :
    Raw.read (Raw.words { op := op, d := d, g := g, tl := tl, a := a, b := b, c := c, f := f, y := y, td := td } .td).1
      (Raw.words { op := op, d := d, g := g, tl := tl, a := a, b := b, c := c, f := f, y := y, td := td } .td).2 .td
        = { op := op, d := d, g := g, tl := tl, a := a, b := b, c := c, f := f, y := y, td := td } := by
  simp only [Raw.read, Raw.words]
  simp (disch := omega) only [extract_append_high, extract_append_low, extract_whole, Nat.sub_self, Nat.reduceSub]

theorem read_te (x : Word) : Raw.read (Raw.words { op := op, d := d, g := g, tl := tl, x := x } .te).1
    (Raw.words { op := op, d := d, g := g, tl := tl, x := x } .te).2 .te = { op := op, d := d, g := g, tl := tl, x := x } := by
  simp only [Raw.read, Raw.words]
  simp (disch := omega) only [extract_append_high, extract_append_low, extract_whole, Nat.sub_self, Nat.reduceSub]

theorem read_ti (x : BitVec 16) : Raw.read (Raw.words { op := op, d := d, g := g, tl := tl, x := x.setWidth 64 } .ti).1
    (Raw.words { op := op, d := d, g := g, tl := tl, x := x.setWidth 64 } .ti).2 .ti
      = { op := op, d := d, g := g, tl := tl, x := x.setWidth 64 } := by
  simp only [Raw.read, Raw.words]
  simp (disch := omega) only [extract_append_high, extract_append_low, extract_widened, extract_whole, Nat.sub_self, Nat.reduceSub]

theorem read_i32 (x : BitVec 32) : Raw.read (Raw.words { op := op, d := d, g := g, tl := tl, x := x.setWidth 64 } .i32).1
    (Raw.words { op := op, d := d, g := g, tl := tl, x := x.setWidth 64 } .i32).2 .i32
      = { op := op, d := d, g := g, tl := tl, x := x.setWidth 64 } := by
  simp only [Raw.read, Raw.words]
  simp (disch := omega) only [extract_append_high, extract_append_low, extract_widened, extract_whole, Nat.sub_self, Nat.reduceSub]

end Layouts

/-! ### Register codes (R18) -/

@[simp] theorem Reg.ofCode_code (r : Reg) : Reg.ofCode r.code = r := by
  cases r with
  | g n => revert n; decide
  | x n => revert n; decide
  | _ => rfl

@[simp] theorem Role.gen_accepts_code (r : Reg) : Role.accepts .gen r.code = true := by
  cases r with
  | g n => revert n; decide
  | x n => revert n; decide
  | _ => rfl

/-! ### Finding the form (R58) -/

theorem decodeForm_found {h : BitVec 16} {t : Word} {l : Layout} {r : Raw} {fm : Form} {o : Op} {fms : List Form}
    (hr : Raw.read h t l = r) (ha : assigned r.op = true) (hl : layoutOf r.op r.tl = some l)
    (hf : (forms r.op).filter (fun fm => fm.sub == r.subOp) = fms) (hfind : fms.find? (fun fm => fm.tl == r.tl.toNat) = some fm)
    (hc : fm.check r = .ok o) : decodeForm h t = .ok (o, r) := by
  have hop : h.extractLsb' 10 6 = r.op := by rw [← hr]; cases l <;> rfl
  have htl : h.extractLsb' 0 2 = r.tl := by rw [← hr]; cases l <;> rfl
  unfold decodeForm
  rw [hop, htl]
  simp only [ha, hl, hr, hf, Bool.not_true, Bool.false_eq_true, if_false]
  cases fms with
  | nil => simp at hfind
  | cons x xs => simp only [hfind, hc]

end Sys2Proof
end

