-- ==== Sys2Proof/Laws/Mem.lean ====
section
/-! SUPPORT. Memory: every operation keeps the canonical form, and a write is read back (01 R28; log entry 4). -/

namespace Sys2Proof.Machine

/-! ### Cells -/

namespace Mem

theorem okFrom_mono {m : List Host.Cell} : ∀ {n k : Nat}, okFrom n m = true → k ≤ n → okFrom k m = true := by
  cases m with
  | nil => intros; rfl
  | cons c t =>
    intro n k h hk
    simp only [okFrom, Bool.and_eq_true, decide_eq_true_eq] at h ⊢
    exact ⟨⟨by omega, h.1.2⟩, h.2⟩

theorem okFrom_setByte {m : List Host.Cell} {a : Nat} {b : Byte} : ∀ {n : Nat}, okFrom n m = true → n ≤ a → okFrom n (setByte m a b) = true := by
  induction m with
  | nil =>
    intro n _ ha
    simp only [setByte]
    split
    · rfl
    · simpa [okFrom, ha] using ‹_›
  | cons c t ih =>
    obtain ⟨k, v⟩ := c
    intro n h ha
    simp only [okFrom, Bool.and_eq_true, decide_eq_true_eq, bne_iff_ne, ne_eq] at h
    simp only [setByte]
    split
    · split
      · simp [okFrom, h]
      · simp only [okFrom, Bool.and_eq_true, decide_eq_true_eq, bne_iff_ne, ne_eq]
        exact ⟨⟨ha, ‹_›⟩, ⟨by omega, h.1.2⟩, h.2⟩
    · split
      · split
        · exact okFrom_mono h.2 (by omega)
        · simp only [okFrom, Bool.and_eq_true, decide_eq_true_eq, bne_iff_ne, ne_eq]
          exact ⟨⟨ha, ‹_›⟩, by subst_vars; exact h.2⟩
      · simp only [okFrom, Bool.and_eq_true, decide_eq_true_eq, bne_iff_ne, ne_eq]
        exact ⟨h.1, ih h.2 (by omega)⟩

theorem wf_setByte {m : List Host.Cell} (h : wf m = true) (a : Nat) (b : Byte) : wf (setByte m a b) = true :=
  okFrom_setByte h (Nat.zero_le _)

theorem byte_below {m : List Host.Cell} : ∀ {n a : Nat}, okFrom n m = true → a < n → byte m a = 0#8 := by
  induction m with
  | nil => intros; rfl
  | cons c t ih =>
    obtain ⟨k, v⟩ := c
    intro n a h ha
    simp only [okFrom, Bool.and_eq_true, decide_eq_true_eq] at h
    simp only [byte]
    rw [if_neg (by omega)]
    exact ih h.2 (by omega)

theorem byte_setByte_same {m : List Host.Cell} {a : Nat} {b : Byte} : ∀ {n : Nat}, okFrom n m = true → byte (setByte m a b) a = b := by
  induction m with
  | nil =>
    intro n _
    simp only [setByte]
    split
    · simp [byte, *]
    · simp [byte]
  | cons c t ih =>
    obtain ⟨k, v⟩ := c
    intro n h
    simp only [okFrom, Bool.and_eq_true, decide_eq_true_eq] at h
    simp only [setByte]
    split
    · split
      · subst_vars
        simp only [byte]
        rw [if_neg (by omega)]
        exact byte_below h.2 (by omega)
      · simp [byte]
    · split
      · split
        · subst_vars
          exact byte_below h.2 (by omega)
        · simp [byte]
      · simp only [byte]
        rw [if_neg (by omega)]
        exact ih h.2

theorem byte_setByte_ne {m : List Host.Cell} {a x : Nat} {b : Byte} (hx : x ≠ a) : byte (setByte m a b) x = byte m x := by
  induction m with
  | nil =>
    simp only [setByte]
    split
    · rfl
    · simp [byte, Ne.symm hx]
  | cons c t ih =>
    obtain ⟨k, v⟩ := c
    simp only [setByte]
    split
    · split
      · rfl
      · simp [byte, Ne.symm hx]
    · split
      · split
        · subst_vars
          simp [byte, Ne.symm hx]
        · subst_vars
          simp [byte, Ne.symm hx]
      · simp only [byte]
        rw [ih]

theorem wf_write {m : List Host.Cell} (h : wf m = true) (a n v : Nat) : wf (write m a n v) = true := by
  induction n generalizing m a v with
  | zero => exact h
  | succ n ih => exact ih (wf_setByte h ..) ..

theorem wf_writeEn {m : List Host.Cell} (h : wf m = true) (a : Nat) (v : Vec) (en : BitVec 64) (n : Nat) : wf (writeEn m a v en n) = true := by
  induction n with
  | zero => exact h
  | succ n ih =>
    simp only [writeEn]
    split
    · exact wf_setByte ih ..
    · exact ih

theorem wf_writeBytes {m : List Host.Cell} (h : wf m = true) (a : Nat) (l : List Byte) : wf (writeBytes m a l) = true := by
  induction l generalizing m a with
  | nil => exact h
  | cons b t ih => exact ih (wf_setByte h ..) ..

theorem wf_filter {m : List Host.Cell} (p : Host.Cell → Bool) (h : wf m = true) : wf (m.filter p) = true := by
  suffices ∀ n, okFrom n m = true → okFrom n (m.filter p) = true from this 0 h
  induction m with
  | nil => intro n _; rfl
  | cons c t ih =>
    intro n h
    simp only [okFrom, Bool.and_eq_true, decide_eq_true_eq] at h
    simp only [List.filter_cons]
    split
    · simp only [okFrom, Bool.and_eq_true, decide_eq_true_eq]
      exact ⟨h.1, ih (okFrom_mono h.2 (Nat.zero_le _)) _ h.2⟩
    · exact okFrom_mono (ih (okFrom_mono h.2 (Nat.zero_le _)) _ h.2) (by omega)

theorem byte_write_ne {a n : Nat} : ∀ {m : List Host.Cell} {v x : Nat}, (x < a ∨ a + n ≤ x) → byte (write m a n v) x = byte m x := by
  induction n generalizing a with
  | zero => intros; rfl
  | succ n ih =>
    intro m v x h
    simp only [write]
    rw [ih (by omega), byte_setByte_ne (by omega)]

theorem byte_writeEn {m : List Host.Cell} (h : wf m = true) (a : Nat) (v : Vec) (en : BitVec 64) (x : Nat) : ∀ n, n ≤ 64 →
    byte (writeEn m a v en n) x = if a ≤ x ∧ x < a + n ∧ en.getLsbD (x - a) = true then v.extractLsb' (8 * (x - a)) 8 else byte m x := by
  intro n
  induction n with
  | zero =>
    intro _
    rw [if_neg (by omega)]
    rfl
  | succ n ih =>
    intro hn
    simp only [writeEn]
    by_cases hx : x = a + n
    · subst hx
      simp only [show a + n - a = n by omega]
      split
      · rw [byte_setByte_same (wf_writeEn h ..), if_pos ⟨by omega, by omega, ‹_›⟩]
      · rw [ih (by omega), if_neg (by omega), if_neg (by simp [*])]
    · have e : byte (if en.getLsbD n = true then setByte (writeEn m a v en n) (a + n) (v.extractLsb' (8 * n) 8) else writeEn m a v en n) x
          = byte (writeEn m a v en n) x := by
        split
        · exact byte_setByte_ne hx
        · rfl
      rw [show byte _ x = _ from e, ih (by omega)]
      by_cases hc : a ≤ x ∧ x < a + n ∧ en.getLsbD (x - a) = true
      · rw [if_pos hc, if_pos ⟨hc.1, by omega, hc.2.2⟩]
      · rw [if_neg hc, if_neg (fun h => hc ⟨h.1, by omega, h.2.2⟩)]

end Mem

/-! ### Sets -/

namespace NatSet

theorem okFrom_mono {l : List Nat} {n k : Nat} (h : okFrom n l = true) (hk : k ≤ n) : okFrom k l = true := by
  cases l with
  | nil => rfl
  | cons c t =>
    simp only [okFrom, Bool.and_eq_true, decide_eq_true_eq] at h ⊢
    exact ⟨by omega, h.2⟩

theorem okFrom_insert {l : List Nat} {a : Nat} : ∀ {n : Nat}, okFrom n l = true → n ≤ a → okFrom n (insert l a) = true := by
  induction l with
  | nil => intro n _ h; simpa [insert, okFrom] using h
  | cons k t ih =>
    intro n h ha
    simp only [okFrom, Bool.and_eq_true, decide_eq_true_eq] at h
    simp only [insert]
    split
    · simp only [okFrom, Bool.and_eq_true, decide_eq_true_eq]
      exact ⟨ha, by omega, h.2⟩
    · split
      · simp only [okFrom, Bool.and_eq_true, decide_eq_true_eq]
        exact h
      · simp only [okFrom, Bool.and_eq_true, decide_eq_true_eq]
        exact ⟨h.1, ih h.2 (by omega)⟩

theorem okFrom_erase {l : List Nat} {a : Nat} : ∀ {n : Nat}, okFrom n l = true → okFrom n (erase l a) = true := by
  induction l with
  | nil => intro n _; rfl
  | cons k t ih =>
    intro n h
    simp only [okFrom, Bool.and_eq_true, decide_eq_true_eq] at h
    simp only [erase]
    split
    · exact okFrom_mono h.2 (by omega)
    · simp only [okFrom, Bool.and_eq_true, decide_eq_true_eq]
      exact ⟨h.1, ih h.2⟩

theorem okFrom_filter {l : List Nat} (p : Nat → Bool) : ∀ {n : Nat}, okFrom n l = true → okFrom n (l.filter p) = true := by
  induction l with
  | nil => intro n _; rfl
  | cons k t ih =>
    intro n h
    simp only [okFrom, Bool.and_eq_true, decide_eq_true_eq] at h
    simp only [List.filter_cons]
    split
    · simp only [okFrom, Bool.and_eq_true, decide_eq_true_eq]
      exact ⟨h.1, ih h.2⟩
    · exact okFrom_mono (ih h.2) (by omega)

end NatSet

/-! ### State -/

theorem State.Inv.write {s : State} (h : s.Inv) (a n v : Nat) : (s.write a n v).Inv := ⟨Mem.wf_write h.1 .., h.2⟩
theorem State.Inv.writeEn {s : State} (h : s.Inv) (a : Nat) (v : Vec) (en : BitVec 64) : (s.writeEn a v en).Inv :=
  ⟨Mem.wf_writeEn h.1 .., h.2⟩
theorem State.Inv.setFull {s : State} (h : s.Inv) (a : Nat) : (s.setFull a).Inv := ⟨h.1, NatSet.okFrom_erase h.2⟩
theorem State.Inv.setEmpty {s : State} (h : s.Inv) (a : Nat) : (s.setEmpty a).Inv := ⟨h.1, NatSet.okFrom_insert h.2 (Nat.zero_le _)⟩

theorem State.Inv.fillWords {s : State} (h : s.Inv) (a n : Nat) : (s.fillWords a n).Inv := by
  induction n generalizing s a with
  | zero => exact h
  | succ n ih =>
    simp only [State.fillWords]
    split
    · exact ih (h.setFull a) _
    · exact h

theorem State.Inv.engineWrite {s : State} (h : s.Inv) (a : Nat) (l : List Byte) : (s.engineWrite a l).Inv := by
  unfold State.engineWrite
  split
  · exact h
  · have h2 : ({ s with mem := Mem.writeBytes s.mem a l } : State).Inv := ⟨Mem.wf_writeBytes h.1 .., h.2⟩
    exact h2.fillWords ..

theorem State.Inv.takeSlices {s : State} (h : s.Inv) (l : List Nat) : (s.takeSlices l).2.Inv :=
  ⟨Mem.wf_filter _ h.1, NatSet.okFrom_filter _ h.2⟩

theorem State.Inv.putSlices {s : State} (h : s.Inv) (l : List Nat) (cells : List Host.Cell) (empties : List Nat) :
    (s.putSlices l cells empties).Inv := by
  unfold State.putSlices
  have h1 := h.takeSlices l
  generalize (s.takeSlices l).2 = t at h1
  have hm : ∀ (put : List Host.Cell → Host.Cell → List Host.Cell), (∀ m c, Mem.wf m = true → Mem.wf (put m c) = true) →
      ∀ (cs : List Host.Cell) (m : List Host.Cell), Mem.wf m = true → Mem.wf (cs.foldl put m) = true := by
    intro put hp cs
    induction cs with
    | nil => intro m hm; exact hm
    | cons c cs ih => intro m hm; exact ih _ (hp _ _ hm)
  have he : ∀ (put : State → Nat → State), (∀ s c, State.Inv s → (put s c).Inv) →
      ∀ (es : List Nat) (s : State), s.Inv → (es.foldl put s).Inv := by
    intro put hp es
    induction es with
    | nil => intro s hs; exact hs
    | cons e es ih => intro s hs; exact ih _ (hp _ _ hs)
  refine he _ (fun s e hs => ?_) empties _ ⟨hm _ (fun m c hw => ?_) cells _ h1.1, h1.2⟩
  · dsimp only
    split
    · exact hs.setEmpty _
    · exact hs
  · dsimp only
    split
    · exact Mem.wf_setByte hw ..
    · exact hw

theorem State.Inv.loseSram {s : State} (h : s.Inv) : s.loseSram.Inv := ⟨Mem.wf_filter _ h.1, NatSet.okFrom_filter _ h.2⟩

end Sys2Proof.Machine
end

