-- ==== Sys2Proof/Laws/PerInstr.lean ====
section
/-! SUPPORT. Instruction by instruction: the encoding has an assigned major, a tail length its layout is read at, and fields that
read back as they were put in (02 R41, R45-R47, R55). -/

namespace Sys2Proof.Laws.Encoding

open Sys2Proof

/-- The encoding of an instruction passes the first two steps of R58, and no field of it is lost. -/
def Statement (i : Instr) : Prop :=
  ∀ l r, i.raw = some (l, r) → assigned r.op = true ∧ layoutOf r.op r.tl = some l ∧ Raw.read (r.words l).1 (r.words l).2 l = r

theorem Statement.event {i : Instr} (h : i.raw = none) : Statement i := by
  intro l r h2
  rw [h] at h2
  cases h2

theorem Statement.of {i : Instr} {l : Layout} {r : Raw} (h : i.raw = some (l, r)) (ha : assigned r.op = true)
    (hl : layoutOf r.op r.tl = some l) (hr : Raw.read (r.words l).1 (r.words l).2 l = r) : Statement i := by
  intro l2 r2 h2
  rw [h] at h2
  cases h2
  exact ⟨ha, hl, hr⟩

theorem lineFetchComplete (core slot : Nat) (ext : Option ExtReply) : Statement (.lineFetchComplete core slot ext) :=
  .event rfl

theorem syncAttempt (core slot : Nat) : Statement (.syncAttempt core slot) :=
  .event rfl

theorem syncAttemptResult (core slot : Nat) : Statement (.syncAttemptResult core slot) :=
  .event rfl

theorem atomicUnitStep (n : Nat) : Statement (.atomicUnitStep n) :=
  .event rfl

theorem releaseComplete (core slot : Nat) : Statement (.releaseComplete core slot) :=
  .event rfl

theorem sfuRequestStart (core : Nat) : Statement (.sfuRequestStart core) :=
  .event rfl

theorem sfuRequestComplete (core : Nat) : Statement (.sfuRequestComplete core) :=
  .event rfl

theorem dividerComplete (core slot : Nat) : Statement (.dividerComplete core slot) :=
  .event rfl

theorem streamReadAhead (core slot sreg : Nat) (ext : Option ExtReply) : Statement (.streamReadAhead core slot sreg ext) :=
  .event rfl

theorem joinReevaluate (core slot : Nat) : Statement (.joinReevaluate core slot) :=
  .event rfl

theorem msendArrival (n : Nat) : Statement (.msendArrival n) :=
  .event rfl

theorem messageDelivery (n : Nat) : Statement (.messageDelivery n) :=
  .event rfl

theorem semaphoreCycleUpdate (core : Nat) : Statement (.semaphoreCycleUpdate core) :=
  .event rfl

theorem parkedInstructionRetry (core slot : Nat) : Statement (.parkedInstructionRetry core slot) :=
  .event rfl

theorem waitLimitExpiry (core slot : Nat) : Statement (.waitLimitExpiry core slot) :=
  .event rfl

theorem linkWordArrival (core : Nat) (east : Bool) : Statement (.linkWordArrival core east) :=
  .event rfl

theorem meJobStart (cluster : Nat) : Statement (.meJobStart cluster) :=
  .event rfl

theorem meJobComplete (cluster : Nat) : Statement (.meJobComplete cluster) :=
  .event rfl

theorem meIdleGate (cluster : Nat) : Statement (.meIdleGate cluster) :=
  .event rfl

theorem meWakeComplete (cluster : Nat) : Statement (.meWakeComplete cluster) :=
  .event rfl

theorem retrieverCycle (core : Nat) : Statement (.retrieverCycle core) :=
  .event rfl

theorem copyStart (cluster core : Nat) : Statement (.copyStart cluster core) :=
  .event rfl

theorem copyGranuleCount (cluster core id unit : Nat) (ext : Option ExtReply) : Statement (.copyGranuleCount cluster core id unit ext) :=
  .event rfl

theorem copyComplete (cluster core id : Nat) : Statement (.copyComplete cluster core id) :=
  .event rfl

theorem copyEndFault (cluster core id : Nat) : Statement (.copyEndFault cluster core id) :=
  .event rfl

theorem kseCommandStart (cluster : Nat) : Statement (.kseCommandStart cluster) :=
  .event rfl

theorem kseCommandComplete (cluster : Nat) : Statement (.kseCommandComplete cluster) :=
  .event rfl

theorem rinvAnswer (core slot answer : Nat) : Statement (.rinvAnswer core slot answer) :=
  .event rfl

theorem invocationArrival (pkt : InvPacket) : Statement (.invocationArrival pkt) :=
  .event rfl

theorem lzresArrival (src : FabSource) (target : Word) : Statement (.lzresArrival src target) :=
  .event rfl

theorem lzrelArrival (src : FabSource) (token : Word) : Statement (.lzrelArrival src token) :=
  .event rfl

theorem lzSegmentArrival (seg : LzSegment) : Statement (.lzSegmentArrival seg) :=
  .event rfl

theorem lzTornTimeout (core lz : Nat) : Statement (.lzTornTimeout core lz) :=
  .event rfl

theorem sigupdArrival (src : SigSource) : Statement (.sigupdArrival src) :=
  .event rfl

theorem sigwaitReevaluate (core slot : Nat) : Statement (.sigwaitReevaluate core slot) :=
  .event rfl

theorem pairCompare (core slot : Nat) : Statement (.pairCompare core slot) :=
  .event rfl

theorem trapRecordDeferred (ctx : Nat) : Statement (.trapRecordDeferred ctx) :=
  .event rfl

theorem handlerWatchdogExpiry (ctx rec : Nat) : Statement (.handlerWatchdogExpiry ctx rec) :=
  .event rfl

theorem storeBufferDrain (core slot : Nat) : Statement (.storeBufferDrain core slot) :=
  .event rfl

theorem homeAgentRequest (src : HomeSource) : Statement (.homeAgentRequest src) :=
  .event rfl

theorem homeResponse (n : Nat) (ext : Option ExtReply) : Statement (.homeResponse n ext) :=
  .event rfl

theorem storeAck (n : Nat) : Statement (.storeAck n) :=
  .event rfl

theorem lateRefusal (n : Nat) (link : Bool) : Statement (.lateRefusal n link) :=
  .event rfl

theorem plbFillComplete (core slot : Nat) : Statement (.plbFillComplete core slot) :=
  .event rfl

theorem hostAtomicopCompletion (n : Nat) (reply : AtomicReply) : Statement (.hostAtomicopCompletion n reply) :=
  .event rfl

theorem slotAllocatorLaunch (core : Nat) : Statement (.slotAllocatorLaunch core) :=
  .event rfl

theorem stealSweep (core : Nat) : Statement (.stealSweep core) :=
  .event rfl

theorem stealBackoffExpiry (core : Nat) : Statement (.stealBackoffExpiry core) :=
  .event rfl

theorem threadRestore (core : Nat) : Statement (.threadRestore core) :=
  .event rfl

theorem pmcPowerLimit (quad : Nat) : Statement (.pmcPowerLimit quad) :=
  .event rfl

theorem evictSave (core slot : Nat) : Statement (.evictSave core slot) :=
  .event rfl

theorem parkEvictExpiry (core : Nat) : Statement (.parkEvictExpiry core) :=
  .event rfl

theorem preempt (core : Nat) : Statement (.preempt core) :=
  .event rfl

theorem doorbell (q : Nat) (value : HostWrite) : Statement (.doorbell q value) :=
  .event rfl

theorem queueEnable (q : Nat) : Statement (.queueEnable q) :=
  .event rfl

theorem qsPick (ext : Option ExtReply) : Statement (.qsPick ext) :=
  .event rfl

theorem qsWaitEvaluate (q : Nat) (ext : Option ExtReply) : Statement (.qsWaitEvaluate q ext) :=
  .event rfl

theorem qsFaultParkExpiry (q : Nat) : Statement (.qsFaultParkExpiry q) :=
  .event rfl

theorem qsSignalAck (q : Nat) (ext : Option ExtReply) : Statement (.qsSignalAck q ext) :=
  .event rfl

theorem migrationDrain (ctx : Nat) : Statement (.migrationDrain ctx) :=
  .event rfl

theorem migrationCopy (ctx : Nat) (place : Placement) : Statement (.migrationCopy ctx place) :=
  .event rfl

theorem migrationResume (ctx : Nat) : Statement (.migrationResume ctx) :=
  .event rfl

theorem migrationTimeout (ctx : Nat) : Statement (.migrationTimeout ctx) :=
  .event rfl

theorem migrationReportWrite (ctx : Nat) : Statement (.migrationReportWrite ctx) :=
  .event rfl

theorem contextSave (ctx : Nat) (out : Bool) : Statement (.contextSave ctx out) :=
  .event rfl

theorem contextRestore (ctx : Nat) (place : Restore) : Statement (.contextRestore ctx place) :=
  .event rfl

theorem coreMigration (src dst : Nat) : Statement (.coreMigration src dst) :=
  .event rfl

theorem forwardQuietExpiry (core n : Nat) : Statement (.forwardQuietExpiry core n) :=
  .event rfl

theorem burstIdleEntry : Statement .burstIdleEntry :=
  .event rfl

theorem burstRetainEntry : Statement .burstRetainEntry :=
  .event rfl

theorem burstOffEntry : Statement .burstOffEntry :=
  .event rfl

theorem watchDozeEntry : Statement .watchDozeEntry :=
  .event rfl

theorem dramSelfRefreshEntry : Statement .dramSelfRefreshEntry :=
  .event rfl

theorem islandWake (island target : Nat) : Statement (.islandWake island target) :=
  .event rfl

theorem islandWakeComplete (island : Nat) : Statement (.islandWakeComplete island) :=
  .event rfl

theorem dramExitComplete : Statement .dramExitComplete :=
  .event rfl

theorem clockChange (core mhz : Nat) : Statement (.clockChange core mhz) :=
  .event rfl

theorem energyUpdate : Statement .energyUpdate :=
  .event rfl

theorem triggerEvaluate (entry : Nat) (ext : Option ExtReply) : Statement (.triggerEvaluate entry ext) :=
  .event rfl

theorem triggerCooldownExpiry (entry : Nat) : Statement (.triggerCooldownExpiry entry) :=
  .event rfl

theorem triggerEntryWrite (entry word : Nat) (value : Word) : Statement (.triggerEntryWrite entry word value) :=
  .event rfl

theorem scHeel : Statement .scHeel :=
  .event rfl

theorem heelFreezeComplete : Statement .heelFreezeComplete :=
  .event rfl

theorem scReleaseResume : Statement .scReleaseResume :=
  .event rfl

theorem scReleaseKill : Statement .scReleaseKill :=
  .event rfl

theorem scAckwin (ms : Nat) : Statement (.scAckwin ms) :=
  .event rfl

theorem heelAckWindowExpiry : Statement .heelAckWindowExpiry :=
  .event rfl

theorem errorDetected (err : HwError) : Statement (.errorDetected err) :=
  .event rfl

theorem patrolScrub : Statement .patrolScrub :=
  .event rfl

theorem thermalThrottle : Statement .thermalThrottle :=
  .event rfl

theorem thermalTrip : Statement .thermalTrip :=
  .event rfl

theorem timeTick : Statement .timeTick :=
  .event rfl

theorem flitReceive (port : Nat) (flit : BitVec 256) : Statement (.flitReceive port flit) :=
  .event rfl

theorem linkControlReceive (port : Nat) (ctl : LinkControl) : Statement (.linkControlReceive port ctl) :=
  .event rfl

theorem linkAckTimeout (port : Nat) : Statement (.linkAckTimeout port) :=
  .event rfl

theorem linkTrainingComplete (port announced : Nat) : Statement (.linkTrainingComplete port announced) :=
  .event rfl

theorem linkTrainingLost (port : Nat) : Statement (.linkTrainingLost port) :=
  .event rfl

theorem wake (value : HostWrite) : Statement (.wake value) :=
  .event rfl

theorem fqrd (value : HostWrite) : Statement (.fqrd value) :=
  .event rfl

theorem mqrd (value : HostWrite) : Statement (.mqrd value) :=
  .event rfl

theorem mreply (tag : Nat) (value status : HostWrite) : Statement (.mreply tag value status) :=
  .event rfl

theorem msixModerationExpiry (vec : Nat) : Statement (.msixModerationExpiry vec) :=
  .event rfl

theorem plbInvalidate (cmd : Word) : Statement (.plbInvalidate cmd) :=
  .event rfl

theorem translationInvalidate (cmd : Word) : Statement (.translationInvalidate cmd) :=
  .event rfl

theorem routeCacheDrop (cmd : Word) : Statement (.routeCacheDrop cmd) :=
  .event rfl

theorem tableWrite (cmd : Word) : Statement (.tableWrite cmd) :=
  .event rfl

theorem mgmtCommandComplete : Statement .mgmtCommandComplete :=
  .event rfl

theorem fqlog (value : Word) : Statement (.fqlog value) :=
  .event rfl

theorem mqlog (value : Word) : Statement (.mqlog value) :=
  .event rfl

theorem memoryWindowRead (off size : Nat) (ext : Option ExtReply) : Statement (.memoryWindowRead off size ext) :=
  .event rfl

theorem memoryWindowWrite (off size : Nat) (value : Word) : Statement (.memoryWindowWrite off size value) :=
  .event rfl

theorem energyAccountLowRead (ctx : Nat) : Statement (.energyAccountLowRead ctx) :=
  .event rfl

theorem flashRead : Statement .flashRead :=
  .event rfl

theorem flashProg : Statement .flashProg :=
  .event rfl

theorem flashErase : Statement .flashErase :=
  .event rfl

theorem flashOpComplete : Statement .flashOpComplete :=
  .event rfl

theorem attestGo : Statement .attestGo :=
  .event rfl

theorem attestReportDone : Statement .attestReportDone :=
  .event rfl

theorem bootctl (value : Word) : Statement (.bootctl value) :=
  .event rfl

theorem debugAttachSelect (value : Word) : Statement (.debugAttachSelect value) :=
  .event rfl

theorem debugStepMode (value : Word) : Statement (.debugStepMode value) :=
  .event rfl

theorem debugResume (value : Word) : Statement (.debugResume value) :=
  .event rfl

theorem debugKill (value : Word) : Statement (.debugKill value) :=
  .event rfl

theorem registerWrite (plinth : Bool) (off size : Nat) (value : Word) : Statement (.registerWrite plinth off size value) :=
  .event rfl

theorem powerOnReset (rom : RomFinding) : Statement (.powerOnReset rom) :=
  .event rfl

theorem plinthBringup (trained : BringUp) : Statement (.plinthBringup trained) :=
  .event rfl

theorem plinthWatchdogExpiry : Statement .plinthWatchdogExpiry :=
  .event rfl

theorem markerFlip (slotB : Bool) (written : Nat) : Statement (.markerFlip slotB written) :=
  .event rfl

theorem contextCreate (spec : CtxSpec) : Statement (.contextCreate spec) :=
  .event rfl

theorem contextEnd (ctx : Nat) : Statement (.contextEnd ctx) :=
  .event rfl

theorem powerLoss : Statement .powerLoss :=
  .event rfl

theorem inFieldTest (cluster : Nat) (curve : List (Nat × Nat)) : Statement (.inFieldTest cluster curve) :=
  .event rfl

theorem nop (g : Guard) : Statement (.nop g) :=
  .of rfl rfl rfl (read_none ..)

theorem brk (g : Guard) : Statement (.brk g) :=
  .of rfl rfl rfl (read_none ..)

theorem brkCode (g : Guard) (code : BitVec 16) : Statement (.brkCode g code) :=
  .of rfl rfl rfl (read_ti ..)

theorem trap (g : Guard) (code : BitVec 16) : Statement (.trap g code) :=
  .of rfl rfl rfl (read_ti ..)

theorem eret (g : Guard) : Statement (.eret g) :=
  .of rfl rfl rfl (read_none ..)

theorem add (g : Guard) (d a b : Reg) : Statement (.add g d a b) :=
  .of rfl rfl rfl (read_ta ..)

theorem sub (g : Guard) (d a b : Reg) : Statement (.sub g d a b) :=
  .of rfl rfl rfl (read_ta ..)

theorem land (g : Guard) (d a b : Reg) : Statement (.land g d a b) :=
  .of rfl rfl rfl (read_ta ..)

theorem lor (g : Guard) (d a b : Reg) : Statement (.lor g d a b) :=
  .of rfl rfl rfl (read_ta ..)

theorem lxor (g : Guard) (d a b : Reg) : Statement (.lxor g d a b) :=
  .of rfl rfl rfl (read_ta ..)

theorem andn (g : Guard) (d a b : Reg) : Statement (.andn g d a b) :=
  .of rfl rfl rfl (read_ta ..)

theorem shl (g : Guard) (d a b : Reg) : Statement (.shl g d a b) :=
  .of rfl rfl rfl (read_ta ..)

theorem shr (g : Guard) (d a b : Reg) : Statement (.shr g d a b) :=
  .of rfl rfl rfl (read_ta ..)

theorem sar (g : Guard) (d a b : Reg) : Statement (.sar g d a b) :=
  .of rfl rfl rfl (read_ta ..)

theorem rol (g : Guard) (d a b : Reg) : Statement (.rol g d a b) :=
  .of rfl rfl rfl (read_ta ..)

theorem min (g : Guard) (d a b : Reg) : Statement (.min g d a b) :=
  .of rfl rfl rfl (read_ta ..)

theorem max (g : Guard) (d a b : Reg) : Statement (.max g d a b) :=
  .of rfl rfl rfl (read_ta ..)

theorem minu (g : Guard) (d a b : Reg) : Statement (.minu g d a b) :=
  .of rfl rfl rfl (read_ta ..)

theorem maxu (g : Guard) (d a b : Reg) : Statement (.maxu g d a b) :=
  .of rfl rfl rfl (read_ta ..)

theorem addSat (g : Guard) (d a b : Reg) : Statement (.addSat g d a b) :=
  .of rfl rfl rfl (read_ta ..)

theorem subSat (g : Guard) (d a b : Reg) : Statement (.subSat g d a b) :=
  .of rfl rfl rfl (read_ta ..)

theorem addSatu (g : Guard) (d a b : Reg) : Statement (.addSatu g d a b) :=
  .of rfl rfl rfl (read_ta ..)

theorem subSatu (g : Guard) (d a b : Reg) : Statement (.subSatu g d a b) :=
  .of rfl rfl rfl (read_ta ..)

theorem sel (g : Guard) (d a b : Reg) (c : PReg) : Statement (.sel g d a b c) :=
  .of rfl rfl rfl (read_tb (x := 0#11) (h := by decide) ..)

theorem addImm (g : Guard) (d a : Reg) (imm : BitVec 21) : Statement (.addImm g d a imm) :=
  .of rfl rfl rfl (read_tcs (h := by decide) ..)

theorem landImm (g : Guard) (d a : Reg) (imm : BitVec 21) : Statement (.landImm g d a imm) :=
  .of rfl rfl rfl (read_tcs (h := by decide) ..)

theorem lorImm (g : Guard) (d a : Reg) (imm : BitVec 21) : Statement (.lorImm g d a imm) :=
  .of rfl rfl rfl (read_tcs (h := by decide) ..)

theorem lxorImm (g : Guard) (d a : Reg) (imm : BitVec 21) : Statement (.lxorImm g d a imm) :=
  .of rfl rfl rfl (read_tcs (h := by decide) ..)

theorem andnImm (g : Guard) (d a : Reg) (imm : BitVec 21) : Statement (.andnImm g d a imm) :=
  .of rfl rfl rfl (read_tcs (h := by decide) ..)

theorem minImm (g : Guard) (d a : Reg) (imm : BitVec 21) : Statement (.minImm g d a imm) :=
  .of rfl rfl rfl (read_tcs (h := by decide) ..)

theorem maxImm (g : Guard) (d a : Reg) (imm : BitVec 21) : Statement (.maxImm g d a imm) :=
  .of rfl rfl rfl (read_tcs (h := by decide) ..)

theorem minuImm (g : Guard) (d a : Reg) (imm : BitVec 21) : Statement (.minuImm g d a imm) :=
  .of rfl rfl rfl (read_tcs (h := by decide) ..)

theorem maxuImm (g : Guard) (d a : Reg) (imm : BitVec 21) : Statement (.maxuImm g d a imm) :=
  .of rfl rfl rfl (read_tcs (h := by decide) ..)

theorem addSatImm (g : Guard) (d a : Reg) (imm : BitVec 21) : Statement (.addSatImm g d a imm) :=
  .of rfl rfl rfl (read_tcs (h := by decide) ..)

theorem addSatuImm (g : Guard) (d a : Reg) (imm : BitVec 21) : Statement (.addSatuImm g d a imm) :=
  .of rfl rfl rfl (read_tcs (h := by decide) ..)

theorem shlImm (g : Guard) (d a : Reg) (n : BitVec 6) : Statement (.shlImm g d a n) :=
  .of rfl rfl rfl (read_tcs (h := by decide) ..)

theorem shrImm (g : Guard) (d a : Reg) (n : BitVec 6) : Statement (.shrImm g d a n) :=
  .of rfl rfl rfl (read_tcs (h := by decide) ..)

theorem sarImm (g : Guard) (d a : Reg) (n : BitVec 6) : Statement (.sarImm g d a n) :=
  .of rfl rfl rfl (read_tcs (h := by decide) ..)

theorem rolImm (g : Guard) (d a : Reg) (n : BitVec 6) : Statement (.rolImm g d a n) :=
  .of rfl rfl rfl (read_tcs (h := by decide) ..)

theorem li (g : Guard) (d : Reg) (imm : BitVec 16) : Statement (.li g d imm) :=
  .of rfl rfl rfl (read_ti ..)

theorem liI32 (g : Guard) (d : Reg) (imm : BitVec 32) : Statement (.liI32 g d imm) :=
  .of rfl rfl rfl (read_i32 ..)

theorem liTe (g : Guard) (d : Reg) (imm : Word) : Statement (.liTe g d imm) :=
  .of rfl rfl rfl (read_te ..)

theorem mul (g : Guard) (d a b : Reg) : Statement (.mul g d a b) :=
  .of rfl rfl rfl (read_ta ..)

theorem mulh (g : Guard) (d a b : Reg) : Statement (.mulh g d a b) :=
  .of rfl rfl rfl (read_ta ..)

theorem mulhu (g : Guard) (d a b : Reg) : Statement (.mulhu g d a b) :=
  .of rfl rfl rfl (read_ta ..)

theorem div (g : Guard) (d a b : Reg) : Statement (.div g d a b) :=
  .of rfl rfl rfl (read_ta ..)

theorem divu (g : Guard) (d a b : Reg) : Statement (.divu g d a b) :=
  .of rfl rfl rfl (read_ta ..)

theorem rem (g : Guard) (d a b : Reg) : Statement (.rem g d a b) :=
  .of rfl rfl rfl (read_ta ..)

theorem remu (g : Guard) (d a b : Reg) : Statement (.remu g d a b) :=
  .of rfl rfl rfl (read_ta ..)

theorem clz (g : Guard) (d a : Reg) : Statement (.clz g d a) :=
  .of rfl rfl rfl (read_ta ..)

theorem ctz (g : Guard) (d a : Reg) : Statement (.ctz g d a) :=
  .of rfl rfl rfl (read_ta ..)

theorem popc (g : Guard) (d a : Reg) : Statement (.popc g d a) :=
  .of rfl rfl rfl (read_ta ..)

theorem bswap (g : Guard) (d a : Reg) : Statement (.bswap g d a) :=
  .of rfl rfl rfl (read_ta ..)

theorem sextB (g : Guard) (d a : Reg) : Statement (.sextB g d a) :=
  .of rfl rfl rfl (read_ta ..)

theorem sextH (g : Guard) (d a : Reg) : Statement (.sextH g d a) :=
  .of rfl rfl rfl (read_ta ..)

theorem sextW (g : Guard) (d a : Reg) : Statement (.sextW g d a) :=
  .of rfl rfl rfl (read_ta ..)

theorem zextB (g : Guard) (d a : Reg) : Statement (.zextB g d a) :=
  .of rfl rfl rfl (read_ta ..)

theorem zextH (g : Guard) (d a : Reg) : Statement (.zextH g d a) :=
  .of rfl rfl rfl (read_ta ..)

theorem zextW (g : Guard) (d a : Reg) : Statement (.zextW g d a) :=
  .of rfl rfl rfl (read_ta ..)

theorem bext (g : Guard) (d a : Reg) (pos len : BitVec 6) : Statement (.bext g d a pos len) :=
  .of rfl rfl rfl (read_tcs (h := by decide) ..)

theorem bins (g : Guard) (d a : Reg) (pos len : BitVec 6) : Statement (.bins g d a pos len) :=
  .of rfl rfl rfl (read_tcs (h := by decide) ..)

theorem lea (g : Guard) (d a b : Reg) (scale : BitVec 2) (disp : BitVec 11) : Statement (.lea g d a b scale disp) :=
  .of rfl rfl rfl (read_tb (h := by decide) ..)

theorem cmpEq (g : Guard) (d : PReg) (a b : Reg) : Statement (.cmpEq g d a b) :=
  .of rfl rfl rfl (read_ta ..)

theorem cmpNe (g : Guard) (d : PReg) (a b : Reg) : Statement (.cmpNe g d a b) :=
  .of rfl rfl rfl (read_ta ..)

theorem cmpLt (g : Guard) (d : PReg) (a b : Reg) : Statement (.cmpLt g d a b) :=
  .of rfl rfl rfl (read_ta ..)

theorem cmpGe (g : Guard) (d : PReg) (a b : Reg) : Statement (.cmpGe g d a b) :=
  .of rfl rfl rfl (read_ta ..)

theorem cmpLtu (g : Guard) (d : PReg) (a b : Reg) : Statement (.cmpLtu g d a b) :=
  .of rfl rfl rfl (read_ta ..)

theorem cmpGeu (g : Guard) (d : PReg) (a b : Reg) : Statement (.cmpGeu g d a b) :=
  .of rfl rfl rfl (read_ta ..)

theorem cmpGt (g : Guard) (d : PReg) (a b : Reg) : Statement (.cmpGt g d a b) :=
  .of rfl rfl rfl (read_ta ..)

theorem cmpLe (g : Guard) (d : PReg) (a b : Reg) : Statement (.cmpLe g d a b) :=
  .of rfl rfl rfl (read_ta ..)

theorem cmpGtu (g : Guard) (d : PReg) (a b : Reg) : Statement (.cmpGtu g d a b) :=
  .of rfl rfl rfl (read_ta ..)

theorem cmpLeu (g : Guard) (d : PReg) (a b : Reg) : Statement (.cmpLeu g d a b) :=
  .of rfl rfl rfl (read_ta ..)

theorem cmpTst (g : Guard) (d : PReg) (a b : Reg) : Statement (.cmpTst g d a b) :=
  .of rfl rfl rfl (read_ta ..)

theorem cmpNtst (g : Guard) (d : PReg) (a b : Reg) : Statement (.cmpNtst g d a b) :=
  .of rfl rfl rfl (read_ta ..)

theorem cmpEqImm (g : Guard) (d : PReg) (a : Reg) (imm : BitVec 21) : Statement (.cmpEqImm g d a imm) :=
  .of rfl rfl rfl (read_tcs (h := by decide) ..)

theorem cmpNeImm (g : Guard) (d : PReg) (a : Reg) (imm : BitVec 21) : Statement (.cmpNeImm g d a imm) :=
  .of rfl rfl rfl (read_tcs (h := by decide) ..)

theorem cmpLtImm (g : Guard) (d : PReg) (a : Reg) (imm : BitVec 21) : Statement (.cmpLtImm g d a imm) :=
  .of rfl rfl rfl (read_tcs (h := by decide) ..)

theorem cmpGeImm (g : Guard) (d : PReg) (a : Reg) (imm : BitVec 21) : Statement (.cmpGeImm g d a imm) :=
  .of rfl rfl rfl (read_tcs (h := by decide) ..)

theorem cmpLtuImm (g : Guard) (d : PReg) (a : Reg) (imm : BitVec 21) : Statement (.cmpLtuImm g d a imm) :=
  .of rfl rfl rfl (read_tcs (h := by decide) ..)

theorem cmpGeuImm (g : Guard) (d : PReg) (a : Reg) (imm : BitVec 21) : Statement (.cmpGeuImm g d a imm) :=
  .of rfl rfl rfl (read_tcs (h := by decide) ..)

theorem cmpGtImm (g : Guard) (d : PReg) (a : Reg) (imm : BitVec 21) : Statement (.cmpGtImm g d a imm) :=
  .of rfl rfl rfl (read_tcs (h := by decide) ..)

theorem cmpLeImm (g : Guard) (d : PReg) (a : Reg) (imm : BitVec 21) : Statement (.cmpLeImm g d a imm) :=
  .of rfl rfl rfl (read_tcs (h := by decide) ..)

theorem cmpGtuImm (g : Guard) (d : PReg) (a : Reg) (imm : BitVec 21) : Statement (.cmpGtuImm g d a imm) :=
  .of rfl rfl rfl (read_tcs (h := by decide) ..)

theorem cmpLeuImm (g : Guard) (d : PReg) (a : Reg) (imm : BitVec 21) : Statement (.cmpLeuImm g d a imm) :=
  .of rfl rfl rfl (read_tcs (h := by decide) ..)

theorem cmpTstImm (g : Guard) (d : PReg) (a : Reg) (imm : BitVec 21) : Statement (.cmpTstImm g d a imm) :=
  .of rfl rfl rfl (read_tcs (h := by decide) ..)

theorem cmpNtstImm (g : Guard) (d : PReg) (a : Reg) (imm : BitVec 21) : Statement (.cmpNtstImm g d a imm) :=
  .of rfl rfl rfl (read_tcs (h := by decide) ..)

theorem pand (g : Guard) (d a b : PReg) : Statement (.pand g d a b) :=
  .of rfl rfl rfl (read_ta ..)

theorem por (g : Guard) (d a b : PReg) : Statement (.por g d a b) :=
  .of rfl rfl rfl (read_ta ..)

theorem pxor (g : Guard) (d a b : PReg) : Statement (.pxor g d a b) :=
  .of rfl rfl rfl (read_ta ..)

theorem pnot (g : Guard) (d a : PReg) : Statement (.pnot g d a) :=
  .of rfl rfl rfl (read_ta ..)

theorem fadd (g : Guard) (d a b : Reg) (t : Ty) (rm : Rm) : Statement (.fadd g d a b t rm) :=
  .of rfl rfl rfl (read_tb (h := by decide) ..)

theorem fsub (g : Guard) (d a b : Reg) (t : Ty) (rm : Rm) : Statement (.fsub g d a b t rm) :=
  .of rfl rfl rfl (read_tb (h := by decide) ..)

theorem fmul (g : Guard) (d a b : Reg) (t : Ty) (rm : Rm) : Statement (.fmul g d a b t rm) :=
  .of rfl rfl rfl (read_tb (h := by decide) ..)

theorem fdiv (g : Guard) (d a b : Reg) (t : Ty) (rm : Rm) : Statement (.fdiv g d a b t rm) :=
  .of rfl rfl rfl (read_tb (h := by decide) ..)

theorem fsqrt (g : Guard) (d a : Reg) (t : Ty) (rm : Rm) : Statement (.fsqrt g d a t rm) :=
  .of rfl rfl rfl (read_tb (h := by decide) ..)

theorem fmin (g : Guard) (d a b : Reg) (t : Ty) : Statement (.fmin g d a b t) :=
  .of rfl rfl rfl (read_tb (h := by decide) ..)

theorem fmax (g : Guard) (d a b : Reg) (t : Ty) : Statement (.fmax g d a b t) :=
  .of rfl rfl rfl (read_tb (h := by decide) ..)

theorem fcmpEq (g : Guard) (d : PReg) (a b : Reg) (t : Ty) : Statement (.fcmpEq g d a b t) :=
  .of rfl rfl rfl (read_tb (h := by decide) ..)

theorem fcmpNe (g : Guard) (d : PReg) (a b : Reg) (t : Ty) : Statement (.fcmpNe g d a b t) :=
  .of rfl rfl rfl (read_tb (h := by decide) ..)

theorem fcmpLt (g : Guard) (d : PReg) (a b : Reg) (t : Ty) : Statement (.fcmpLt g d a b t) :=
  .of rfl rfl rfl (read_tb (h := by decide) ..)

theorem fcmpLe (g : Guard) (d : PReg) (a b : Reg) (t : Ty) : Statement (.fcmpLe g d a b t) :=
  .of rfl rfl rfl (read_tb (h := by decide) ..)

theorem fcmpUn (g : Guard) (d : PReg) (a b : Reg) (t : Ty) : Statement (.fcmpUn g d a b t) :=
  .of rfl rfl rfl (read_tb (h := by decide) ..)

theorem fcvt (g : Guard) (d a : Reg) (t t2 : Ty) (rm : Rm) : Statement (.fcvt g d a t t2 rm) :=
  .of rfl rfl rfl (read_tb (h := by decide) ..)

theorem fclass (g : Guard) (d a : Reg) (t : Ty) : Statement (.fclass g d a t) :=
  .of rfl rfl rfl (read_tb (h := by decide) ..)

theorem fma (g : Guard) (d a b c : Reg) (t : Ty) (rm : Rm) : Statement (.fma g d a b c t rm) :=
  .of rfl rfl rfl (read_tb (h := by decide) ..)

theorem fmaNa (g : Guard) (d a b c : Reg) (t : Ty) (rm : Rm) : Statement (.fmaNa g d a b c t rm) :=
  .of rfl rfl rfl (read_tb (h := by decide) ..)

theorem fmaNc (g : Guard) (d a b c : Reg) (t : Ty) (rm : Rm) : Statement (.fmaNc g d a b c t rm) :=
  .of rfl rfl rfl (read_tb (h := by decide) ..)

theorem fmaNaNc (g : Guard) (d a b c : Reg) (t : Ty) (rm : Rm) : Statement (.fmaNaNc g d a b c t rm) :=
  .of rfl rfl rfl (read_tb (h := by decide) ..)

theorem mov (g : Guard) (d a : Reg) : Statement (.mov g d a) :=
  .of rfl rfl rfl (read_ta ..)

theorem movF (g : Guard) (d a : Reg) : Statement (.movF g d a) :=
  .of rfl rfl rfl (read_ta ..)

theorem mfs (g : Guard) (d : Reg) (idx : BitVec 8) : Statement (.mfs g d idx) :=
  .of rfl rfl rfl (read_tb (h := by decide) ..)

theorem mts (g : Guard) (a : Reg) (idx : BitVec 8) : Statement (.mts g a idx) :=
  .of rfl rfl rfl (read_tb (h := by decide) ..)

theorem pwdogWrite (g : Guard) (a : Reg) : Statement (.pwdogWrite g a) :=
  .of rfl rfl rfl (read_tb (x := 0x80#11) (h := by decide) ..)

theorem bootcntWrite (g : Guard) (a : Reg) : Statement (.bootcntWrite g a) :=
  .of rfl rfl rfl (read_tb (x := 0x81#11) (h := by decide) ..)

theorem br (g : Guard) (off : BitVec 22) (head : BitVec 5) : Statement (.br g off head) :=
  .of rfl rfl rfl (read_tc (h := by decide) ..)

theorem jmp (g : Guard) (d : Reg) : Statement (.jmp g d) :=
  .of rfl rfl rfl (read_none ..)

theorem call (g : Guard) (d : Reg) (off : BitVec 22) (head : BitVec 5) : Statement (.call g d off head) :=
  .of rfl rfl rfl (read_tc (h := by decide) ..)

theorem callReg (g : Guard) (d a : Reg) : Statement (.callReg g d a) :=
  .of rfl rfl rfl (read_ta ..)

theorem ret (g : Guard) (d : Reg) : Statement (.ret g d) :=
  .of rfl rfl rfl (read_none ..)

theorem loop (g : Guard) (d : Reg) (off : BitVec 22) (head : BitVec 5) : Statement (.loop g d off head) :=
  .of rfl rfl rfl (read_tc (h := by decide) ..)

theorem ldB (g : Guard) (d a b : Reg) (disp : BitVec 11) : Statement (.ldB g d a b disp) :=
  .of rfl rfl rfl (read_tb (h := by decide) ..)

theorem ldH (g : Guard) (d a b : Reg) (disp : BitVec 11) : Statement (.ldH g d a b disp) :=
  .of rfl rfl rfl (read_tb (h := by decide) ..)

theorem ldW (g : Guard) (d a b : Reg) (disp : BitVec 11) : Statement (.ldW g d a b disp) :=
  .of rfl rfl rfl (read_tb (h := by decide) ..)

theorem ldD (g : Guard) (d a b : Reg) (disp : BitVec 11) : Statement (.ldD g d a b disp) :=
  .of rfl rfl rfl (read_tb (h := by decide) ..)

theorem ldsB (g : Guard) (d a b : Reg) (disp : BitVec 11) : Statement (.ldsB g d a b disp) :=
  .of rfl rfl rfl (read_tb (h := by decide) ..)

theorem ldsH (g : Guard) (d a b : Reg) (disp : BitVec 11) : Statement (.ldsH g d a b disp) :=
  .of rfl rfl rfl (read_tb (h := by decide) ..)

theorem ldsW (g : Guard) (d a b : Reg) (disp : BitVec 11) : Statement (.ldsW g d a b disp) :=
  .of rfl rfl rfl (read_tb (h := by decide) ..)

theorem ldBS (g : Guard) (d a b : Reg) (disp : BitVec 11) : Statement (.ldBS g d a b disp) :=
  .of rfl rfl rfl (read_tb (h := by decide) ..)

theorem ldHS (g : Guard) (d a b : Reg) (disp : BitVec 11) : Statement (.ldHS g d a b disp) :=
  .of rfl rfl rfl (read_tb (h := by decide) ..)

theorem ldWS (g : Guard) (d a b : Reg) (disp : BitVec 11) : Statement (.ldWS g d a b disp) :=
  .of rfl rfl rfl (read_tb (h := by decide) ..)

theorem ldDS (g : Guard) (d a b : Reg) (disp : BitVec 11) : Statement (.ldDS g d a b disp) :=
  .of rfl rfl rfl (read_tb (h := by decide) ..)

theorem ldsBS (g : Guard) (d a b : Reg) (disp : BitVec 11) : Statement (.ldsBS g d a b disp) :=
  .of rfl rfl rfl (read_tb (h := by decide) ..)

theorem ldsHS (g : Guard) (d a b : Reg) (disp : BitVec 11) : Statement (.ldsHS g d a b disp) :=
  .of rfl rfl rfl (read_tb (h := by decide) ..)

theorem ldsWS (g : Guard) (d a b : Reg) (disp : BitVec 11) : Statement (.ldsWS g d a b disp) :=
  .of rfl rfl rfl (read_tb (h := by decide) ..)

theorem stB (g : Guard) (d a b : Reg) (disp : BitVec 11) : Statement (.stB g d a b disp) :=
  .of rfl rfl rfl (read_tb (h := by decide) ..)

theorem stH (g : Guard) (d a b : Reg) (disp : BitVec 11) : Statement (.stH g d a b disp) :=
  .of rfl rfl rfl (read_tb (h := by decide) ..)

theorem stW (g : Guard) (d a b : Reg) (disp : BitVec 11) : Statement (.stW g d a b disp) :=
  .of rfl rfl rfl (read_tb (h := by decide) ..)

theorem stD (g : Guard) (d a b : Reg) (disp : BitVec 11) : Statement (.stD g d a b disp) :=
  .of rfl rfl rfl (read_tb (h := by decide) ..)

theorem stBS (g : Guard) (d a b : Reg) (disp : BitVec 11) : Statement (.stBS g d a b disp) :=
  .of rfl rfl rfl (read_tb (h := by decide) ..)

theorem stHS (g : Guard) (d a b : Reg) (disp : BitVec 11) : Statement (.stHS g d a b disp) :=
  .of rfl rfl rfl (read_tb (h := by decide) ..)

theorem stWS (g : Guard) (d a b : Reg) (disp : BitVec 11) : Statement (.stWS g d a b disp) :=
  .of rfl rfl rfl (read_tb (h := by decide) ..)

theorem stDS (g : Guard) (d a b : Reg) (disp : BitVec 11) : Statement (.stDS g d a b disp) :=
  .of rfl rfl rfl (read_tb (h := by decide) ..)

theorem vld (g : Guard) (d : VReg) (a b : Reg) (t : Ty) (m : Option MReg) : Statement (.vld g d a b t m) :=
  .of rfl rfl rfl (read_tb (h := by decide) ..)

theorem vldS (g : Guard) (d : VReg) (a b : Reg) (t : Ty) (m : Option MReg) : Statement (.vldS g d a b t m) :=
  .of rfl rfl rfl (read_tb (h := by decide) ..)

theorem vgather (g : Guard) (d : VReg) (a : Reg) (b : VReg) (t : Ty) (m : Option MReg) : Statement (.vgather g d a b t m) :=
  .of rfl rfl rfl (read_tb (h := by decide) ..)

theorem vst (g : Guard) (d : VReg) (a b : Reg) (t : Ty) (m : Option MReg) : Statement (.vst g d a b t m) :=
  .of rfl rfl rfl (read_tb (h := by decide) ..)

theorem vscatter (g : Guard) (d : VReg) (a : Reg) (b : VReg) (t : Ty) (m : Option MReg) : Statement (.vscatter g d a b t m) :=
  .of rfl rfl rfl (read_tb (h := by decide) ..)

theorem ldsync (g : Guard) (d a : Reg) (disp : BitVec 11) : Statement (.ldsync g d a disp) :=
  .of rfl rfl rfl (read_tb (h := by decide) ..)

theorem ldsyncKeep (g : Guard) (d a : Reg) (disp : BitVec 11) : Statement (.ldsyncKeep g d a disp) :=
  .of rfl rfl rfl (read_tb (h := by decide) ..)

theorem stsync (g : Guard) (d a : Reg) (disp : BitVec 11) : Statement (.stsync g d a disp) :=
  .of rfl rfl rfl (read_tb (h := by decide) ..)

theorem stfill (g : Guard) (d a : Reg) (disp : BitVec 11) : Statement (.stfill g d a disp) :=
  .of rfl rfl rfl (read_tb (h := by decide) ..)

theorem feset (g : Guard) (a : Reg) (disp : BitVec 11) : Statement (.feset g a disp) :=
  .of rfl rfl rfl (read_tb (h := by decide) ..)

theorem feclr (g : Guard) (a : Reg) (disp : BitVec 11) : Statement (.feclr g a disp) :=
  .of rfl rfl rfl (read_tb (h := by decide) ..)

theorem feread (g : Guard) (d a : Reg) (disp : BitVec 11) : Statement (.feread g d a disp) :=
  .of rfl rfl rfl (read_tb (h := by decide) ..)

theorem amoAdd (g : Guard) (d a b : Reg) (t : Ty) (o : Ord) (sc : Scope) : Statement (.amoAdd g d a b t o sc) :=
  .of rfl rfl rfl (read_tb (h := by decide) ..)

theorem amoAnd (g : Guard) (d a b : Reg) (t : Ty) (o : Ord) (sc : Scope) : Statement (.amoAnd g d a b t o sc) :=
  .of rfl rfl rfl (read_tb (h := by decide) ..)

theorem amoOr (g : Guard) (d a b : Reg) (t : Ty) (o : Ord) (sc : Scope) : Statement (.amoOr g d a b t o sc) :=
  .of rfl rfl rfl (read_tb (h := by decide) ..)

theorem amoXor (g : Guard) (d a b : Reg) (t : Ty) (o : Ord) (sc : Scope) : Statement (.amoXor g d a b t o sc) :=
  .of rfl rfl rfl (read_tb (h := by decide) ..)

theorem amoMin (g : Guard) (d a b : Reg) (t : Ty) (o : Ord) (sc : Scope) : Statement (.amoMin g d a b t o sc) :=
  .of rfl rfl rfl (read_tb (h := by decide) ..)

theorem amoMax (g : Guard) (d a b : Reg) (t : Ty) (o : Ord) (sc : Scope) : Statement (.amoMax g d a b t o sc) :=
  .of rfl rfl rfl (read_tb (h := by decide) ..)

theorem amoSwap (g : Guard) (d a b : Reg) (t : Ty) (o : Ord) (sc : Scope) : Statement (.amoSwap g d a b t o sc) :=
  .of rfl rfl rfl (read_tb (h := by decide) ..)

theorem amoCas (g : Guard) (d a b c : Reg) (t : Ty) (o : Ord) (sc : Scope) : Statement (.amoCas g d a b c t o sc) :=
  .of rfl rfl rfl (read_tb (h := by decide) ..)

theorem fence (g : Guard) (o : Ord) (sc : Scope) : Statement (.fence g o sc) :=
  .of rfl rfl rfl (read_tb (h := by decide) ..)

theorem plbload (g : Guard) (d a : Reg) : Statement (.plbload g d a) :=
  .of rfl rfl rfl (read_tb (x := 0#11) (h := by decide) ..)

theorem plbinval (g : Guard) (a b : Option Reg) : Statement (.plbinval g a b) :=
  .of rfl rfl rfl (read_tb (h := by decide) ..)

theorem scflush (g : Guard) (a b : Reg) : Statement (.scflush g a b) :=
  .of rfl rfl rfl (read_tb (x := 0#11) (h := by decide) ..)

theorem scinval (g : Guard) (a : Reg) : Statement (.scinval g a) :=
  .of rfl rfl rfl (read_tb (x := 0#11) (h := by decide) ..)

theorem prefetch (g : Guard) (a : Reg) : Statement (.prefetch g a) :=
  .of rfl rfl rfl (read_ta ..)

theorem prefetchW (g : Guard) (a : Reg) : Statement (.prefetchW g a) :=
  .of rfl rfl rfl (read_ta ..)

theorem vaddInt (g : Guard) (d a b : VReg) (t : Ty) (sat : Bool) (m : Option MReg) : Statement (.vaddInt g d a b t sat m) :=
  .of rfl rfl rfl (read_tb (h := by decide) ..)

theorem vsubInt (g : Guard) (d a b : VReg) (t : Ty) (sat : Bool) (m : Option MReg) : Statement (.vsubInt g d a b t sat m) :=
  .of rfl rfl rfl (read_tb (h := by decide) ..)

theorem vmulInt (g : Guard) (d a b : VReg) (t : Ty) (sat : Bool) (m : Option MReg) : Statement (.vmulInt g d a b t sat m) :=
  .of rfl rfl rfl (read_tb (h := by decide) ..)

theorem vminInt (g : Guard) (d a b : VReg) (t : Ty) (m : Option MReg) : Statement (.vminInt g d a b t m) :=
  .of rfl rfl rfl (read_tb (h := by decide) ..)

theorem vmaxInt (g : Guard) (d a b : VReg) (t : Ty) (m : Option MReg) : Statement (.vmaxInt g d a b t m) :=
  .of rfl rfl rfl (read_tb (h := by decide) ..)

theorem vabsInt (g : Guard) (d a : VReg) (t : Ty) (sat : Bool) (m : Option MReg) : Statement (.vabsInt g d a t sat m) :=
  .of rfl rfl rfl (read_tb (h := by decide) ..)

theorem vnegInt (g : Guard) (d a : VReg) (t : Ty) (sat : Bool) (m : Option MReg) : Statement (.vnegInt g d a t sat m) :=
  .of rfl rfl rfl (read_tb (h := by decide) ..)

theorem vshl (g : Guard) (d a b : VReg) (t : Ty) (sat : Bool) (m : Option MReg) : Statement (.vshl g d a b t sat m) :=
  .of rfl rfl rfl (read_tb (h := by decide) ..)

theorem vshr (g : Guard) (d a b : VReg) (t : Ty) (m : Option MReg) : Statement (.vshr g d a b t m) :=
  .of rfl rfl rfl (read_tb (h := by decide) ..)

theorem vsar (g : Guard) (d a b : VReg) (t : Ty) (m : Option MReg) : Statement (.vsar g d a b t m) :=
  .of rfl rfl rfl (read_tb (h := by decide) ..)

theorem vrand (g : Guard) (d : VReg) (a b : Reg) (t : Ty) (m : Option MReg) : Statement (.vrand g d a b t m) :=
  .of rfl rfl rfl (read_tb (h := by decide) ..)

theorem vaddIntScalar (g : Guard) (d a : VReg) (b : Reg) (t : Ty) (sat : Bool) (m : Option MReg) : Statement (.vaddIntScalar g d a b t sat m) :=
  .of rfl rfl rfl (read_tb (h := by decide) ..)

theorem vsubIntScalar (g : Guard) (d a : VReg) (b : Reg) (t : Ty) (sat : Bool) (m : Option MReg) : Statement (.vsubIntScalar g d a b t sat m) :=
  .of rfl rfl rfl (read_tb (h := by decide) ..)

theorem vmulIntScalar (g : Guard) (d a : VReg) (b : Reg) (t : Ty) (sat : Bool) (m : Option MReg) : Statement (.vmulIntScalar g d a b t sat m) :=
  .of rfl rfl rfl (read_tb (h := by decide) ..)

theorem vminIntScalar (g : Guard) (d a : VReg) (b : Reg) (t : Ty) (m : Option MReg) : Statement (.vminIntScalar g d a b t m) :=
  .of rfl rfl rfl (read_tb (h := by decide) ..)

theorem vmaxIntScalar (g : Guard) (d a : VReg) (b : Reg) (t : Ty) (m : Option MReg) : Statement (.vmaxIntScalar g d a b t m) :=
  .of rfl rfl rfl (read_tb (h := by decide) ..)

theorem vshlScalar (g : Guard) (d a : VReg) (b : Reg) (t : Ty) (sat : Bool) (m : Option MReg) : Statement (.vshlScalar g d a b t sat m) :=
  .of rfl rfl rfl (read_tb (h := by decide) ..)

theorem vshrScalar (g : Guard) (d a : VReg) (b : Reg) (t : Ty) (m : Option MReg) : Statement (.vshrScalar g d a b t m) :=
  .of rfl rfl rfl (read_tb (h := by decide) ..)

theorem vsarScalar (g : Guard) (d a : VReg) (b : Reg) (t : Ty) (m : Option MReg) : Statement (.vsarScalar g d a b t m) :=
  .of rfl rfl rfl (read_tb (h := by decide) ..)

theorem vaddFp (g : Guard) (d a b : VReg) (t : Ty) (rm : Rm) (m : Option MReg) : Statement (.vaddFp g d a b t rm m) :=
  .of rfl rfl rfl (read_tb (h := by decide) ..)

theorem vsubFp (g : Guard) (d a b : VReg) (t : Ty) (rm : Rm) (m : Option MReg) : Statement (.vsubFp g d a b t rm m) :=
  .of rfl rfl rfl (read_tb (h := by decide) ..)

theorem vmulFp (g : Guard) (d a b : VReg) (t : Ty) (rm : Rm) (m : Option MReg) : Statement (.vmulFp g d a b t rm m) :=
  .of rfl rfl rfl (read_tb (h := by decide) ..)

theorem vminFp (g : Guard) (d a b : VReg) (t : Ty) (m : Option MReg) : Statement (.vminFp g d a b t m) :=
  .of rfl rfl rfl (read_tb (h := by decide) ..)

theorem vmaxFp (g : Guard) (d a b : VReg) (t : Ty) (m : Option MReg) : Statement (.vmaxFp g d a b t m) :=
  .of rfl rfl rfl (read_tb (h := by decide) ..)

theorem vabsFp (g : Guard) (d a : VReg) (t : Ty) (m : Option MReg) : Statement (.vabsFp g d a t m) :=
  .of rfl rfl rfl (read_tb (h := by decide) ..)

theorem vnegFp (g : Guard) (d a : VReg) (t : Ty) (m : Option MReg) : Statement (.vnegFp g d a t m) :=
  .of rfl rfl rfl (read_tb (h := by decide) ..)

theorem vaddFpScalar (g : Guard) (d a : VReg) (b : Reg) (t : Ty) (rm : Rm) (m : Option MReg) : Statement (.vaddFpScalar g d a b t rm m) :=
  .of rfl rfl rfl (read_tb (h := by decide) ..)

theorem vsubFpScalar (g : Guard) (d a : VReg) (b : Reg) (t : Ty) (rm : Rm) (m : Option MReg) : Statement (.vsubFpScalar g d a b t rm m) :=
  .of rfl rfl rfl (read_tb (h := by decide) ..)

theorem vmulFpScalar (g : Guard) (d a : VReg) (b : Reg) (t : Ty) (rm : Rm) (m : Option MReg) : Statement (.vmulFpScalar g d a b t rm m) :=
  .of rfl rfl rfl (read_tb (h := by decide) ..)

theorem vminFpScalar (g : Guard) (d a : VReg) (b : Reg) (t : Ty) (m : Option MReg) : Statement (.vminFpScalar g d a b t m) :=
  .of rfl rfl rfl (read_tb (h := by decide) ..)

theorem vmaxFpScalar (g : Guard) (d a : VReg) (b : Reg) (t : Ty) (m : Option MReg) : Statement (.vmaxFpScalar g d a b t m) :=
  .of rfl rfl rfl (read_tb (h := by decide) ..)

theorem vfma (g : Guard) (d a b c : VReg) (t : Ty) (rm : Rm) (m : Option MReg) : Statement (.vfma g d a b c t rm m) :=
  .of rfl rfl rfl (read_tb (h := by decide) ..)

theorem vfmaNa (g : Guard) (d a b c : VReg) (t : Ty) (rm : Rm) (m : Option MReg) : Statement (.vfmaNa g d a b c t rm m) :=
  .of rfl rfl rfl (read_tb (h := by decide) ..)

theorem vfmaNc (g : Guard) (d a b c : VReg) (t : Ty) (rm : Rm) (m : Option MReg) : Statement (.vfmaNc g d a b c t rm m) :=
  .of rfl rfl rfl (read_tb (h := by decide) ..)

theorem vfmaNaNc (g : Guard) (d a b c : VReg) (t : Ty) (rm : Rm) (m : Option MReg) : Statement (.vfmaNaNc g d a b c t rm m) :=
  .of rfl rfl rfl (read_tb (h := by decide) ..)

theorem vcmpEq (g : Guard) (d : MReg) (a b : VReg) (t : Ty) (m : Option MReg) : Statement (.vcmpEq g d a b t m) :=
  .of rfl rfl rfl (read_tb (h := by decide) ..)

theorem vcmpNe (g : Guard) (d : MReg) (a b : VReg) (t : Ty) (m : Option MReg) : Statement (.vcmpNe g d a b t m) :=
  .of rfl rfl rfl (read_tb (h := by decide) ..)

theorem vcmpLt (g : Guard) (d : MReg) (a b : VReg) (t : Ty) (m : Option MReg) : Statement (.vcmpLt g d a b t m) :=
  .of rfl rfl rfl (read_tb (h := by decide) ..)

theorem vcmpLe (g : Guard) (d : MReg) (a b : VReg) (t : Ty) (m : Option MReg) : Statement (.vcmpLe g d a b t m) :=
  .of rfl rfl rfl (read_tb (h := by decide) ..)

theorem vcmpGt (g : Guard) (d : MReg) (a b : VReg) (t : Ty) (m : Option MReg) : Statement (.vcmpGt g d a b t m) :=
  .of rfl rfl rfl (read_tb (h := by decide) ..)

theorem vcmpGe (g : Guard) (d : MReg) (a b : VReg) (t : Ty) (m : Option MReg) : Statement (.vcmpGe g d a b t m) :=
  .of rfl rfl rfl (read_tb (h := by decide) ..)

theorem vcmpUn (g : Guard) (d : MReg) (a b : VReg) (t : Ty) (m : Option MReg) : Statement (.vcmpUn g d a b t m) :=
  .of rfl rfl rfl (read_tb (h := by decide) ..)

theorem vcmpEqScalar (g : Guard) (d : MReg) (a : VReg) (b : Reg) (t : Ty) (m : Option MReg) : Statement (.vcmpEqScalar g d a b t m) :=
  .of rfl rfl rfl (read_tb (h := by decide) ..)

theorem vcmpNeScalar (g : Guard) (d : MReg) (a : VReg) (b : Reg) (t : Ty) (m : Option MReg) : Statement (.vcmpNeScalar g d a b t m) :=
  .of rfl rfl rfl (read_tb (h := by decide) ..)

theorem vcmpLtScalar (g : Guard) (d : MReg) (a : VReg) (b : Reg) (t : Ty) (m : Option MReg) : Statement (.vcmpLtScalar g d a b t m) :=
  .of rfl rfl rfl (read_tb (h := by decide) ..)

theorem vcmpLeScalar (g : Guard) (d : MReg) (a : VReg) (b : Reg) (t : Ty) (m : Option MReg) : Statement (.vcmpLeScalar g d a b t m) :=
  .of rfl rfl rfl (read_tb (h := by decide) ..)

theorem vcmpGtScalar (g : Guard) (d : MReg) (a : VReg) (b : Reg) (t : Ty) (m : Option MReg) : Statement (.vcmpGtScalar g d a b t m) :=
  .of rfl rfl rfl (read_tb (h := by decide) ..)

theorem vcmpGeScalar (g : Guard) (d : MReg) (a : VReg) (b : Reg) (t : Ty) (m : Option MReg) : Statement (.vcmpGeScalar g d a b t m) :=
  .of rfl rfl rfl (read_tb (h := by decide) ..)

theorem vcmpUnScalar (g : Guard) (d : MReg) (a : VReg) (b : Reg) (t : Ty) (m : Option MReg) : Statement (.vcmpUnScalar g d a b t m) :=
  .of rfl rfl rfl (read_tb (h := by decide) ..)

theorem vsel (g : Guard) (d a b : VReg) (t : Ty) (m : MReg) : Statement (.vsel g d a b t m) :=
  .of rfl rfl rfl (read_tb (h := by decide) ..)

theorem vcompress (g : Guard) (d a : VReg) (c : Reg) (t : Ty) (m : Option MReg) : Statement (.vcompress g d a c t m) :=
  .of rfl rfl rfl (read_tb (h := by decide) ..)

theorem vexpand (g : Guard) (d a : VReg) (t : Ty) (m : Option MReg) : Statement (.vexpand g d a t m) :=
  .of rfl rfl rfl (read_tb (h := by decide) ..)

theorem vperm (g : Guard) (d a b : VReg) (t : Ty) (m : Option MReg) : Statement (.vperm g d a b t m) :=
  .of rfl rfl rfl (read_tb (h := by decide) ..)

theorem vbcast (g : Guard) (d : VReg) (a : Reg) (t : Ty) (m : Option MReg) : Statement (.vbcast g d a t m) :=
  .of rfl rfl rfl (read_tb (h := by decide) ..)

theorem vredAdd (g : Guard) (d : Reg) (a : VReg) (t : Ty) (sat : Bool) (rm : Rm) (m : Option MReg) : Statement (.vredAdd g d a t sat rm m) :=
  .of rfl rfl rfl (read_tb (h := by decide) ..)

theorem vredMax (g : Guard) (d : Reg) (a : VReg) (t : Ty) (m : Option MReg) : Statement (.vredMax g d a t m) :=
  .of rfl rfl rfl (read_tb (h := by decide) ..)

theorem vredMin (g : Guard) (d : Reg) (a : VReg) (t : Ty) (m : Option MReg) : Statement (.vredMin g d a t m) :=
  .of rfl rfl rfl (read_tb (h := by decide) ..)

theorem vredmaxIdx (g : Guard) (d : Reg) (a : VReg) (c : Reg) (t : Ty) (m : Option MReg) : Statement (.vredmaxIdx g d a c t m) :=
  .of rfl rfl rfl (read_tb (h := by decide) ..)

theorem vredminIdx (g : Guard) (d : Reg) (a : VReg) (c : Reg) (t : Ty) (m : Option MReg) : Statement (.vredminIdx g d a c t m) :=
  .of rfl rfl rfl (read_tb (h := by decide) ..)

theorem vscanAdd (g : Guard) (d a : VReg) (t : Ty) (sat : Bool) (rm : Rm) (m : Option MReg) : Statement (.vscanAdd g d a t sat rm m) :=
  .of rfl rfl rfl (read_tb (h := by decide) ..)

theorem vcvt (g : Guard) (d a : VReg) (b : BitVec 3) (t t2 : Ty) (rm : Rm) : Statement (.vcvt g d a b t t2 rm) :=
  .of rfl rfl rfl (read_tb (h := by decide) ..)

theorem vlog2 (g : Guard) (d a : VReg) (rm : Rm) (m : Option MReg) : Statement (.vlog2 g d a rm m) :=
  .of rfl rfl rfl (read_tb (h := by decide) ..)

theorem vexp2 (g : Guard) (d a : VReg) (rm : Rm) (m : Option MReg) : Statement (.vexp2 g d a rm m) :=
  .of rfl rfl rfl (read_tb (h := by decide) ..)

theorem vrcp (g : Guard) (d a : VReg) (rm : Rm) (m : Option MReg) : Statement (.vrcp g d a rm m) :=
  .of rfl rfl rfl (read_tb (h := by decide) ..)

theorem vrsqrt (g : Guard) (d a : VReg) (rm : Rm) (m : Option MReg) : Statement (.vrsqrt g d a rm m) :=
  .of rfl rfl rfl (read_tb (h := by decide) ..)

theorem vsqrt (g : Guard) (d a : VReg) (rm : Rm) (m : Option MReg) : Statement (.vsqrt g d a rm m) :=
  .of rfl rfl rfl (read_tb (h := by decide) ..)

theorem vsin (g : Guard) (d a : VReg) (rm : Rm) (m : Option MReg) : Statement (.vsin g d a rm m) :=
  .of rfl rfl rfl (read_tb (h := by decide) ..)

theorem vcos (g : Guard) (d a : VReg) (rm : Rm) (m : Option MReg) : Statement (.vcos g d a rm m) :=
  .of rfl rfl rfl (read_tb (h := by decide) ..)

theorem vdiv (g : Guard) (d a b : VReg) (t : Ty) (rm : Rm) (m : Option MReg) : Statement (.vdiv g d a b t rm m) :=
  .of rfl rfl rfl (read_tb (h := by decide) ..)

theorem vrem (g : Guard) (d a b : VReg) (t : Ty) (m : Option MReg) : Statement (.vrem g d a b t m) :=
  .of rfl rfl rfl (read_tb (h := by decide) ..)

theorem vdivScalar (g : Guard) (d a : VReg) (b : Reg) (t : Ty) (rm : Rm) (m : Option MReg) : Statement (.vdivScalar g d a b t rm m) :=
  .of rfl rfl rfl (read_tb (h := by decide) ..)

theorem vremScalar (g : Guard) (d a : VReg) (b : Reg) (t : Ty) (m : Option MReg) : Statement (.vremScalar g d a b t m) :=
  .of rfl rfl rfl (read_tb (h := by decide) ..)

theorem sbind (g : Guard) (d : SReg) (a b c : Reg) : Statement (.sbind g d a b c) :=
  .of rfl rfl rfl (read_tb (x := 0#11) (h := by decide) ..)

theorem sunbind (g : Guard) (d : SReg) : Statement (.sunbind g d) :=
  .of rfl rfl rfl (read_tb (x := 0#11) (h := by decide) ..)

theorem stest (g : Guard) (d : Reg) (a : SReg) : Statement (.stest g d a) :=
  .of rfl rfl rfl (read_tb (x := 0#11) (h := by decide) ..)

theorem vmovg (g : Guard) (d : Reg) (a : VReg) (b : Reg) (t : Ty) : Statement (.vmovg g d a b t) :=
  .of rfl rfl rfl (read_tb (h := by decide) ..)

theorem gmovv (g : Guard) (d : VReg) (a b : Reg) (t : Ty) : Statement (.gmovv g d a b t) :=
  .of rfl rfl rfl (read_tb (h := by decide) ..)

theorem vand (g : Guard) (d a b : VReg) (t : Ty) (m : Option MReg) : Statement (.vand g d a b t m) :=
  .of rfl rfl rfl (read_tb (h := by decide) ..)

theorem vor (g : Guard) (d a b : VReg) (t : Ty) (m : Option MReg) : Statement (.vor g d a b t m) :=
  .of rfl rfl rfl (read_tb (h := by decide) ..)

theorem vxor (g : Guard) (d a b : VReg) (t : Ty) (m : Option MReg) : Statement (.vxor g d a b t m) :=
  .of rfl rfl rfl (read_tb (h := by decide) ..)

theorem vnot (g : Guard) (d a : VReg) (t : Ty) (m : Option MReg) : Statement (.vnot g d a t m) :=
  .of rfl rfl rfl (read_tb (h := by decide) ..)

theorem vandScalar (g : Guard) (d a : VReg) (b : Reg) (t : Ty) (m : Option MReg) : Statement (.vandScalar g d a b t m) :=
  .of rfl rfl rfl (read_tb (h := by decide) ..)

theorem vorScalar (g : Guard) (d a : VReg) (b : Reg) (t : Ty) (m : Option MReg) : Statement (.vorScalar g d a b t m) :=
  .of rfl rfl rfl (read_tb (h := by decide) ..)

theorem vxorScalar (g : Guard) (d a : VReg) (b : Reg) (t : Ty) (m : Option MReg) : Statement (.vxorScalar g d a b t m) :=
  .of rfl rfl rfl (read_tb (h := by decide) ..)

theorem fork (g : Guard) (d a b : Reg) (lendBit pv : Bool) (dom : BitVec 2) (prio : BitVec 4) : Statement (.fork g d a b lendBit pv dom prio) :=
  .of rfl rfl rfl (read_tb (h := by decide) ..)

theorem join (g : Guard) (a : Reg) : Statement (.join g a) :=
  .of rfl rfl rfl (read_tb (x := 0#11) (h := by decide) ..)

theorem spawn (g : Guard) (d a b : Reg) : Statement (.spawn g d a b) :=
  .of rfl rfl rfl (read_tb (x := 0#11) (h := by decide) ..)

theorem halt (g : Guard) : Statement (.halt g) :=
  .of rfl rfl rfl (read_tb (x := 0#11) (h := by decide) ..)

theorem yield (g : Guard) (d : Reg) : Statement (.yield g d) :=
  .of rfl rfl rfl (read_tb (x := 0#11) (h := by decide) ..)

theorem lend (g : Guard) (on : Bool) : Statement (.lend g on) :=
  .of rfl rfl rfl (read_tb (h := by decide) ..)

theorem pin (g : Guard) (d : Reg) (on : Bool) : Statement (.pin g d on) :=
  .of rfl rfl rfl (read_tb (h := by decide) ..)

theorem callat (g : Guard) (d a b : Reg) : Statement (.callat g d a b) :=
  .of rfl rfl rfl (read_tb (x := 0#11) (h := by decide) ..)

theorem retm (g : Guard) (a : Reg) : Statement (.retm g a) :=
  .of rfl rfl rfl (read_tb (x := 0#11) (h := by decide) ..)

theorem msend (g : Guard) (a b : Reg) (k : BitVec 8) : Statement (.msend g a b k) :=
  .of rfl rfl rfl (read_tb (h := by decide) ..)

theorem mrecv (g : Guard) (d c : Reg) : Statement (.mrecv g d c) :=
  .of rfl rfl rfl (read_tb (x := 0#11) (h := by decide) ..)

theorem mwait (g : Guard) (d : Reg) : Statement (.mwait g d) :=
  .of rfl rfl rfl (read_tb (x := 0#11) (h := by decide) ..)

theorem mtry (g : Guard) (d c : Reg) (pd : PReg) : Statement (.mtry g d c pd) :=
  .of rfl rfl rfl (read_tb (h := by decide) ..)

theorem ksig (g : Guard) (a : Reg) (k : BitVec 8) : Statement (.ksig g a k) :=
  .of rfl rfl rfl (read_tb (h := by decide) ..)

theorem ksub (g : Guard) (a : Reg) (k : BitVec 8) : Statement (.ksub g a k) :=
  .of rfl rfl rfl (read_tb (h := by decide) ..)

theorem kwait (g : Guard) (a : Reg) (k : BitVec 8) : Statement (.kwait g a k) :=
  .of rfl rfl rfl (read_tb (h := by decide) ..)

theorem kset (g : Guard) (a : Reg) (k : BitVec 8) : Statement (.kset g a k) :=
  .of rfl rfl rfl (read_tb (h := by decide) ..)

theorem kread (g : Guard) (d : Reg) (k : BitVec 8) : Statement (.kread g d k) :=
  .of rfl rfl rfl (read_tb (h := by decide) ..)

theorem ttarm (g : Guard) (d a b : Reg) (k : BitVec 8) : Statement (.ttarm g d a b k) :=
  .of rfl rfl rfl (read_tb (h := by decide) ..)

theorem ttcancel (g : Guard) (d a : Reg) : Statement (.ttcancel g d a) :=
  .of rfl rfl rfl (read_tb (x := 0#11) (h := by decide) ..)

theorem qbind (g : Guard) (d : Port) (mode : PortMode) : Statement (.qbind g d mode) :=
  .of rfl rfl rfl (read_tb (h := by decide) ..)

theorem qstat (g : Guard) (d : Reg) (q : BitVec 4) : Statement (.qstat g d q) :=
  .of rfl rfl rfl (read_tb (h := by decide) ..)

theorem roam (g : Guard) (a : Reg) : Statement (.roam g a) :=
  .of rfl rfl rfl (read_tb (x := 0#11) (h := by decide) ..)

theorem mma (g : Guard) (d a b c : Reg) (asy ad nb na : Bool) (tile : BitVec 4) (td : Td) : Statement (.mma g d a b c asy ad nb na tile td) :=
  .of rfl rfl rfl (read_td ..)

theorem accld (g : Guard) (d a c : Reg) (asy : Bool) (tile : BitVec 4) (td : Td) : Statement (.accld g d a c asy tile td) :=
  .of rfl rfl rfl (read_td ..)

theorem accst (g : Guard) (d a b c : Reg) (asy int : Bool) (rm : BitVec 2) (tile : BitVec 4) (td : Td) : Statement (.accst g d a b c asy int rm tile td) :=
  .of rfl rfl rfl (read_td ..)

theorem acczero (g : Guard) (d c : Reg) (asy : Bool) (tile : BitVec 4) (td : Td) : Statement (.acczero g d c asy tile td) :=
  .of rfl rfl rfl (read_td ..)

theorem mpack (g : Guard) (d a b : Reg) (asy : Bool) (td : Td) : Statement (.mpack g d a b asy td) :=
  .of rfl rfl rfl (read_td ..)

theorem munpack (g : Guard) (d a b : Reg) (asy : Bool) (td : Td) : Statement (.munpack g d a b asy td) :=
  .of rfl rfl rfl (read_td ..)

theorem mwaitj (g : Guard) (d a : Reg) : Statement (.mwaitj g d a) :=
  .of rfl rfl rfl (read_ta ..)

theorem mpoll (g : Guard) (d a : Reg) : Statement (.mpoll g d a) :=
  .of rfl rfl rfl (read_ta ..)

theorem mwake (g : Guard) : Statement (.mwake g) :=
  .of rfl rfl rfl (read_ta ..)

theorem cpy (g : Guard) (d a b c : Reg) (quiet : Bool) (dim : Dim) (td : Td) : Statement (.cpy g d a b c quiet dim td) :=
  .of rfl rfl rfl (read_td ..)

theorem cpyMc (g : Guard) (d a b c : Reg) (msk : BitVec 8) (quiet : Bool) (dim : Dim) (td : Td) : Statement (.cpyMc g d a b c msk quiet dim td) :=
  .of rfl rfl rfl (read_td ..)

theorem cpyLb (g : Guard) (d a b c : Reg) (quiet inv : Bool) (ch : BitVec 2) (td : Td) : Statement (.cpyLb g d a b c quiet inv ch td) :=
  .of rfl rfl rfl (read_td ..)

theorem cpyRing (g : Guard) (d a b c : Reg) (quiet : Bool) (dim : Dim) (td : Td) : Statement (.cpyRing g d a b c quiet dim td) :=
  .of rfl rfl rfl (read_td ..)

theorem ksproj (g : Guard) (a : Reg) (ent : BitVec 5) (td : Td) : Statement (.ksproj g a ent td) :=
  .of rfl rfl rfl (read_td ..)

theorem kstore (g : Guard) (a b c : Reg) (ent : BitVec 5) (td : Td) : Statement (.kstore g a b c ent td) :=
  .of rfl rfl rfl (read_td ..)

theorem kgather (g : Guard) (d a b c : Reg) (qv : Bool) (rad : BitVec 2) (ent : BitVec 5) (td : Td) : Statement (.kgather g d a b c qv rad ent td) :=
  .of rfl rfl rfl (read_td ..)

theorem kfence (g : Guard) (td : Td) : Statement (.kfence g td) :=
  .of rfl rfl rfl (read_td ..)

theorem kstat (g : Guard) (d : Reg) (td : Td) : Statement (.kstat g d td) :=
  .of rfl rfl rfl (read_td ..)

theorem kbuild (g : Guard) (a : Reg) (ent : BitVec 5) (td : Td) : Statement (.kbuild g a ent td) :=
  .of rfl rfl rfl (read_td ..)

theorem rinv (g : Guard) (d a : Reg) (td : Td) : Statement (.rinv g d a td) :=
  .of rfl rfl rfl (read_td ..)

theorem rinvT (g : Guard) (d a : Reg) (td : Td) : Statement (.rinvT g d a td) :=
  .of rfl rfl rfl (read_td ..)

theorem rinvCard (g : Guard) (d a b : Reg) (td : Td) : Statement (.rinvCard g d a b td) :=
  .of rfl rfl rfl (read_td ..)

theorem lzcfg (g : Guard) (d a : Reg) (lz : BitVec 4) (td : Td) : Statement (.lzcfg g d a lz td) :=
  .of rfl rfl rfl (read_td ..)

theorem lzres (g : Guard) (d a : Reg) (td : Td) : Statement (.lzres g d a td) :=
  .of rfl rfl rfl (read_td ..)

theorem lzrel (g : Guard) (d a : Reg) (td : Td) : Statement (.lzrel g d a td) :=
  .of rfl rfl rfl (read_td ..)

theorem lzcpy (g : Guard) (d a b c : Reg) (quiet : Bool) (off : BitVec 8) (td : Td) : Statement (.lzcpy g d a b c quiet off td) :=
  .of rfl rfl rfl (read_td ..)

theorem sigupd (g : Guard) (a b : Reg) (op : SigOp) (td : Td) : Statement (.sigupd g a b op td) :=
  .of rfl rfl rfl (read_td ..)

theorem sigwait (g : Guard) (a b : Reg) (cmp : Cmp) (td : Td) : Statement (.sigwait g a b cmp td) :=
  .of rfl rfl rfl (read_td ..)

theorem migpt (g : Guard) : Statement (.migpt g) :=
  .of rfl rfl rfl (read_tb (x := 0#11) (h := by decide) ..)

theorem trig (g : Guard) (d a : Reg) (ent : BitVec 4) : Statement (.trig g d a ent) :=
  .of rfl rfl rfl (read_tb (h := by decide) ..)

theorem wakeGo (g : Guard) (d a : Reg) : Statement (.wakeGo g d a) :=
  .of rfl rfl rfl (read_tb (x := 0#11) (h := by decide) ..)

theorem wakeHold (g : Guard) (d a : Reg) : Statement (.wakeHold g d a) :=
  .of rfl rfl rfl (read_tb (x := 1#11) (h := by decide) ..)

theorem wakeDrop (g : Guard) (d a : Reg) : Statement (.wakeDrop g d a) :=
  .of rfl rfl rfl (read_tb (x := 2#11) (h := by decide) ..)

theorem pair (g : Guard) (d a b : Reg) : Statement (.pair g d a b) :=
  .of rfl rfl rfl (read_tb (x := 0#11) (h := by decide) ..)

theorem heelack (g : Guard) (a : Reg) : Statement (.heelack g a) :=
  .of rfl rfl rfl (read_tb (x := 0#11) (h := by decide) ..)

theorem eresume (g : Guard) (d a : Reg) : Statement (.eresume g d a) :=
  .of rfl rfl rfl (read_tb (x := 0#11) (h := by decide) ..)

theorem ekill (g : Guard) (d a : Reg) : Statement (.ekill g d a) :=
  .of rfl rfl rfl (read_tb (x := 0#11) (h := by decide) ..)

end Sys2Proof.Laws.Encoding
end

