-- ==== Sys2Proof/Laws/Reissue.lean ====
section
/-! SUPPORT. The form a core runs is exec of the instruction it stands for (Machine/Reissue.lean). -/

namespace Sys2Proof.Machine

theorem runOp_eq_exec (o : Op) (r : Raw) (s : State) : runOp o r s = exec (o.instr r) s := by
  cases o <;> rfl

theorem runHead_of_decoded {s : State} {c k : Nat} {t : Thread} {o : Op} {r : Raw} (ht : s.thread c k = some t)
    (hd : t.decoded = some (.ok (o, r))) : s.runHead c k = exec (o.instr r) s := by
  unfold State.runHead
  simp only [ht, hd, runOp_eq_exec]

theorem runAt_of_decoded {s : State} {c k : Nat} {t : Thread} {o : Op} {r : Raw} (ht : s.thread c k = some t)
    (hr : t.refusal = none) (hp : t.poisoned = false) (hd : t.decoded = some (.ok (o, r))) :
    s.runAt c k = exec (o.instr r) { s with cur := some (c, k) } := by
  have ht2 : ({ s with cur := some (c, k) } : State).thread c k = some t := ht
  unfold State.runAt
  have hdue : t.refusalDue = false := by simp [Thread.refusalDue, hr]
  simp only [ht2, hdue, hp, hd, Option.isSome_some, Bool.false_eq_true, if_false, if_true]
  exact runHead_of_decoded ht2 hd

end Sys2Proof.Machine
end

