-- ==== Sys2Proof/Laws/Vector.lean ====
section
/-! SUPPORT. Elements of vectors (05 R134), and the vector forms on plain registers. -/

namespace Sys2Proof.Machine
open Exec

/-! ### Elements -/

theorem foldr_digit (w : Nat) : ∀ (l : List Nat) (i : Nat) (h : i < l.length),
    l.foldr (fun e n => e % 2 ^ w + 2 ^ w * n) 0 / 2 ^ (w * i) % 2 ^ w = l[i] % 2 ^ w
  | [], i, h => by cases h
  | e :: l, 0, h => by
    simp [Nat.add_mul_mod_self_left]
  | e :: l, i + 1, h => by
    have hi : i < l.length := by simpa using h
    have := foldr_digit w l i hi
    simp only [List.foldr_cons, List.getElem_cons_succ]
    rw [← this, Nat.mul_add, Nat.mul_one, Nat.add_comm (w * i) w, Nat.pow_add, ← Nat.div_div_eq_div_mul]
    congr 2
    rw [Nat.add_mul_div_left _ _ (Nat.two_pow_pos w), Nat.div_eq_of_lt (Nat.mod_lt _ (Nat.two_pow_pos w)), Nat.zero_add]

theorem Ty.width_pos (ty : Ty) : 0 < ty.width := by cases ty <;> decide

theorem Ty.width_mul (ty : Ty) {i : Nat} (h : i < ty.count) : ty.width * i + ty.width ≤ 512 := by
  have h1 : ty.width * (i + 1) ≤ ty.width * ty.count := Nat.mul_le_mul_left _ h
  have h2 : ty.width * ty.count = 512 := by cases ty <;> decide
  rw [Nat.mul_add, Nat.mul_one] at h1
  omega

theorem mod_div_mod (n : Nat) {a b c : Nat} (h : a + b ≤ c) : n % 2 ^ c / 2 ^ a % 2 ^ b = n / 2 ^ a % 2 ^ b := by
  obtain ⟨d, rfl⟩ := Nat.le.dest (show a ≤ c by omega)
  have hb : b ≤ d := by omega
  rw [Nat.pow_add, Nat.mod_mul_right_div_self, Nat.mod_mod_of_dvd _ (Nat.pow_dvd_pow 2 hb)]

theorem elem_ofElems (ty : Ty) (l : List Nat) {i : Nat} (hl : i < l.length) (hc : i < ty.count) :
    elem ty (ofElems ty l) i = l[i] % 2 ^ ty.width := by
  unfold elem ofElems
  rw [BitVec.toNat_ofNat, mod_div_mod _ (Ty.width_mul ty hc)]
  exact foldr_digit ty.width l i hl

/-- An element as bits of its vector. -/
theorem elem_testBit (ty : Ty) (v : Vec) (i j : Nat) :
    (elem ty v i).testBit j = (decide (j < ty.width) && v.getLsbD (ty.width * i + j)) := by
  unfold elem
  rw [Nat.testBit_mod_two_pow, Nat.testBit_div_two_pow]
  rw [Nat.add_comm j]
  rfl

theorem foldr_bits (w : Nat) (f : Nat → Nat) (hf : ∀ i, f i < 2 ^ w) : ∀ (n a b j : Nat), j < w →
    ((List.range' a n).foldr (fun i x => f i + 2 ^ w * x) 0).testBit (w * b + j) = (decide (b < n) && (f (a + b)).testBit j)
  | 0, a, b, j, hj => by simp
  | n + 1, a, 0, j, hj => by
    simp only [List.range'_succ, List.foldr_cons, Nat.mul_zero, Nat.zero_add, Nat.add_zero, Nat.zero_lt_succ, decide_true, Bool.true_and]
    rw [Nat.add_comm, Nat.testBit_two_pow_mul_add _ (hf a), if_pos hj]
  | n + 1, a, b + 1, j, hj => by
    have ih := foldr_bits w f hf n (a + 1) b j hj
    simp only [List.range'_succ, List.foldr_cons]
    rw [Nat.add_comm (f a), Nat.testBit_two_pow_mul_add _ (hf a), if_neg (by rw [Nat.mul_add]; omega)]
    have : w * (b + 1) + j - w = w * b + j := by rw [Nat.mul_add]; omega
    rw [this, ih]
    simp [Nat.add_assoc, Nat.add_comm 1 b]

/-- The bytes of the active elements. -/
theorem enables_bit (ty : Ty) (mask : Word) {i j : Nat} (hi : i < ty.count) (hj : j < ty.bytes) :
    (enables ty mask).getLsbD (ty.bytes * i + j) = mask.getLsbD i := by
  have hb : ty.bytes * ty.count = 64 := by cases ty <;> decide
  have hlt : ty.bytes * i + j < 64 := by
    have : ty.bytes * (i + 1) ≤ ty.bytes * ty.count := Nat.mul_le_mul_left _ hi
    rw [Nat.mul_add] at this
    omega
  unfold enables
  rw [BitVec.getLsbD_ofNat]
  simp only [hlt, decide_true, Bool.true_and]
  have h := foldr_bits ty.bytes (fun i => if mask.getLsbD i then 2 ^ ty.bytes - 1 else 0)
    (fun i => by split <;> have := Nat.two_pow_pos ty.bytes <;> omega) ty.count 0 i j hj
  rw [← List.range_eq_range'] at h
  rw [h]
  simp only [hi, decide_true, Bool.true_and, Nat.zero_add]
  cases hm : mask.getLsbD i
  · simp
  · simp only [if_true, Nat.testBit_two_pow_sub_one, hj, decide_true]

theorem byteMask_bit (en : BitVec 64) {b : Nat} (h : b < 512) : (byteMask en).getLsbD b = en.getLsbD (b / 8) := by
  unfold byteMask
  rw [BitVec.getLsbD_ofNat]
  simp only [h, decide_true, Bool.true_and]
  have hf := foldr_bits 8 (fun i => if en.getLsbD i then 255 else 0) (fun i => by split <;> omega) 64 0 (b / 8) (b % 8) (by omega)
  rw [← List.range_eq_range'] at hf
  have e : 8 * (b / 8) + b % 8 = b := Nat.div_add_mod b 8
  rw [e] at hf
  have h256 : (256 : Nat) = 2 ^ 8 := rfl
  rw [h256, hf]
  have : b / 8 < 64 := by omega
  simp only [this, decide_true, Bool.true_and, Nat.zero_add]
  cases hm : en.getLsbD (b / 8)
  · simp
  · have := Nat.testBit_two_pow_sub_one (n := 8) (i := b % 8)
    simp only [if_true]
    rw [show (255 : Nat) = 2 ^ 8 - 1 from rfl, this]
    simp
    omega

/-- A masked write: active elements from the new vector, the others from the old one. -/
theorem elem_merge (ty : Ty) (mask : Word) (old new : Vec) {i : Nat} (hi : i < ty.count) :
    elem ty ((old &&& ~~~byteMask (enables ty mask)) ||| (new &&& byteMask (enables ty mask))) i
      = if mask.getLsbD i then elem ty new i else elem ty old i := by
  apply Nat.eq_of_testBit_eq
  intro j
  rw [elem_testBit]
  by_cases hj : j < ty.width
  · have hb : ty.width * i + j < 512 := by have := Ty.width_mul ty hi; omega
    have hd : (ty.width * i + j) / 8 = ty.bytes * i + j / 8 := by
      have : ty.width = 8 * ty.bytes := by cases ty <;> decide
      rw [this, Nat.mul_assoc, Nat.mul_add_div (by omega)]
    have hjb : j / 8 < ty.bytes := by
      have : ty.width = 8 * ty.bytes := by cases ty <;> decide
      omega
    have hm : (byteMask (enables ty mask)).getLsbD (ty.width * i + j) = mask.getLsbD i := by
      rw [byteMask_bit _ hb, hd, enables_bit ty mask hi hjb]
    simp only [BitVec.getLsbD_or, BitVec.getLsbD_and, BitVec.getLsbD_not, hb, hm, hj, decide_true, Bool.true_and]
    cases hmask : mask.getLsbD i
    · simp [elem_testBit, hj]
    · simp [elem_testBit, hj]
  · simp only [hj, decide_false, Bool.false_and]
    split <;> simp [elem_testBit, hj]

/-! ### The forms on plain registers (R134, R135) -/

namespace Exec
variable {s : State} {c k : Nat} {t : Thread} {g : Guard}

theorem accessAll_nil (e : Env) : EStateM.run (accessAll []) e = .ok [] e := rfl

theorem takeSrc_plain {e : Env} {r : VReg} (h : streamOf e.th r = none) :
    EStateM.run (takeSrc r) e = .ok (.val (vget e.th r)) e := by
  unfold takeSrc
  rw [bind_ok (get_ok _)]
  simp only [h]
  rfl

theorem takeSrcs_plain {e : Env} : ∀ {l : List VReg}, (∀ r ∈ l, streamOf e.th r = none) →
    EStateM.run (l.mapM takeSrc : Exec _) e = .ok (l.map fun r => VIn.val (vget e.th r)) e
  | [], _ => by simp [pure_ok]
  | r :: l, h => by
    simp only [List.mapM_cons]
    rw [bind_ok (takeSrc_plain (h r (by simp))), bind_ok (takeSrcs_plain fun q hq => h q (by simp [hq])), pure_ok]
    rfl

theorem fill_plain {e : Env} : ∀ (l : List Vec) (ps : List Place),
    EStateM.run (readSrcs.fill (l.map VIn.val) ps) e = .ok l e
  | [], ps => rfl
  | v :: l, ps => by
    simp only [List.map_cons, readSrcs.fill]
    rw [bind_ok (fill_plain l ps), pure_ok]

/-- Sources that are values, and no access beside them (R135). -/
theorem readSrcs_plain {e : Env} (l : List Vec) : EStateM.run (readSrcs (l.map VIn.val) none []) e = .ok (l, []) e := by
  have hf : (l.map VIn.val).filterMap VIn.check = [] := by simp [VIn.check]
  unfold readSrcs
  rw [hf]
  refine (bind_ok (accessAll_nil e)).trans ?_
  exact (bind_ok (fill_plain l [])).trans rfl

/-- Reading vector sources that are no streams, with a destination that is none (R135). -/
theorem vsources_plain {e : Env} {srcs : List VReg} {dst : Option (VReg × BitVec 64)} (h : plainRegs e.th srcs)
    (hd : ∀ d en, dst = some (d, en) → streamOf e.th d = none) :
    EStateM.run (vsources srcs dst) e = .ok (srcs.map (vget e.th), []) e := by
  unfold vsources
  rw [bind_ok (takeSrcs_plain h)]
  have hst : EStateM.run (match dst with
      | some (r, en) => dstStore r en
      | none => pure none : Exec (Option Word)) e = .ok none e := by
    cases dst with
    | none => rfl
    | some p =>
      obtain ⟨d, en⟩ := p
      simp only [dstStore]
      rw [bind_ok (get_ok _), hd d en rfl]
      rfl
  have hin : (srcs.map fun r => VIn.val (vget e.th r)) = (srcs.map (vget e.th)).map VIn.val := by rw [List.map_map]; rfl
  rw [hin]
  cases dst with
  | none => exact readSrcs_plain _
  | some p =>
    refine Eq.trans (bind_ok hst) ?_
    exact readSrcs_plain _

theorem vwrite_plain {e : Env} {d : VReg} {v : Vec} {en : BitVec 64} (h : streamOf e.th d = none) :
    EStateM.run (vwrite d v en) e = .ok () { e with th := { e.th with
      v := e.th.v.setIfInBounds d.toNat ((vget e.th d &&& ~~~byteMask en) ||| (v &&& byteMask en)) } } := by
  unfold vwrite
  rw [bind_ok (get_ok _)]
  simp only [h]
  rw [modTh_ok]

/-- The result of an element-wise function on plain registers. -/
theorem merged_overActive (ty : Ty) (mask : Word) (old : Vec) (f : Nat → Nat × Flags) :
    Merged ty mask old ((old &&& ~~~byteMask (enables ty mask)) ||| ((overActive ty mask f).1 &&& byteMask (enables ty mask))) f := by
  intro i hi
  rw [elem_merge ty mask _ _ hi]
  split
  · rename_i hm
    unfold overActive
    simp only
    rw [elem_ofElems ty _ (by simpa using hi) hi]
    simp [hm]
  · rfl

theorem overActive_flags (ty : Ty) (mask : Word) (f : Nat → Nat × Flags) : (overActive ty mask f).2 = activeFlags ty mask f := by
  unfold overActive activeFlags
  simp only [List.map_map]
  congr 2
  funext i
  simp only [Function.comp]
  split <;> rfl

/-- Element-wise forms whose scalar sources have been read into a state (R134, R135). -/
theorem vmap_result {i : Instr} {d : VReg} {srcs : List VReg} {ty : Ty} {m : Option MReg} {lat : Nat} {f : List Vec → Nat → Nat × Flags}
    {body : Exec Next} {s1 : State} {keep : State} {pops : List Chan} (hx : exec i s = runThread g body s) (hlat : lat ≤ 16)
    (hi : Issues s c k t g) (hp : plainRegs t (d :: srcs))
    (hb : EStateM.run body (start s c k t) = EStateM.run (vmap d srcs ty m lat f) { start s c k t with s := s1, keep := keep, pops := pops }) :
    VectorResult i s c k t s1 d ty (maskOf t m) (fun j => f (srcs.map (vget t)) j) lat := by
  refine ⟨_, merged_overActive ty (maskOf t m) (vget t d) (fun j => f (srcs.map (vget t)) j), ?_⟩
  let w := (vget t d &&& ~~~byteMask (enables ty (maskOf t m)))
    ||| ((overActive ty (maskOf t m) (fun j => f (srcs.map (vget t)) j)).1 &&& byteMask (enables ty (maskOf t m)))
  let fl := activeFlags ty (maskOf t m) (fun j => f (srcs.map (vget t)) j)
  have hrun : EStateM.run body (start s c k t) = .ok .advance { start s c k t with
      s := s1, keep := keep, pops := pops, lat := lat, th := withVector t d w fl } := by
    rw [hb]
    unfold vmap
    rw [bind_ok (get_ok _)]
    simp only
    rw [bind_ok (vsources_plain (fun r hr => hp r (by simp [hr])) (fun d' en h => by cases h; exact hp d (by simp)))]
    simp only
    rw [bind_ok (latency_ok _ _)]
    rw [bind_ok (setFlags_ok _ _)]
    refine (bind_ok (vwrite_plain (hp d (by simp)))).trans ?_
    simp only [overActive_flags]
    rfl
  exact completes hx hlat hi hrun (Fresh.mk' hi rfl rfl ⟨t.g, t.pred, _, _, t.m, t.streams, t.sb, rfl⟩) rfl rfl (.inl ⟨rfl, rfl⟩)

end Exec
end Sys2Proof.Machine
end

