-- ==== Sys2Proof/Tests/Slice0.lean ====
section
/-! SUPPORT. Small tests: ill-formed terms that WellFormed refuses; a word of every instruction written out from the
encoding tables of the spec (R41-R48 and the opcode tables), which the decoder reads as the instruction it stands for and
which the encoder gives back; results of single steps computed by hand from the rules; and for every obligation with
hypotheses a state, with operands, that meets them (witness_<name of the obligation>). -/

/- Each test waits for the kernel; one after another they need few threads. -/
set_option Elab.async false

namespace Sys2Proof.Tests
open Sys2Proof.Machine

/-- A line of thirty nops (R41, R44). -/
def nops : Vec := 0x0000040004000400040004000400040004000400040004000400040004000400040004000400040004000400040004000400040004000400040004000400f000#512

/-- The thread of the tests: at head 1 of a line of nops that it has entered, at the start of slice 128. -/
def th : Thread := {
  pc := Word.ofNat (sramBase + 2), line := some ⟨sramBase / 64, nops⟩, wlim := 1000, prio := 3, dom := 1
  g := #v[5, 7, 3, 0xFFFFFFFFFFFFFFF0, 0x8000000000000000, Word.ofNat (sramBase + 0x1000), 0x40, 0, 0, 0, 0, 0, 0, 0, 0, 0, 0, 0, 0, 0, 0, 0, 0, 0] }

/-- Core 512 in context 1, with all rights in the PLB for the first granule of its slice. -/
def core0 : Core := { ctx := some 1, ilb := [sramBase / 64], plb := [{ base := sramBase, size := 2 ^ 17, domain := 0, rights := 0x1F#8 }] }

def ctx1 : Ctx := { cores := [512], slices := [128], rights := [(0, 0x1F#8)] }

/-- The state in which thread `t` stands in slot 0 of core 512 and issues. -/
def home (t : Thread) : State := { State.reset with
  cur := some (512, 0), watch := ⟨.active, none⟩
  cores := [(512, { core0 with slots := [(0, t)] })]
  ctxs := [(0, {}), (1, ctx1)] }

/-- A value of thread 0 of core 512 after an instruction. -/
def after (i : Instr) (s : State) (f : Thread → Word) : Option Word := match exec i s with
  | .next s' => (s'.thread 512 0).map f
  | _ => none

abbrev reg (i : Instr) (w : Word) : Prop := after i (home th) (fun t => t.g[7]) = some w
abbrev prd (i : Instr) (w : Word) : Prop := after i (home th) (fun t => t.pred.zeroExtend 64) = some w

/-- The conditions of `Issues`, computed. -/
def issues (s : State) (c k : Nat) (t : Thread) (g : Guard) : Bool :=
  decide (s.cur = some (c, k)) && decide (s.thread c k = some t) && decide (Exec.pget t g = true) && decide (t.step = false)
    && decide (t.entered = none) && decide (t.heldEntry = none)

theorem issues_of {s : State} {c k : Nat} {t : Thread} {g : Guard} (h : issues s c k t g = true) : Issues s c k t g := by
  simp only [issues, Bool.and_eq_true, decide_eq_true_eq] at h
  obtain ⟨⟨⟨⟨⟨h1, h2⟩, h3⟩, h4⟩, h5⟩, h6⟩ := h
  exact ⟨h1, h2, h3, h4, h5, h6⟩

/-! ### Well-formed terms -/

/-- Each check of WellFormed refuses a term: bit fields beyond bit 63 (R107), float and integer types (R51, R72), rounding of an
integer result (R50), the part of vcvt (R149), p-, link- and counter fields (R113, R126), reserved orders, types and modes
(R268, R275, R340, R351), an empty core mask (R340), equal destinations (R35), and semaphore fields without wait or signal (R48). -/
theorem test_ill_formed :
    Instr.wf (.bext 0 (.g 1) (.g 2) 60 4) = false ∧ Instr.wf (.bins 0 (.g 1) (.g 2) 1 63) = false
    ∧ Instr.wf (.fadd 0 (.g 1) (.g 2) (.g 3) .i32 .rne) = false ∧ Instr.wf (.fcmpEq 0 1 (.g 2) (.g 3) .n8) = false
    ∧ Instr.wf (.fclass 0 (.g 1) (.g 2) .i8) = false ∧ Instr.wf (.fma 0 (.g 1) (.g 2) (.g 3) (.g 4) .n64 .dyn) = false
    ∧ Instr.wf (.fcvt 0 (.g 1) (.g 2) .i32 .n8 .rup) = false
    ∧ Instr.wf (.movF 0 .lw .le) = false ∧ Instr.wf (.movF 0 (.g 1) (.g 2)) = false
    ∧ Instr.wf (.mts 0 (.g 1) 0x80) = false ∧ Instr.wf (.mts 0 (.g 1) 0x81) = false
    ∧ Instr.wf (.jmp 0 .z) = false ∧ Instr.wf (.call 0 .lw 0 1) = false ∧ Instr.wf (.callReg 0 .z .z) = false
    ∧ Instr.wf (.ret 0 (.x 0)) = false ∧ Instr.wf (.loop 0 .z 0 1) = false := by decide +kernel

theorem test_ill_formed_types :
    Instr.wf (.amoAdd 0 (.g 1) (.g 2) (.g 3) .i16 .rlx .die) = false ∧ Instr.wf (.fence 0 .rlx .die) = false
    ∧ Instr.wf (.vaddInt 0 1 2 3 .f32 false none) = false ∧ Instr.wf (.vaddFp 0 1 2 3 .i32 .rne none) = false
    ∧ Instr.wf (.vrand 0 1 (.g 2) (.g 3) .n8 none) = false ∧ Instr.wf (.vfma 0 1 2 3 4 .i8 .rne none) = false
    ∧ Instr.wf (.vcmpUn 0 1 2 3 .i32 none) = false ∧ Instr.wf (.vredAdd 0 (.g 1) 2 .f32 true .rne none) = false
    ∧ Instr.wf (.vscanAdd 0 1 2 .i32 false .rup none) = false ∧ Instr.wf (.vredmaxIdx 0 (.g 3) 1 (.g 3) .i32 none) = false
    ∧ Instr.wf (.vcvt 0 1 2 2 .f16 .f32 .rne) = false ∧ Instr.wf (.vcvt 0 1 2 0 .i8 .i16 .rtz) = false
    ∧ Instr.wf (.vdiv 0 1 2 3 .i32 .rdn none) = false ∧ Instr.wf (.vrem 0 1 2 3 .f32 none) = false := by decide +kernel

theorem test_ill_formed_engines :
    Instr.wf (.mrecv 0 (.g 4) (.g 4)) = false ∧ Instr.wf (.mtry 0 (.g 4) (.g 4) 1) = false
    ∧ Instr.wf (.mma 0 (.g 1) (.g 2) (.g 3) .z true false false false 0 ⟨1, 0, 0, 0⟩) = false
    ∧ Instr.wf (.kfence 0 ⟨0, 0, 7, 0⟩) = false
    ∧ Instr.wf (.cpyMc 0 (.g 1) (.g 2) (.g 3) (.g 4) 0 false .d1 ⟨0, 0, 0, 0⟩) = false
    ∧ Instr.wf (.cpyRing 0 (.g 1) (.g 2) (.g 3) (.g 4) false .d1 ⟨0, 0, 0, 0⟩) = false
    ∧ Instr.wf (.kgather 0 (.g 1) (.g 2) (.g 3) (.g 4) false 3 0 ⟨0, 0, 0, 0⟩) = false := by decide +kernel

/-! ### Words written from the encodings of 02 R41-R56 and the entries -/

/-- A head and a tail decode to an instruction, and the instruction encodes to them. -/
abbrev words (h : BitVec 16) (t : Word) (i : Instr) : Prop := decodeHead h t = .ok i ∧ encode i = some (h, t)

/-- The words of the spec's own examples: 02 R44, R48; 04 R109, R114, R116, R127; 05 R135, R147, R148; 07 R200, R206; 09
R264, R268; 10 R315; 15 R437. -/
theorem test_words_of_examples :
    words 0x2022 0x10A00028 (.cmpGeuImm 0 1 (.g 2) 40) ∧ words 0x3422 0x1009 (.mfs 0 (.g 1) 9)
    ∧ words 0x2822 0x10C00014 (.fadd 0 (.g 1) (.g 2) (.g 3) .f32 .dyn) ∧ words 0x44E0 0 (.jmp 0 (.g 7))
    ∧ words 0x8422 0x10C00314 (.vaddFp 0 1 2 3 .f32 .dyn (some 2)) ∧ words 0x80A2 0x29C13848 (.vshlScalar 0 5 5 (.g 7) .n16 false none)
    ∧ words 0x9022 0x100602B0 (.vcompress 0 1 2 (.g 3) .i32 (some 1))
    ∧ words 0x9422 0x18041A10 (.vredmaxIdx 0 (.g 1) 3 (.g 2) .f32 (some 0))
    ∧ words 0xCC02 0x10000805 (.ksub 0 (.g 2) 5) ∧ words 0x3402 0x4800180C (.mts 0 (.g 9) 0x0C)
    ∧ words 0x7042 0x60000000 (.ldsync 0 (.g 2) (.g 12) 0)
    ∧ words 0x7462 0x510A3FD8 (.amoCas 0 (.g 3) (.g 10) (.g 4) (.g 5) .n64 .ar .sys)
    ∧ words 0xC1A2 0x62800010 (.fork 0 (.g 13) (.g 12) (.g 10) false false 1 0) ∧ words 0xC002 0x50000800 (.join 0 (.g 10))
    ∧ words 0xE0C3 0x05010610022F00C2 (.mma 0 (.g 6) (.g 1) (.g 2) .z true true false false 2 ⟨5, 1, 6, 1⟩)
    ∧ words 0xF8A3 0x0000061182218002 (.lzcpy 0 (.g 5) (.g 1) (.g 2) (.g 3) false 2 ⟨0, 0, 6, 1⟩)
    ∧ words 0xF803 0x00000001C2200001 (.sigupd 0 (.g 1) (.g 2) .add ⟨0, 0, 0, 0⟩) := by
  refine ⟨⟨rfl, rfl⟩, ⟨rfl, rfl⟩, ⟨rfl, rfl⟩, ⟨rfl, rfl⟩, ⟨rfl, rfl⟩, ⟨rfl, rfl⟩, ⟨rfl, rfl⟩, ⟨rfl, rfl⟩, ⟨rfl, rfl⟩, ⟨rfl, rfl⟩,
    ⟨rfl, rfl⟩, ⟨rfl, rfl⟩, ⟨rfl, rfl⟩, ⟨rfl, rfl⟩, ⟨rfl, rfl⟩, ⟨rfl, rfl⟩, ⟨rfl, rfl⟩⟩

/-- R58: an unassigned major or sub-op and a register code outside its set are illegal; a tail length, an unused field, a
reserved type or mode against the tables is malformed; the earlier step decides. -/
theorem test_words_refused :
    decodeHead 0b001110_00000_000_00 0 = .error .illegal
    ∧ decodeHead 0b000010_00000_000_01 0b00001_00010_010011 = .error .illegal
    ∧ decodeHead 0b000010_11111_000_01 0b00001_00010_000000 = .error .illegal
    ∧ decodeHead 0b000010_00000_000_10 0 = .error .malformed
    ∧ decodeHead 0b000110_00001_000_01 0b00001_00010_000000 = .error .malformed
    ∧ decodeHead 0b001010_00001_000_10 0b00001_00010_00000_000000_0000_0010_101 = .error .malformed
    ∧ decodeHead 0b001010_00001_000_10 0b00001_00010_00000_000000_0000_1100_000 = .error .malformed
    ∧ decodeHead 0b000011_00001_000_10 0b00001_000110_000000000000001_000001 = .error .malformed
    ∧ decodeHead 0b000011_00001_000_10 0b00001_000001_000000000000000000001 = .error .illegal
    ∧ decodeHead 0b111100_00001_000_11 0b00000000_00000000_00000001_0000_000000_00001_00010_00011_00000000_0_0000_00 = .error .malformed := by
  refine ⟨rfl, rfl, rfl, rfl, rfl, rfl, rfl, rfl, rfl, rfl⟩

theorem test_words_misc :
    words 0b000001_00000_100_00 0b0 (.nop 4)
    ∧ words 0b000001_00001_101_00 0b0 (.brk 5)
    ∧ words 0b000001_00001_000_01 0b1110111001100110 (.brkCode 0 61030) := by
  refine ⟨⟨rfl, rfl⟩, ⟨rfl, rfl⟩, ⟨rfl, rfl⟩⟩

theorem test_words_alu_register_1 :
    words 0b000010_00001_011_01 0b00011_01111_000000 (.add 3 (.g 1) (.g 3) (.g 15))
    ∧ words 0b000010_10001_011_01 0b10010_00000_000001 (.sub 3 (.g 17) (.g 18) (.g 0))
    ∧ words 0b000010_01000_011_01 0b11101_00101_000010 (.land 3 (.g 8) .le (.g 5))
    ∧ words 0b000010_10011_001_01 0b01110_00100_000011 (.lor 1 (.g 19) (.g 14) (.g 4))
    ∧ words 0b000010_00110_000_01 0b11110_11011_000100 (.lxor 0 (.g 6) .z (.x 3))
    ∧ words 0b000010_01010_010_01 0b10001_10100_000101 (.andn 2 (.g 10) (.g 17) (.g 20))
    ∧ words 0b000010_11110_011_01 0b00110_01001_000110 (.shl 3 .z (.g 6) (.g 9))
    ∧ words 0b000010_01101_000_01 0b11101_01000_000111 (.shr 0 (.g 13) .le (.g 8))
    ∧ words 0b000010_01001_001_01 0b10010_10011_001000 (.sar 1 (.g 9) (.g 18) (.g 19))
    ∧ words 0b000010_01001_101_01 0b01001_10110_001001 (.rol 5 (.g 9) (.g 9) (.g 22))
    ∧ words 0b000010_01111_101_01 0b10110_00001_001010 (.min 5 (.g 15) (.g 22) (.g 1))
    ∧ words 0b000010_11110_100_01 0b01011_00000_001011 (.max 4 .z (.g 11) (.g 0))
    ∧ words 0b000010_01100_110_01 0b00000_00001_001100 (.minu 6 (.g 12) (.g 0) (.g 1))
    ∧ words 0b000010_00110_010_01 0b11000_11101_001101 (.maxu 2 (.g 6) (.x 0) .le) := by
  refine ⟨⟨rfl, rfl⟩, ⟨rfl, rfl⟩, ⟨rfl, rfl⟩, ⟨rfl, rfl⟩, ⟨rfl, rfl⟩, ⟨rfl, rfl⟩, ⟨rfl, rfl⟩, ⟨rfl, rfl⟩, ⟨rfl, rfl⟩, ⟨rfl, rfl⟩, ⟨rfl, rfl⟩, ⟨rfl, rfl⟩, ⟨rfl, rfl⟩, ⟨rfl, rfl⟩⟩

theorem test_words_alu_register_2 :
    words 0b000010_10000_111_01 0b10000_01110_001110 (.addSat 7 (.g 16) (.g 16) (.g 14))
    ∧ words 0b000010_10111_001_01 0b01001_01101_001111 (.subSat 1 (.g 23) (.g 9) (.g 13))
    ∧ words 0b000010_01010_001_01 0b10011_00100_010000 (.addSatu 1 (.g 10) (.g 19) (.g 4))
    ∧ words 0b000010_10110_101_01 0b00010_10101_010001 (.subSatu 5 (.g 22) (.g 2) (.g 21))
    ∧ words 0b000010_00101_101_10 0b10100_10111_00100_010010_00000000000 (.sel 5 (.g 5) (.g 20) (.g 23) 4) := by
  refine ⟨⟨rfl, rfl⟩, ⟨rfl, rfl⟩, ⟨rfl, rfl⟩, ⟨rfl, rfl⟩, ⟨rfl, rfl⟩⟩

theorem test_words_alu_immediate_1 :
    words 0b000011_10111_111_10 0b00010_000000_110011111101000010001 (.addImm 7 (.g 23) (.g 2) 1702417)
    ∧ words 0b000011_10111_000_10 0b01011_000010_100000000001101101100 (.landImm 0 (.g 23) (.g 11) 1049452)
    ∧ words 0b000011_01101_111_10 0b00001_000011_000100001100000011010 (.lorImm 7 (.g 13) (.g 1) 137242)
    ∧ words 0b000011_00110_111_10 0b10111_000100_010000111111101101011 (.lxorImm 7 (.g 6) (.g 23) 556907)
    ∧ words 0b000011_00101_110_10 0b01011_000101_010011000110100111100 (.andnImm 6 (.g 5) (.g 11) 625980)
    ∧ words 0b000011_01001_000_10 0b01110_001010_010101101010110100101 (.minImm 0 (.g 9) (.g 14) 710053)
    ∧ words 0b000011_10110_111_10 0b01010_001011_111101010100010100001 (.maxImm 7 (.g 22) (.g 10) 2009249)
    ∧ words 0b000011_01111_100_10 0b00100_001100_001110011010000110000 (.minuImm 4 (.g 15) (.g 4) 472112)
    ∧ words 0b000011_00101_110_10 0b01111_001101_101011010100110100010 (.maxuImm 6 (.g 5) (.g 15) 1419682)
    ∧ words 0b000011_01111_010_10 0b10000_001110_101110001111111111000 (.addSatImm 2 (.g 15) (.g 16) 1515512)
    ∧ words 0b000011_10110_001_10 0b10101_010000_000100011001001000110 (.addSatuImm 1 (.g 22) (.g 21) 143942)
    ∧ words 0b000011_10001_100_10 0b10101_000110_000000000000000_100011 (.shlImm 4 (.g 17) (.g 21) 35)
    ∧ words 0b000011_10110_111_10 0b01001_000111_000000000000000_101011 (.shrImm 7 (.g 22) (.g 9) 43)
    ∧ words 0b000011_00000_010_10 0b10001_001000_000000000000000_100000 (.sarImm 2 (.g 0) (.g 17) 32) := by
  refine ⟨⟨rfl, rfl⟩, ⟨rfl, rfl⟩, ⟨rfl, rfl⟩, ⟨rfl, rfl⟩, ⟨rfl, rfl⟩, ⟨rfl, rfl⟩, ⟨rfl, rfl⟩, ⟨rfl, rfl⟩, ⟨rfl, rfl⟩, ⟨rfl, rfl⟩, ⟨rfl, rfl⟩, ⟨rfl, rfl⟩, ⟨rfl, rfl⟩, ⟨rfl, rfl⟩⟩

theorem test_words_alu_immediate_2 :
    words 0b000011_01000_101_10 0b01001_001001_000000000000000_101101 (.rolImm 5 (.g 8) (.g 9) 45) := by
  exact ⟨rfl, rfl⟩

theorem test_words_li :
    words 0b000100_10100_101_01 0b1011000011110000 (.li 5 (.g 20) 45296)
    ∧ words 0b000100_00101_110_10 0b10110000001101101101100111011101 (.liI32 6 (.g 5) 2956384733)
    ∧ words 0b000100_10000_101_11 0b0110101010101000011111000000100110111010111110000111000100110001 (.liTe 5 (.g 16) 7685529145341145393) := by
  refine ⟨⟨rfl, rfl⟩, ⟨rfl, rfl⟩, ⟨rfl, rfl⟩⟩

theorem test_words_mul_div :
    words 0b000101_10011_110_01 0b10100_10111_000000 (.mul 6 (.g 19) (.g 20) (.g 23))
    ∧ words 0b000101_00101_000_01 0b01110_10100_000001 (.mulh 0 (.g 5) (.g 14) (.g 20))
    ∧ words 0b000101_11000_010_01 0b00101_10110_000010 (.mulhu 2 (.x 0) (.g 5) (.g 22))
    ∧ words 0b000101_00111_000_01 0b00001_00011_001000 (.div 0 (.g 7) (.g 1) (.g 3))
    ∧ words 0b000101_01111_101_01 0b10001_01101_001001 (.divu 5 (.g 15) (.g 17) (.g 13))
    ∧ words 0b000101_01100_111_01 0b10011_10010_001010 (.rem 7 (.g 12) (.g 19) (.g 18))
    ∧ words 0b000101_10110_011_01 0b00000_01100_001011 (.remu 3 (.g 22) (.g 0) (.g 12)) := by
  refine ⟨⟨rfl, rfl⟩, ⟨rfl, rfl⟩, ⟨rfl, rfl⟩, ⟨rfl, rfl⟩, ⟨rfl, rfl⟩, ⟨rfl, rfl⟩, ⟨rfl, rfl⟩⟩

theorem test_words_bit :
    words 0b000110_00011_100_01 0b10001_00000_000000 (.clz 4 (.g 3) (.g 17))
    ∧ words 0b000110_10001_101_01 0b01001_00000_000001 (.ctz 5 (.g 17) (.g 9))
    ∧ words 0b000110_10001_001_01 0b01010_00000_000010 (.popc 1 (.g 17) (.g 10))
    ∧ words 0b000110_00100_100_01 0b01101_00000_000011 (.bswap 4 (.g 4) (.g 13))
    ∧ words 0b000110_00100_101_01 0b10011_00000_000100 (.sextB 5 (.g 4) (.g 19))
    ∧ words 0b000110_01111_110_01 0b11110_00000_000101 (.sextH 6 (.g 15) .z)
    ∧ words 0b000110_00010_010_01 0b10101_00000_000110 (.sextW 2 (.g 2) (.g 21))
    ∧ words 0b000110_00011_000_01 0b10010_00000_000111 (.zextB 0 (.g 3) (.g 18))
    ∧ words 0b000110_10100_010_01 0b01100_00000_001000 (.zextH 2 (.g 20) (.g 12))
    ∧ words 0b000110_00111_110_01 0b01001_00000_001001 (.zextW 6 (.g 7) (.g 9))
    ∧ words 0b000110_01100_111_10 0b00101_010000_000000000_010111_100001 (.bext 7 (.g 12) (.g 5) 33 23)
    ∧ words 0b000110_01000_100_10 0b00000_010001_000000000_001001_101000 (.bins 4 (.g 8) (.g 0) 40 9) := by
  refine ⟨⟨rfl, rfl⟩, ⟨rfl, rfl⟩, ⟨rfl, rfl⟩, ⟨rfl, rfl⟩, ⟨rfl, rfl⟩, ⟨rfl, rfl⟩, ⟨rfl, rfl⟩, ⟨rfl, rfl⟩, ⟨rfl, rfl⟩, ⟨rfl, rfl⟩, ⟨rfl, rfl⟩, ⟨rfl, rfl⟩⟩

theorem test_words_lea :
    words 0b000111_00100_111_10 0b00000_10101_00000_000011_01111101101 (.lea 7 (.g 4) (.g 0) (.g 21) 3 1005) := by
  exact ⟨rfl, rfl⟩

theorem test_words_compare_1 :
    words 0b001000_00000_100_01 0b11010_00000_000000 (.cmpEq 4 0 (.x 2) (.g 0))
    ∧ words 0b001000_00100_111_01 0b11101_00001_000001 (.cmpNe 7 4 .le (.g 1))
    ∧ words 0b001000_00111_011_01 0b00100_01001_000010 (.cmpLt 3 7 (.g 4) (.g 9))
    ∧ words 0b001000_00111_100_01 0b01111_10100_000011 (.cmpGe 4 7 (.g 15) (.g 20))
    ∧ words 0b001000_00000_001_01 0b01001_10001_000100 (.cmpLtu 1 0 (.g 9) (.g 17))
    ∧ words 0b001000_00100_101_01 0b10000_01110_000101 (.cmpGeu 5 4 (.g 16) (.g 14))
    ∧ words 0b001000_00101_101_01 0b10111_00100_000110 (.cmpGt 5 5 (.g 23) (.g 4))
    ∧ words 0b001000_00000_000_01 0b10001_10101_000111 (.cmpLe 0 0 (.g 17) (.g 21))
    ∧ words 0b001000_00011_001_01 0b01101_10011_001000 (.cmpGtu 1 3 (.g 13) (.g 19))
    ∧ words 0b001000_00110_111_01 0b01100_10111_001001 (.cmpLeu 7 6 (.g 12) (.g 23))
    ∧ words 0b001000_00100_011_01 0b00010_00000_001010 (.cmpTst 3 4 (.g 2) (.g 0))
    ∧ words 0b001000_00100_110_01 0b01111_00100_001011 (.cmpNtst 6 4 (.g 15) (.g 4))
    ∧ words 0b001000_00111_010_10 0b10001_000000_111111101101000000101 (.cmpEqImm 2 7 (.g 17) 2087429)
    ∧ words 0b001000_00010_101_10 0b10010_000001_000110001101110000010 (.cmpNeImm 5 2 (.g 18) 203650) := by
  refine ⟨⟨rfl, rfl⟩, ⟨rfl, rfl⟩, ⟨rfl, rfl⟩, ⟨rfl, rfl⟩, ⟨rfl, rfl⟩, ⟨rfl, rfl⟩, ⟨rfl, rfl⟩, ⟨rfl, rfl⟩, ⟨rfl, rfl⟩, ⟨rfl, rfl⟩, ⟨rfl, rfl⟩, ⟨rfl, rfl⟩, ⟨rfl, rfl⟩, ⟨rfl, rfl⟩⟩

theorem test_words_compare_2 :
    words 0b001000_00011_001_10 0b00010_000010_001000000011011010111 (.cmpLtImm 1 3 (.g 2) 263895)
    ∧ words 0b001000_00101_000_10 0b01101_000011_001000110010110101000 (.cmpGeImm 0 5 (.g 13) 288168)
    ∧ words 0b001000_00111_110_10 0b00011_000100_001111101010010110000 (.cmpLtuImm 6 7 (.g 3) 513200)
    ∧ words 0b001000_00001_011_10 0b00100_000101_100101011100000110100 (.cmpGeuImm 3 1 (.g 4) 1226804)
    ∧ words 0b001000_00010_111_10 0b10011_000110_010111101101110111010 (.cmpGtImm 7 2 (.g 19) 777146)
    ∧ words 0b001000_00010_110_10 0b10011_000111_011011010010000010000 (.cmpLeImm 6 2 (.g 19) 893968)
    ∧ words 0b001000_00001_000_10 0b01100_001000_001001001101110110110 (.cmpGtuImm 0 1 (.g 12) 302006)
    ∧ words 0b001000_00000_100_10 0b10010_001001_001111001001100011100 (.cmpLeuImm 4 0 (.g 18) 496412)
    ∧ words 0b001000_00010_110_10 0b01101_001010_001011101101000011101 (.cmpTstImm 6 2 (.g 13) 383517)
    ∧ words 0b001000_00111_101_10 0b01011_001011_101111111001011011101 (.cmpNtstImm 5 7 (.g 11) 1569501) := by
  refine ⟨⟨rfl, rfl⟩, ⟨rfl, rfl⟩, ⟨rfl, rfl⟩, ⟨rfl, rfl⟩, ⟨rfl, rfl⟩, ⟨rfl, rfl⟩, ⟨rfl, rfl⟩, ⟨rfl, rfl⟩, ⟨rfl, rfl⟩, ⟨rfl, rfl⟩⟩

theorem test_words_predicate :
    words 0b001001_00010_000_01 0b00100_00010_000000 (.pand 0 2 4 2)
    ∧ words 0b001001_00011_100_01 0b00100_00001_000001 (.por 4 3 4 1)
    ∧ words 0b001001_00100_011_01 0b00100_00010_000010 (.pxor 3 4 4 2)
    ∧ words 0b001001_00101_011_01 0b00111_00000_000011 (.pnot 3 5 7) := by
  refine ⟨⟨rfl, rfl⟩, ⟨rfl, rfl⟩, ⟨rfl, rfl⟩, ⟨rfl, rfl⟩⟩

theorem test_words_fp_arith :
    words 0b001010_00100_110_10 0b00000_01010_00000_000000_0000_0000_100 (.fadd 6 (.g 4) (.g 0) (.g 10) .f16 .dyn)
    ∧ words 0b001010_11011_000_10 0b10000_01110_00000_000001_0000_0001_011 (.fsub 0 (.x 3) (.g 16) (.g 14) .bf16 .rdn)
    ∧ words 0b001010_01010_111_10 0b11001_00000_00000_000010_0000_0011_000 (.fmul 7 (.g 10) (.x 1) (.g 0) .f64 .rne)
    ∧ words 0b001010_10101_010_10 0b10111_00010_00000_000011_0000_0011_001 (.fdiv 2 (.g 21) (.g 23) (.g 2) .f64 .rtz)
    ∧ words 0b001010_10011_010_10 0b01011_00000_00000_000100_0000_0001_010 (.fsqrt 2 (.g 19) (.g 11) .bf16 .rup)
    ∧ words 0b001010_10110_101_10 0b01100_00100_00000_000101_0000_0010_000 (.fmin 5 (.g 22) (.g 12) (.g 4) .f32)
    ∧ words 0b001010_01101_100_10 0b10000_10010_00000_000110_0000_0001_000 (.fmax 4 (.g 13) (.g 16) (.g 18) .bf16) := by
  refine ⟨⟨rfl, rfl⟩, ⟨rfl, rfl⟩, ⟨rfl, rfl⟩, ⟨rfl, rfl⟩, ⟨rfl, rfl⟩, ⟨rfl, rfl⟩, ⟨rfl, rfl⟩⟩

theorem test_words_fp_compare :
    words 0b001011_00110_010_10 0b00011_00001_00000_000000_0000_0001_000 (.fcmpEq 2 6 (.g 3) (.g 1) .bf16)
    ∧ words 0b001011_00011_011_10 0b01111_10101_00000_000001_0000_0010_000 (.fcmpNe 3 3 (.g 15) (.g 21) .f32)
    ∧ words 0b001011_00110_000_10 0b01001_01101_00000_000010_0000_0010_000 (.fcmpLt 0 6 (.g 9) (.g 13) .f32)
    ∧ words 0b001011_00111_111_10 0b00110_10100_00000_000011_0000_0001_000 (.fcmpLe 7 7 (.g 6) (.g 20) .bf16)
    ∧ words 0b001011_00101_001_10 0b01111_10001_00000_000100_0000_0010_000 (.fcmpUn 1 5 (.g 15) (.g 17) .f32)
    ∧ words 0b001011_00101_001_10 0b10101_00000_00000_001000_0000_0011_011 (.fcvt 1 (.g 5) (.g 21) .f64 .f16 .rdn)
    ∧ words 0b001011_01011_000_10 0b00001_00000_00000_001001_0000_0000_000 (.fclass 0 (.g 11) (.g 1) .f16) := by
  refine ⟨⟨rfl, rfl⟩, ⟨rfl, rfl⟩, ⟨rfl, rfl⟩, ⟨rfl, rfl⟩, ⟨rfl, rfl⟩, ⟨rfl, rfl⟩, ⟨rfl, rfl⟩⟩

theorem test_words_fma :
    words 0b001100_00100_111_10 0b11001_01010_01110_000000_0000_0001_001 (.fma 7 (.g 4) (.x 1) (.g 10) (.g 14) .bf16 .rtz)
    ∧ words 0b001100_10110_000_10 0b10010_10101_10011_000001_0000_0011_010 (.fmaNa 0 (.g 22) (.g 18) (.g 21) (.g 19) .f64 .rup)
    ∧ words 0b001100_01110_100_10 0b01001_10111_01110_000010_0000_0001_001 (.fmaNc 4 (.g 14) (.g 9) (.g 23) (.g 14) .bf16 .rtz)
    ∧ words 0b001100_00110_010_10 0b10100_01101_01000_000011_0000_0000_011 (.fmaNaNc 2 (.g 6) (.g 20) (.g 13) (.g 8) .f16 .rdn) := by
  refine ⟨⟨rfl, rfl⟩, ⟨rfl, rfl⟩, ⟨rfl, rfl⟩, ⟨rfl, rfl⟩⟩

theorem test_words_move_system :
    words 0b001101_10101_000_01 0b00101_00000_000000 (.mov 0 (.g 21) (.g 5))
    ∧ words 0b001101_00001_000_01 0b11101_00000_000001 (.movF 0 (.g 1) .le)
    ∧ words 0b001101_00010_001_10 0b00000_00000_00000_000010_000_01111001 (.mfs 1 (.g 2) 121)
    ∧ words 0b001101_00000_111_10 0b11101_00000_00000_000011_000_11110001 (.mts 7 .le 241)
    ∧ words 0b001101_00000_000_10 0b00111_00000_00000_000011_000_10000000 (.pwdogWrite 0 (.g 7))
    ∧ words 0b001101_00000_000_10 0b01100_00000_00000_000011_000_10000001 (.bootcntWrite 0 (.g 12)) := by
  refine ⟨⟨rfl, rfl⟩, ⟨rfl, rfl⟩, ⟨rfl, rfl⟩, ⟨rfl, rfl⟩, ⟨rfl, rfl⟩, ⟨rfl, rfl⟩⟩

theorem test_words_br :
    words 0b010000_00000_000_10 0b00000_0001100010000110011111_10000 (.br 0 401823 16) := by
  exact ⟨rfl, rfl⟩

theorem test_words_jmp :
    words 0b010001_01110_110_00 0b0 (.jmp 6 (.g 14)) := by
  exact ⟨rfl, rfl⟩

theorem test_words_call :
    words 0b010010_10011_100_10 0b00000_0001101001001001011001_00010 (.call 4 (.g 19) 430681 2)
    ∧ words 0b010010_00100_011_01 0b10110_00000_000000 (.callReg 3 (.g 4) (.g 22)) := by
  refine ⟨⟨rfl, rfl⟩, ⟨rfl, rfl⟩⟩

theorem test_words_ret :
    words 0b010011_00110_110_00 0b0 (.ret 6 (.g 6)) := by
  exact ⟨rfl, rfl⟩

theorem test_words_loop :
    words 0b010100_00010_011_10 0b00000_1010000010110101111010_00110 (.loop 3 (.g 2) 2633082 6) := by
  exact ⟨rfl, rfl⟩

theorem test_words_trap :
    words 0b010101_00000_001_01 0b0101001011101001 (.trap 1 21225)
    ∧ words 0b010101_00001_001_00 0b0 (.eret 1) := by
  refine ⟨⟨rfl, rfl⟩, ⟨rfl, rfl⟩⟩

theorem test_words_load :
    words 0b011000_00000_011_10 0b10001_01111_00000_000000_11011000101 (.ldB 3 (.g 0) (.g 17) (.g 15) 1733)
    ∧ words 0b011000_10100_110_10 0b10111_11101_00000_000001_10011101011 (.ldH 6 (.g 20) (.g 23) .le 1259)
    ∧ words 0b011000_10001_111_10 0b00100_01111_00000_000010_00101100110 (.ldW 7 (.g 17) (.g 4) (.g 15) 358)
    ∧ words 0b011000_01010_100_10 0b00100_00010_00000_000011_11110001011 (.ldD 4 (.g 10) (.g 4) (.g 2) 1931)
    ∧ words 0b011000_00010_011_10 0b10010_00111_00000_000100_10001101001 (.ldsB 3 (.g 2) (.g 18) (.g 7) 1129)
    ∧ words 0b011000_10110_000_10 0b00001_00110_00000_000101_10010010011 (.ldsH 0 (.g 22) (.g 1) (.g 6) 1171)
    ∧ words 0b011000_00010_101_10 0b01010_10001_00000_000110_00000000000 (.ldsW 5 (.g 2) (.g 10) (.g 17) 0)
    ∧ words 0b011000_00100_100_10 0b00000_00100_00000_001000_00001001100 (.ldBS 4 (.g 4) (.g 0) (.g 4) 76)
    ∧ words 0b011000_01101_000_10 0b00011_10001_00000_001001_01000010101 (.ldHS 0 (.g 13) (.g 3) (.g 17) 533)
    ∧ words 0b011000_01001_101_10 0b00100_01111_00000_001010_10100101011 (.ldWS 5 (.g 9) (.g 4) (.g 15) 1323)
    ∧ words 0b011000_00010_100_10 0b10111_00000_00000_001011_00001110000 (.ldDS 4 (.g 2) (.g 23) (.g 0) 112)
    ∧ words 0b011000_00100_001_10 0b01101_10011_00000_001100_00001000100 (.ldsBS 1 (.g 4) (.g 13) (.g 19) 68)
    ∧ words 0b011000_01101_011_10 0b01011_01010_00000_001101_10110111011 (.ldsHS 3 (.g 13) (.g 11) (.g 10) 1467)
    ∧ words 0b011000_10010_000_10 0b00101_00011_00000_001110_10001001010 (.ldsWS 0 (.g 18) (.g 5) (.g 3) 1098) := by
  refine ⟨⟨rfl, rfl⟩, ⟨rfl, rfl⟩, ⟨rfl, rfl⟩, ⟨rfl, rfl⟩, ⟨rfl, rfl⟩, ⟨rfl, rfl⟩, ⟨rfl, rfl⟩, ⟨rfl, rfl⟩, ⟨rfl, rfl⟩, ⟨rfl, rfl⟩, ⟨rfl, rfl⟩, ⟨rfl, rfl⟩, ⟨rfl, rfl⟩, ⟨rfl, rfl⟩⟩

theorem test_words_store :
    words 0b011001_10110_010_10 0b01110_01101_00000_000000_00111100100 (.stB 2 (.g 22) (.g 14) (.g 13) 484)
    ∧ words 0b011001_01110_101_10 0b01110_01101_00000_000001_01010111110 (.stH 5 (.g 14) (.g 14) (.g 13) 702)
    ∧ words 0b011001_11000_111_10 0b00101_01111_00000_000010_11111011100 (.stW 7 (.x 0) (.g 5) (.g 15) 2012)
    ∧ words 0b011001_00100_000_10 0b10101_00110_00000_000011_00000000100 (.stD 0 (.g 4) (.g 21) (.g 6) 4)
    ∧ words 0b011001_00111_000_10 0b10110_01100_00000_001000_11101101101 (.stBS 0 (.g 7) (.g 22) (.g 12) 1901)
    ∧ words 0b011001_01000_011_10 0b01001_10000_00000_001001_10110110110 (.stHS 3 (.g 8) (.g 9) (.g 16) 1462)
    ∧ words 0b011001_01011_011_10 0b11010_00001_00000_001010_11111101000 (.stWS 3 (.g 11) (.x 2) (.g 1) 2024)
    ∧ words 0b011001_00100_110_10 0b11010_01111_00000_001011_11000011010 (.stDS 6 (.g 4) (.x 2) (.g 15) 1562) := by
  refine ⟨⟨rfl, rfl⟩, ⟨rfl, rfl⟩, ⟨rfl, rfl⟩, ⟨rfl, rfl⟩, ⟨rfl, rfl⟩, ⟨rfl, rfl⟩, ⟨rfl, rfl⟩, ⟨rfl, rfl⟩⟩

theorem test_words_vload :
    words 0b011010_00001_000_10 0b01100_11000_00000_000000_0_1_01_1011_000 (.vld 0 1 (.g 12) (.x 0) .n64 (some 1))
    ∧ words 0b011010_00111_101_10 0b01111_10011_00000_000001_0_0_00_0001_000 (.vldS 5 7 (.g 15) (.g 19) .bf16 none)
    ∧ words 0b011010_00000_110_10 0b10000_00010_00000_000010_0_0_00_0110_000 (.vgather 6 0 (.g 16) 2 .i32 none) := by
  refine ⟨⟨rfl, rfl⟩, ⟨rfl, rfl⟩, ⟨rfl, rfl⟩⟩

theorem test_words_vstore :
    words 0b011011_00000_101_10 0b01001_01100_00000_000000_0_1_11_1000_000 (.vst 5 0 (.g 9) (.g 12) .n8 (some 3))
    ∧ words 0b011011_00000_111_10 0b00100_00110_00000_000010_0_0_00_0101_000 (.vscatter 7 0 (.g 4) 6 .i16 none) := by
  refine ⟨⟨rfl, rfl⟩, ⟨rfl, rfl⟩⟩

theorem test_words_sync :
    words 0b011100_01001_011_10 0b00000_00000_00000_000000_00101100101 (.ldsync 3 (.g 9) (.g 0) 357)
    ∧ words 0b011100_10010_101_10 0b01101_00000_00000_000001_10011101000 (.ldsyncKeep 5 (.g 18) (.g 13) 1256)
    ∧ words 0b011100_10110_000_10 0b00010_00000_00000_000010_00010011010 (.stsync 0 (.g 22) (.g 2) 154)
    ∧ words 0b011100_01001_001_10 0b10110_00000_00000_000011_01101010111 (.stfill 1 (.g 9) (.g 22) 855)
    ∧ words 0b011100_00000_111_10 0b00010_00000_00000_000100_00111101111 (.feset 7 (.g 2) 495)
    ∧ words 0b011100_00000_011_10 0b10001_00000_00000_000101_11011000110 (.feclr 3 (.g 17) 1734)
    ∧ words 0b011100_10101_110_10 0b01100_00000_00000_000110_01011011001 (.feread 6 (.g 21) (.g 12) 729) := by
  refine ⟨⟨rfl, rfl⟩, ⟨rfl, rfl⟩, ⟨rfl, rfl⟩, ⟨rfl, rfl⟩, ⟨rfl, rfl⟩, ⟨rfl, rfl⟩, ⟨rfl, rfl⟩⟩

theorem test_words_amo :
    words 0b011101_10011_011_10 0b01100_00011_00000_000000_01_00_1010_000 (.amoAdd 3 (.g 19) (.g 12) (.g 3) .n32 .acq .core)
    ∧ words 0b011101_01001_011_10 0b10011_11100_00000_000001_00_11_0111_000 (.amoAnd 3 (.g 9) (.g 19) .lw .i64 .rlx .sys)
    ∧ words 0b011101_10100_010_10 0b10010_10100_00000_000010_11_01_1011_000 (.amoOr 2 (.g 20) (.g 18) (.g 20) .n64 .ar .die)
    ∧ words 0b011101_10000_110_10 0b00111_01101_00000_000011_00_10_1010_000 (.amoXor 6 (.g 16) (.g 7) (.g 13) .n32 .rlx .fab)
    ∧ words 0b011101_00000_010_10 0b00011_10010_00000_000100_11_01_0111_000 (.amoMin 2 (.g 0) (.g 3) (.g 18) .i64 .ar .die)
    ∧ words 0b011101_00011_101_10 0b10110_10111_00000_000101_00_11_0110_000 (.amoMax 5 (.g 3) (.g 22) (.g 23) .i32 .rlx .sys)
    ∧ words 0b011101_00010_010_10 0b00110_10100_00000_000110_01_11_1011_000 (.amoSwap 2 (.g 2) (.g 6) (.g 20) .n64 .acq .sys)
    ∧ words 0b011101_00110_001_10 0b00101_00010_00100_000111_00_11_1010_000 (.amoCas 1 (.g 6) (.g 5) (.g 2) (.g 4) .n32 .rlx .sys) := by
  refine ⟨⟨rfl, rfl⟩, ⟨rfl, rfl⟩, ⟨rfl, rfl⟩, ⟨rfl, rfl⟩, ⟨rfl, rfl⟩, ⟨rfl, rfl⟩, ⟨rfl, rfl⟩, ⟨rfl, rfl⟩⟩

theorem test_words_fence_maint :
    words 0b011110_00000_101_10 0b00000_00000_00000_000000_01_00_0000000 (.fence 5 .acq .core)
    ∧ words 0b011110_11010_101_10 0b00110_00000_00000_000001_00000000000 (.plbload 5 (.x 2) (.g 6))
    ∧ words 0b011110_00000_011_10 0b00000_01110_00000_000010_000000000_1_1 (.plbinval 3 none (some (.g 14)))
    ∧ words 0b011110_00000_001_10 0b01100_01110_00000_000011_00000000000 (.scflush 1 (.g 12) (.g 14))
    ∧ words 0b011110_00000_110_10 0b00011_00000_00000_000100_00000000000 (.scinval 6 (.g 3)) := by
  refine ⟨⟨rfl, rfl⟩, ⟨rfl, rfl⟩, ⟨rfl, rfl⟩, ⟨rfl, rfl⟩, ⟨rfl, rfl⟩⟩

theorem test_words_prefetch :
    words 0b011111_00000_101_01 0b10101_00000_000000 (.prefetch 5 (.g 21))
    ∧ words 0b011111_00000_000_01 0b01100_00000_000001 (.prefetchW 0 (.g 12)) := by
  refine ⟨⟨rfl, rfl⟩, ⟨rfl, rfl⟩⟩

theorem test_words_vint_1 :
    words 0b100000_00001_101_10 0b00111_00100_00000_000000_0_1_10_0100_000 (.vaddInt 5 1 7 4 .i8 false (some 2))
    ∧ words 0b100000_00101_011_10 0b00110_00010_00000_000001_1_0_00_1000_000 (.vsubInt 3 5 6 2 .n8 true none)
    ∧ words 0b100000_00100_001_10 0b00110_00101_00000_000010_1_0_00_0101_000 (.vmulInt 1 4 6 5 .i16 true none)
    ∧ words 0b100000_00110_011_10 0b00011_00100_00000_000011_0_0_00_0101_000 (.vminInt 3 6 3 4 .i16 none)
    ∧ words 0b100000_00001_100_10 0b00111_00110_00000_000100_0_1_01_0110_000 (.vmaxInt 4 1 7 6 .i32 (some 1))
    ∧ words 0b100000_00111_001_10 0b00101_00000_00000_000101_0_0_00_0110_000 (.vabsInt 1 7 5 .i32 false none)
    ∧ words 0b100000_00101_010_10 0b00000_00000_00000_000110_1_1_11_0100_000 (.vnegInt 2 5 0 .i8 true (some 3))
    ∧ words 0b100000_00000_001_10 0b00011_00011_00000_000111_0_1_00_1011_000 (.vshl 1 0 3 3 .n64 false (some 0))
    ∧ words 0b100000_00111_100_10 0b00000_00000_00000_001000_0_1_11_0110_000 (.vshr 4 7 0 0 .i32 (some 3))
    ∧ words 0b100000_00011_000_10 0b00000_00110_00000_001001_0_1_11_1010_000 (.vsar 0 3 0 6 .n32 (some 3))
    ∧ words 0b100000_00010_000_10 0b00100_00110_00000_001010_0_0_00_1010_000 (.vrand 0 2 (.g 4) (.g 6) .n32 none)
    ∧ words 0b100000_00011_101_10 0b00110_00110_00000_100000_0_1_10_1000_000 (.vaddIntScalar 5 3 6 (.g 6) .n8 false (some 2))
    ∧ words 0b100000_00000_100_10 0b00001_11000_00000_100001_0_0_00_1011_000 (.vsubIntScalar 4 0 1 (.x 0) .n64 false none)
    ∧ words 0b100000_00000_110_10 0b00110_00110_00000_100010_1_1_11_0100_000 (.vmulIntScalar 6 0 6 (.g 6) .i8 true (some 3)) := by
  refine ⟨⟨rfl, rfl⟩, ⟨rfl, rfl⟩, ⟨rfl, rfl⟩, ⟨rfl, rfl⟩, ⟨rfl, rfl⟩, ⟨rfl, rfl⟩, ⟨rfl, rfl⟩, ⟨rfl, rfl⟩, ⟨rfl, rfl⟩, ⟨rfl, rfl⟩, ⟨rfl, rfl⟩, ⟨rfl, rfl⟩, ⟨rfl, rfl⟩, ⟨rfl, rfl⟩⟩

theorem test_words_vint_2 :
    words 0b100000_00111_010_10 0b00011_11101_00000_100011_0_0_00_1001_000 (.vminIntScalar 2 7 3 .le .n16 none)
    ∧ words 0b100000_00010_000_10 0b00110_01000_00000_100100_0_1_10_0110_000 (.vmaxIntScalar 0 2 6 (.g 8) .i32 (some 2))
    ∧ words 0b100000_00010_011_10 0b00100_10110_00000_100111_1_0_00_0101_000 (.vshlScalar 3 2 4 (.g 22) .i16 true none)
    ∧ words 0b100000_00110_001_10 0b00101_01011_00000_101000_0_1_01_1011_000 (.vshrScalar 1 6 5 (.g 11) .n64 (some 1))
    ∧ words 0b100000_00100_010_10 0b00000_00000_00000_101001_0_0_00_1010_000 (.vsarScalar 2 4 0 (.g 0) .n32 none) := by
  refine ⟨⟨rfl, rfl⟩, ⟨rfl, rfl⟩, ⟨rfl, rfl⟩, ⟨rfl, rfl⟩, ⟨rfl, rfl⟩⟩

theorem test_words_vfp :
    words 0b100001_00111_011_10 0b00000_00000_00000_000000_0_1_01_0000_001 (.vaddFp 3 7 0 0 .f16 .rtz (some 1))
    ∧ words 0b100001_00100_011_10 0b00000_00011_00000_000001_0_1_00_0000_011 (.vsubFp 3 4 0 3 .f16 .rdn (some 0))
    ∧ words 0b100001_00111_100_10 0b00111_00001_00000_000010_0_1_11_0000_010 (.vmulFp 4 7 7 1 .f16 .rup (some 3))
    ∧ words 0b100001_00100_110_10 0b00010_00001_00000_000011_0_0_00_0011_000 (.vminFp 6 4 2 1 .f64 none)
    ∧ words 0b100001_00110_011_10 0b00001_00100_00000_000100_0_1_01_0010_000 (.vmaxFp 3 6 1 4 .f32 (some 1))
    ∧ words 0b100001_00101_111_10 0b00001_00000_00000_000101_0_0_00_0011_000 (.vabsFp 7 5 1 .f64 none)
    ∧ words 0b100001_00111_011_10 0b00000_00000_00000_000110_0_0_00_0000_000 (.vnegFp 3 7 0 .f16 none)
    ∧ words 0b100001_00101_001_10 0b00010_01010_00000_100000_0_1_01_0010_010 (.vaddFpScalar 1 5 2 (.g 10) .f32 .rup (some 1))
    ∧ words 0b100001_00100_001_10 0b00100_10100_00000_100001_0_0_00_0010_011 (.vsubFpScalar 1 4 4 (.g 20) .f32 .rdn none)
    ∧ words 0b100001_00100_011_10 0b00111_10011_00000_100010_0_0_00_0001_100 (.vmulFpScalar 3 4 7 (.g 19) .bf16 .dyn none)
    ∧ words 0b100001_00001_101_10 0b00000_00001_00000_100011_0_0_00_0011_000 (.vminFpScalar 5 1 0 (.g 1) .f64 none)
    ∧ words 0b100001_00110_000_10 0b00001_10111_00000_100100_0_0_00_0011_000 (.vmaxFpScalar 0 6 1 (.g 23) .f64 none) := by
  refine ⟨⟨rfl, rfl⟩, ⟨rfl, rfl⟩, ⟨rfl, rfl⟩, ⟨rfl, rfl⟩, ⟨rfl, rfl⟩, ⟨rfl, rfl⟩, ⟨rfl, rfl⟩, ⟨rfl, rfl⟩, ⟨rfl, rfl⟩, ⟨rfl, rfl⟩, ⟨rfl, rfl⟩, ⟨rfl, rfl⟩⟩

theorem test_words_vfma :
    words 0b100010_00001_001_10 0b00001_00000_00001_000000_0_0_00_0011_010 (.vfma 1 1 1 0 1 .f64 .rup none)
    ∧ words 0b100010_00001_100_10 0b00110_00100_00100_000001_0_1_00_0011_010 (.vfmaNa 4 1 6 4 4 .f64 .rup (some 0))
    ∧ words 0b100010_00111_101_10 0b00111_00110_00010_000010_0_1_01_0001_010 (.vfmaNc 5 7 7 6 2 .bf16 .rup (some 1))
    ∧ words 0b100010_00001_111_10 0b00010_00101_00001_000011_0_1_01_0011_011 (.vfmaNaNc 7 1 2 5 1 .f64 .rdn (some 1)) := by
  refine ⟨⟨rfl, rfl⟩, ⟨rfl, rfl⟩, ⟨rfl, rfl⟩, ⟨rfl, rfl⟩⟩

theorem test_words_vcmp_1 :
    words 0b100011_00001_011_10 0b00111_00010_00000_000000_0_1_10_1010_000 (.vcmpEq 3 1 7 2 .n32 (some 2))
    ∧ words 0b100011_00001_000_10 0b00110_00100_00000_000001_0_1_01_1001_000 (.vcmpNe 0 1 6 4 .n16 (some 1))
    ∧ words 0b100011_00001_011_10 0b00110_00100_00000_000010_0_1_00_0101_000 (.vcmpLt 3 1 6 4 .i16 (some 0))
    ∧ words 0b100011_00010_011_10 0b00110_00101_00000_000011_0_1_11_1000_000 (.vcmpLe 3 2 6 5 .n8 (some 3))
    ∧ words 0b100011_00000_001_10 0b00001_00101_00000_000100_0_0_00_0001_000 (.vcmpGt 1 0 1 5 .bf16 none)
    ∧ words 0b100011_00001_100_10 0b00000_00110_00000_000101_0_1_10_0010_000 (.vcmpGe 4 1 0 6 .f32 (some 2))
    ∧ words 0b100011_00011_001_10 0b00101_00001_00000_000110_0_0_00_0010_000 (.vcmpUn 1 3 5 1 .f32 none)
    ∧ words 0b100011_00010_100_10 0b00110_00010_00000_100000_0_1_00_0001_000 (.vcmpEqScalar 4 2 6 (.g 2) .bf16 (some 0))
    ∧ words 0b100011_00000_010_10 0b00001_10000_00000_100001_0_0_00_0110_000 (.vcmpNeScalar 2 0 1 (.g 16) .i32 none)
    ∧ words 0b100011_00011_111_10 0b00001_01101_00000_100010_0_1_00_0000_000 (.vcmpLtScalar 7 3 1 (.g 13) .f16 (some 0))
    ∧ words 0b100011_00010_101_10 0b00001_01100_00000_100011_0_0_00_0001_000 (.vcmpLeScalar 5 2 1 (.g 12) .bf16 none)
    ∧ words 0b100011_00000_011_10 0b00001_10100_00000_100100_0_1_11_1010_000 (.vcmpGtScalar 3 0 1 (.g 20) .n32 (some 3))
    ∧ words 0b100011_00010_001_10 0b00100_01110_00000_100101_0_0_00_0110_000 (.vcmpGeScalar 1 2 4 (.g 14) .i32 none)
    ∧ words 0b100011_00001_011_10 0b00110_10100_00000_100110_0_0_00_0001_000 (.vcmpUnScalar 3 1 6 (.g 20) .bf16 none) := by
  refine ⟨⟨rfl, rfl⟩, ⟨rfl, rfl⟩, ⟨rfl, rfl⟩, ⟨rfl, rfl⟩, ⟨rfl, rfl⟩, ⟨rfl, rfl⟩, ⟨rfl, rfl⟩, ⟨rfl, rfl⟩, ⟨rfl, rfl⟩, ⟨rfl, rfl⟩, ⟨rfl, rfl⟩, ⟨rfl, rfl⟩, ⟨rfl, rfl⟩, ⟨rfl, rfl⟩⟩

theorem test_words_vcmp_2 :
    words 0b100011_00001_101_10 0b00010_00100_00000_001000_0_1_11_0000_000 (.vsel 5 1 2 4 .f16 3) := by
  exact ⟨rfl, rfl⟩

theorem test_words_vcross :
    words 0b100100_00111_100_10 0b00100_00000_00101_000000_0_1_11_1011_000 (.vcompress 4 7 4 (.g 5) .n64 (some 3))
    ∧ words 0b100100_00110_111_10 0b00001_00000_00000_000001_0_0_00_0010_000 (.vexpand 7 6 1 .f32 none)
    ∧ words 0b100100_00001_111_10 0b00111_00011_00000_000010_0_0_00_0010_000 (.vperm 7 1 7 3 .f32 none)
    ∧ words 0b100100_00001_010_10 0b01110_00000_00000_000011_0_1_01_0100_000 (.vbcast 2 1 (.g 14) .i8 (some 1)) := by
  refine ⟨⟨rfl, rfl⟩, ⟨rfl, rfl⟩, ⟨rfl, rfl⟩, ⟨rfl, rfl⟩⟩

theorem test_words_vreduce :
    words 0b100101_01001_111_10 0b00100_00000_00000_000000_1_0_00_1010_000 (.vredAdd 7 (.g 9) 4 .n32 true .rne none)
    ∧ words 0b100101_11000_001_10 0b00000_00000_00000_000001_0_1_11_0101_000 (.vredMax 1 (.x 0) 0 .i16 (some 3))
    ∧ words 0b100101_01010_100_10 0b00000_00000_00000_000010_0_0_00_0100_000 (.vredMin 4 (.g 10) 0 .i8 none)
    ∧ words 0b100101_01101_110_10 0b00101_00000_01001_000011_0_0_00_1010_000 (.vredmaxIdx 6 (.g 13) 5 (.g 9) .n32 none)
    ∧ words 0b100101_01111_000_10 0b00010_00000_01101_000100_0_1_11_1010_000 (.vredminIdx 0 (.g 15) 2 (.g 13) .n32 (some 3))
    ∧ words 0b100101_00101_111_10 0b00101_00000_00000_000101_0_0_00_1011_000 (.vscanAdd 7 5 5 .n64 false .rne none) := by
  refine ⟨⟨rfl, rfl⟩, ⟨rfl, rfl⟩, ⟨rfl, rfl⟩, ⟨rfl, rfl⟩, ⟨rfl, rfl⟩, ⟨rfl, rfl⟩⟩

theorem test_words_vcvt :
    words 0b100110_00000_111_10 0b00111_00001_00000_000000_0101_0111_000 (.vcvt 7 0 7 1 .i64 .i16 .rne) := by
  exact ⟨rfl, rfl⟩

theorem test_words_sfu :
    words 0b100111_00111_000_10 0b00001_00000_00000_000000_0_0_00_0010_001 (.vlog2 0 7 1 .rtz none)
    ∧ words 0b100111_00110_011_10 0b00001_00000_00000_000001_0_0_00_0010_011 (.vexp2 3 6 1 .rdn none)
    ∧ words 0b100111_00000_100_10 0b00011_00000_00000_000010_0_0_00_0010_100 (.vrcp 4 0 3 .dyn none)
    ∧ words 0b100111_00110_101_10 0b00100_00000_00000_000011_0_1_11_0010_000 (.vrsqrt 5 6 4 .rne (some 3))
    ∧ words 0b100111_00100_000_10 0b00000_00000_00000_000100_0_0_00_0010_011 (.vsqrt 0 4 0 .rdn none)
    ∧ words 0b100111_00000_111_10 0b00011_00000_00000_000101_0_0_00_0010_000 (.vsin 7 0 3 .rne none)
    ∧ words 0b100111_00111_111_10 0b00111_00000_00000_000110_0_0_00_0010_010 (.vcos 7 7 7 .rup none) := by
  refine ⟨⟨rfl, rfl⟩, ⟨rfl, rfl⟩, ⟨rfl, rfl⟩, ⟨rfl, rfl⟩, ⟨rfl, rfl⟩, ⟨rfl, rfl⟩, ⟨rfl, rfl⟩⟩

theorem test_words_vdiv :
    words 0b101000_00111_000_10 0b00011_00000_00000_000000_0_1_01_1010_000 (.vdiv 0 7 3 0 .n32 .rne (some 1))
    ∧ words 0b101000_00101_001_10 0b00011_00001_00000_000001_0_0_00_1001_000 (.vrem 1 5 3 1 .n16 none)
    ∧ words 0b101000_00011_010_10 0b00110_00001_00000_100000_0_0_00_0110_000 (.vdivScalar 2 3 6 (.g 1) .i32 .rne none)
    ∧ words 0b101000_00011_100_10 0b00110_00101_00000_100001_0_1_01_0101_000 (.vremScalar 4 3 6 (.g 5) .i16 (some 1)) := by
  refine ⟨⟨rfl, rfl⟩, ⟨rfl, rfl⟩, ⟨rfl, rfl⟩, ⟨rfl, rfl⟩⟩

theorem test_words_stream :
    words 0b101001_00101_011_10 0b01110_01101_01000_000000_00000000000 (.sbind 3 1 (.g 14) (.g 13) (.g 8))
    ∧ words 0b101001_00101_111_10 0b00000_00000_00000_000001_00000000000 (.sunbind 7 1)
    ∧ words 0b101001_11011_100_10 0b00101_00000_00000_000010_00000000000 (.stest 4 (.x 3) 1) := by
  refine ⟨⟨rfl, rfl⟩, ⟨rfl, rfl⟩, ⟨rfl, rfl⟩⟩

theorem test_words_vmove :
    words 0b101010_10101_110_10 0b00111_00110_00000_000000_0_0_00_0011_000 (.vmovg 6 (.g 21) 7 (.g 6) .f64)
    ∧ words 0b101010_00100_101_10 0b10101_00110_00000_000001_0_0_00_1000_000 (.gmovv 5 4 (.g 21) (.g 6) .n8) := by
  refine ⟨⟨rfl, rfl⟩, ⟨rfl, rfl⟩⟩

theorem test_words_vlogic :
    words 0b101011_00101_010_10 0b00001_00110_00000_000000_0_0_00_0101_000 (.vand 2 5 1 6 .i16 none)
    ∧ words 0b101011_00010_100_10 0b00000_00010_00000_000001_0_1_00_1011_000 (.vor 4 2 0 2 .n64 (some 0))
    ∧ words 0b101011_00111_000_10 0b00101_00001_00000_000010_0_0_00_0111_000 (.vxor 0 7 5 1 .i64 none)
    ∧ words 0b101011_00000_101_10 0b00000_00000_00000_000011_0_1_11_1011_000 (.vnot 5 0 0 .n64 (some 3))
    ∧ words 0b101011_00111_100_10 0b00101_10001_00000_100000_0_0_00_0110_000 (.vandScalar 4 7 5 (.g 17) .i32 none)
    ∧ words 0b101011_00110_110_10 0b00111_00111_00000_100001_0_1_00_0111_000 (.vorScalar 6 6 7 (.g 7) .i64 (some 0))
    ∧ words 0b101011_00111_001_10 0b00011_10101_00000_100010_0_1_00_1010_000 (.vxorScalar 1 7 3 (.g 21) .n32 (some 0)) := by
  refine ⟨⟨rfl, rfl⟩, ⟨rfl, rfl⟩, ⟨rfl, rfl⟩, ⟨rfl, rfl⟩, ⟨rfl, rfl⟩, ⟨rfl, rfl⟩, ⟨rfl, rfl⟩⟩

theorem test_words_threads :
    words 0b110000_01010_001_10 0b00101_01011_00000_000000_000_0_1_00_0010 (.fork 1 (.g 10) (.g 5) (.g 11) false true 0 2)
    ∧ words 0b110000_00000_001_10 0b01111_00000_00000_000001_00000000000 (.join 1 (.g 15))
    ∧ words 0b110000_01110_111_10 0b00100_01000_00000_000010_00000000000 (.spawn 7 (.g 14) (.g 4) (.g 8))
    ∧ words 0b110000_00000_111_10 0b00000_00000_00000_000011_00000000000 (.halt 7)
    ∧ words 0b110000_10000_001_10 0b00000_00000_00000_000100_00000000000 (.yield 1 (.g 16))
    ∧ words 0b110000_00000_011_10 0b00000_00000_00000_000101_0000000000_1 (.lend 3 true)
    ∧ words 0b110000_01001_001_10 0b00000_00000_00000_000110_0000000000_0 (.pin 1 (.g 9) false) := by
  refine ⟨⟨rfl, rfl⟩, ⟨rfl, rfl⟩, ⟨rfl, rfl⟩, ⟨rfl, rfl⟩, ⟨rfl, rfl⟩, ⟨rfl, rfl⟩, ⟨rfl, rfl⟩⟩

theorem test_words_callat :
    words 0b110001_01101_110_10 0b00101_10100_00000_000000_00000000000 (.callat 6 (.g 13) (.g 5) (.g 20))
    ∧ words 0b110001_00000_110_10 0b01010_00000_00000_000001_00000000000 (.retm 6 (.g 10)) := by
  refine ⟨⟨rfl, rfl⟩, ⟨rfl, rfl⟩⟩

theorem test_words_message :
    words 0b110010_00000_011_10 0b10101_01110_00000_000000_000_10100110 (.msend 3 (.g 21) (.g 14) 166)
    ∧ words 0b110010_01010_001_10 0b00000_00000_10101_000001_00000000000 (.mrecv 1 (.g 10) (.g 21))
    ∧ words 0b110010_00001_111_10 0b00000_00000_00000_000010_00000000000 (.mwait 7 (.g 1))
    ∧ words 0b110010_01001_011_10 0b00000_00000_01110_000011_00000000_101 (.mtry 3 (.g 9) (.g 14) 5) := by
  refine ⟨⟨rfl, rfl⟩, ⟨rfl, rfl⟩, ⟨rfl, rfl⟩, ⟨rfl, rfl⟩⟩

theorem test_words_semaphore :
    words 0b110011_00000_001_10 0b10010_00000_00000_000000_000_11100111 (.ksig 1 (.g 18) 231)
    ∧ words 0b110011_00000_110_10 0b00110_00000_00000_000001_000_11001111 (.ksub 6 (.g 6) 207)
    ∧ words 0b110011_00000_110_10 0b00100_00000_00000_000010_000_00100000 (.kwait 6 (.g 4) 32)
    ∧ words 0b110011_00000_111_10 0b00001_00000_00000_000011_000_10011100 (.kset 7 (.g 1) 156)
    ∧ words 0b110011_10011_101_10 0b00000_00000_00000_000100_000_00110111 (.kread 5 (.g 19) 55) := by
  refine ⟨⟨rfl, rfl⟩, ⟨rfl, rfl⟩, ⟨rfl, rfl⟩, ⟨rfl, rfl⟩, ⟨rfl, rfl⟩⟩

theorem test_words_threshold :
    words 0b110100_01110_010_10 0b10111_00001_00000_000000_000_00110111 (.ttarm 2 (.g 14) (.g 23) (.g 1) 55)
    ∧ words 0b110100_11101_000_10 0b01001_00000_00000_000001_00000000000 (.ttcancel 0 .le (.g 9)) := by
  refine ⟨⟨rfl, rfl⟩, ⟨rfl, rfl⟩⟩

theorem test_words_queue_port :
    words 0b110101_11010_100_10 0b00000_00000_00000_000000_00000_01_0111 (.qbind 4 2 (.read 7))
    ∧ words 0b110101_01110_000_10 0b00000_00000_00000_000001_0000000_1001 (.qstat 0 (.g 14) 9) := by
  refine ⟨⟨rfl, rfl⟩, ⟨rfl, rfl⟩⟩

theorem test_words_roam :
    words 0b110110_00000_010_10 0b01010_00000_00000_000000_00000000000 (.roam 2 (.g 10)) := by
  exact ⟨rfl, rfl⟩

theorem test_words_mma :
    words 0b111000_10011_110_11 0b00111011_11101100_11100110_0111_000000_00001_01011_01010_0000000_0_0_1_1_1011 (.mma 6 (.g 19) (.g 1) (.g 11) (.g 10) false false true true 11 ⟨59, 236, 230, 7⟩) := by
  exact ⟨rfl, rfl⟩

theorem test_words_acc :
    words 0b111001_00100_100_11 0b00000000_00000000_00000000_0000_000000_10111_00000_01110_0000000_1_000_1000 (.accld 4 (.g 4) (.g 23) (.g 14) true 8 ⟨0, 0, 0, 0⟩)
    ∧ words 0b111001_01000_110_11 0b00000000_00000000_00000000_0000_000001_10011_01101_10000_0000000_1_0_10_1100 (.accst 6 (.g 8) (.g 19) (.g 13) (.g 16) true false 2 12 ⟨0, 0, 0, 0⟩)
    ∧ words 0b111001_10110_110_11 0b00110010_11001000_10110001_0110_000010_00000_00000_10010_0000000_0_000_0011 (.acczero 6 (.g 22) (.g 18) false 3 ⟨50, 200, 177, 6⟩) := by
  refine ⟨⟨rfl, rfl⟩, ⟨rfl, rfl⟩, ⟨rfl, rfl⟩⟩

theorem test_words_mpack :
    words 0b111010_00001_010_11 0b00000000_00000000_00000000_0000_000000_01111_01000_00000_0000000_1_0000000 (.mpack 2 (.g 1) (.g 15) (.g 8) true ⟨0, 0, 0, 0⟩)
    ∧ words 0b111010_00111_101_11 0b00000000_00000000_00111101_0010_000001_01110_00001_00000_0000000_0_0000000 (.munpack 5 (.g 7) (.g 14) (.g 1) false ⟨0, 0, 61, 2⟩) := by
  refine ⟨⟨rfl, rfl⟩, ⟨rfl, rfl⟩⟩

theorem test_words_me_wait :
    words 0b111011_10100_011_01 0b11000_00000_000000 (.mwaitj 3 (.g 20) (.x 0))
    ∧ words 0b111011_01000_101_01 0b00101_00000_000001 (.mpoll 5 (.g 8) (.g 5))
    ∧ words 0b111011_00000_100_01 0b00000_00000_000010 (.mwake 4) := by
  refine ⟨⟨rfl, rfl⟩, ⟨rfl, rfl⟩, ⟨rfl, rfl⟩⟩

theorem test_words_copy :
    words 0b111100_01100_100_11 0b00000000_00000000_00000000_0000_000000_00111_01111_11000_00000000_1_0000_01 (.cpy 4 (.g 12) (.g 7) (.g 15) (.x 0) true .d2 ⟨0, 0, 0, 0⟩)
    ∧ words 0b111100_10101_011_11 0b00000000_00000000_00000000_0000_000001_00011_01111_10110_01110110_0_0000_01 (.cpyMc 3 (.g 21) (.g 3) (.g 15) (.g 22) 118 false .d2 ⟨0, 0, 0, 0⟩)
    ∧ words 0b111100_01011_011_11 0b10001001_01011011_00000000_0000_000010_11110_01111_11010_00000000_0_1_11_0_01 (.cpyLb 3 (.g 11) .z (.g 15) (.x 2) false true 3 ⟨137, 91, 0, 0⟩)
    ∧ words 0b111100_00100_100_11 0b00000000_00000000_00000000_0000_000011_00000_10010_00111_00000000_1_0000_01 (.cpyRing 4 (.g 4) (.g 0) (.g 18) (.g 7) true .d2 ⟨0, 0, 0, 0⟩) := by
  refine ⟨⟨rfl, rfl⟩, ⟨rfl, rfl⟩, ⟨rfl, rfl⟩, ⟨rfl, rfl⟩⟩

theorem test_words_key_store :
    words 0b111101_00000_110_11 0b00000000_00000000_00000000_0000_000000_10100_00000_00000_0000000000_01101 (.ksproj 6 (.g 20) 13 ⟨0, 0, 0, 0⟩)
    ∧ words 0b111101_00000_001_11 0b10011100_00111001_00101000_1100_000001_10010_10110_10011_0000000000_11111 (.kstore 1 (.g 18) (.g 22) (.g 19) 31 ⟨156, 57, 40, 12⟩)
    ∧ words 0b111101_01110_010_11 0b00000000_00000000_00000000_0000_000010_10100_10101_10100_000000_1_10_0_11110 (.kgather 2 (.g 14) (.g 20) (.g 21) (.g 20) true 2 30 ⟨0, 0, 0, 0⟩)
    ∧ words 0b111101_00000_010_11 0b00000000_00000000_11000010_1011_000011_00000_00000_00000_000000000000000 (.kfence 2 ⟨0, 0, 194, 11⟩)
    ∧ words 0b111101_10011_100_11 0b01000100_10011100_01100011_0100_000100_00000_00000_00000_000000000000000 (.kstat 4 (.g 19) ⟨68, 156, 99, 4⟩)
    ∧ words 0b111101_00000_001_11 0b00001111_00101111_01010010_0100_000101_00000_00000_00000_0000000000_11111 (.kbuild 1 (.g 0) 31 ⟨15, 47, 82, 4⟩) := by
  refine ⟨⟨rfl, rfl⟩, ⟨rfl, rfl⟩, ⟨rfl, rfl⟩, ⟨rfl, rfl⟩, ⟨rfl, rfl⟩, ⟨rfl, rfl⟩⟩

theorem test_words_fabric :
    words 0b111110_01000_100_11 0b00111001_01011011_00000000_0000_000000_10100_00000_00000_000000000000000 (.rinv 4 (.g 8) (.g 20) ⟨57, 91, 0, 0⟩)
    ∧ words 0b111110_00111_000_11 0b00100010_01110010_11111000_1000_000001_01100_00000_00000_000000000000000 (.rinvT 0 (.g 7) (.g 12) ⟨34, 114, 248, 8⟩)
    ∧ words 0b111110_10101_010_11 0b00010110_11000110_10101001_0100_000010_01111_00001_00000_000000000000000 (.rinvCard 2 (.g 21) (.g 15) (.g 1) ⟨22, 198, 169, 4⟩)
    ∧ words 0b111110_01101_010_11 0b01110110_11101101_00000000_0000_000011_10011_00000_00000_00000000000_0101 (.lzcfg 2 (.g 13) (.g 19) 5 ⟨118, 237, 0, 0⟩)
    ∧ words 0b111110_01101_100_11 0b00000000_00000000_11110110_1101_000100_01111_00000_00000_000000000000000 (.lzres 4 (.g 13) (.g 15) ⟨0, 0, 246, 13⟩)
    ∧ words 0b111110_10100_111_11 0b00000000_00000000_00000000_0000_000101_00111_00000_00000_000000000000000 (.lzrel 7 (.g 20) (.g 7) ⟨0, 0, 0, 0⟩)
    ∧ words 0b111110_00011_010_11 0b00000000_00000000_00000000_0000_000110_10100_10001_00000_000000_0_00000111 (.lzcpy 2 (.g 3) (.g 20) (.g 17) (.g 0) false 7 ⟨0, 0, 0, 0⟩)
    ∧ words 0b111110_00000_001_11 0b00000000_00000000_10101101_0110_000111_01110_11110_00000_0000000000000_00 (.sigupd 1 (.g 14) .z .st ⟨0, 0, 173, 6⟩)
    ∧ words 0b111110_00000_011_11 0b00000100_00001101_00000000_0000_001000_01111_01111_00000_0000000000000_10 (.sigwait 3 (.g 15) (.g 15) .ne ⟨4, 13, 0, 0⟩) := by
  refine ⟨⟨rfl, rfl⟩, ⟨rfl, rfl⟩, ⟨rfl, rfl⟩, ⟨rfl, rfl⟩, ⟨rfl, rfl⟩, ⟨rfl, rfl⟩, ⟨rfl, rfl⟩, ⟨rfl, rfl⟩, ⟨rfl, rfl⟩⟩

theorem test_words_system :
    words 0b111111_00000_011_10 0b00000_00000_00000_000000_00000000000 (.migpt 3)
    ∧ words 0b111111_01000_011_10 0b01001_00000_00000_000001_0000000_0111 (.trig 3 (.g 8) (.g 9) 7)
    ∧ words 0b111111_10101_011_10 0b10010_00000_00000_000010_000000000_00 (.wakeGo 3 (.g 21) (.g 18))
    ∧ words 0b111111_00111_111_10 0b01101_00000_00000_000010_000000000_01 (.wakeHold 7 (.g 7) (.g 13))
    ∧ words 0b111111_01011_100_10 0b00000_00000_00000_000010_000000000_10 (.wakeDrop 4 (.g 11) (.g 0))
    ∧ words 0b111111_11001_101_10 0b00111_01001_00000_000011_00000000000 (.pair 5 (.x 1) (.g 7) (.g 9))
    ∧ words 0b111111_00000_011_10 0b00111_00000_00000_000100_00000000000 (.heelack 3 (.g 7))
    ∧ words 0b111111_10100_100_10 0b01111_00000_00000_000101_00000000000 (.eresume 4 (.g 20) (.g 15))
    ∧ words 0b111111_10001_100_10 0b10100_00000_00000_000110_00000000000 (.ekill 4 (.g 17) (.g 20)) := by
  refine ⟨⟨rfl, rfl⟩, ⟨rfl, rfl⟩, ⟨rfl, rfl⟩, ⟨rfl, rfl⟩, ⟨rfl, rfl⟩, ⟨rfl, rfl⟩, ⟨rfl, rfl⟩, ⟨rfl, rfl⟩, ⟨rfl, rfl⟩⟩

/-! ### Results, worked out by hand from the rules

`th` holds g0 = 5, g1 = 7, g2 = 3, g3 = -16, g4 = -2^63, g5 the address of a word of SRAM, g6 = 64. -/

/-- R103, R105, R108. -/
theorem test_alu_results :
    reg (.add 0 (.g 7) (.g 1) (.g 3)) 0xFFFFFFFFFFFFFFF7 ∧ reg (.sub 0 (.g 7) (.g 2) (.g 1)) 0xFFFFFFFFFFFFFFFC
    ∧ reg (.land 0 (.g 7) (.g 1) (.g 2)) 3 ∧ reg (.lor 0 (.g 7) (.g 1) (.g 6)) 0x47 ∧ reg (.lxor 0 (.g 7) (.g 1) (.g 2)) 4
    ∧ reg (.andn 0 (.g 7) (.g 1) (.g 2)) 4 ∧ reg (.shl 0 (.g 7) (.g 1) (.g 6)) 7 ∧ reg (.shr 0 (.g 7) (.g 3) (.g 2)) 0x1FFFFFFFFFFFFFFE
    ∧ reg (.sar 0 (.g 7) (.g 3) (.g 2)) 0xFFFFFFFFFFFFFFFE ∧ reg (.rol 0 (.g 7) (.g 4) (.g 2)) 4
    ∧ reg (.min 0 (.g 7) (.g 3) (.g 1)) 0xFFFFFFFFFFFFFFF0 ∧ reg (.max 0 (.g 7) (.g 3) (.g 1)) 7
    ∧ reg (.minu 0 (.g 7) (.g 3) (.g 1)) 7 ∧ reg (.maxu 0 (.g 7) (.g 3) (.g 1)) 0xFFFFFFFFFFFFFFF0
    ∧ reg (.sel 0 (.g 7) (.g 1) (.g 2) 0) 7 ∧ reg (.sel 0 (.g 7) (.g 1) (.g 2) 1) 3
    ∧ reg (.mul 0 (.g 7) (.g 1) (.g 3)) 0xFFFFFFFFFFFFFF90 ∧ reg (.mulh 0 (.g 7) (.g 1) (.g 3)) 0xFFFFFFFFFFFFFFFF
    ∧ reg (.mulhu 0 (.g 7) (.g 1) (.g 3)) 6 ∧ reg (.lea 0 (.g 7) (.g 1) (.g 2) 3 0x7FF) 30 := by decide +kernel

/-- R103, R104, R111, R112: saturation at the ends of the ranges, sign- and zero-extended immediates. -/
theorem test_immediate_results :
    reg (.addSat 0 (.g 7) (.g 4) (.g 3)) 0x8000000000000000 ∧ reg (.subSat 0 (.g 7) (.g 1) (.g 4)) 0x7FFFFFFFFFFFFFFF
    ∧ reg (.addSatu 0 (.g 7) (.g 3) (.g 6)) 0xFFFFFFFFFFFFFFFF ∧ reg (.subSatu 0 (.g 7) (.g 2) (.g 1)) 0
    ∧ reg (.addImm 0 (.g 7) (.g 1) 0x1FFFFF) 6 ∧ reg (.landImm 0 (.g 7) (.g 3) 0x100000) 0xFFFFFFFFFFF00000
    ∧ reg (.lorImm 0 (.g 7) (.g 1) 8) 15 ∧ reg (.lxorImm 0 (.g 7) (.g 1) 0x1FFFFF) 0xFFFFFFFFFFFFFFF8
    ∧ reg (.andnImm 0 (.g 7) (.g 1) 1) 6 ∧ reg (.minImm 0 (.g 7) (.g 1) 0x1FFFFF) 0xFFFFFFFFFFFFFFFF
    ∧ reg (.maxImm 0 (.g 7) (.g 3) 0x1FFFFF) 0xFFFFFFFFFFFFFFFF ∧ reg (.minuImm 0 (.g 7) (.g 3) 0x1FFFFF) 0x1FFFFF
    ∧ reg (.maxuImm 0 (.g 7) (.g 1) 0x1FFFFF) 0x1FFFFF ∧ reg (.addSatImm 0 (.g 7) (.g 4) 0x1FFFFF) 0x8000000000000000
    ∧ reg (.addSatuImm 0 (.g 7) (.g 3) 0x10) 0xFFFFFFFFFFFFFFFF ∧ reg (.shlImm 0 (.g 7) (.g 1) 63) 0x8000000000000000
    ∧ reg (.shrImm 0 (.g 7) (.g 4) 63) 1 ∧ reg (.sarImm 0 (.g 7) (.g 4) 63) 0xFFFFFFFFFFFFFFFF ∧ reg (.rolImm 0 (.g 7) (.g 4) 1) 1
    ∧ reg (.li 0 (.g 7) 0x8000) 0xFFFFFFFFFFFF8000 ∧ reg (.liI32 0 (.g 7) 0x80000000) 0xFFFFFFFF80000000
    ∧ reg (.liTe 0 (.g 7) 0x0123456789ABCDEF) 0x0123456789ABCDEF ∧ reg (.mov 0 (.g 7) (.g 3)) 0xFFFFFFFFFFFFFFF0 := by decide +kernel

/-- 03 R74's example: the clamped results set SAT, the wrapped one sets nothing. -/
theorem test_saturation_flag :
    let t : Thread := { th with g := ((th.g.set 1 0x7FFFFFFFFFFFFFF0).set 2 0x20).set 3 9 }
    after (.addSat 0 (.g 7) (.g 1) (.g 2)) (home t) (·.g[7]) = some 0x7FFFFFFFFFFFFFFF
    ∧ after (.addSat 0 (.g 7) (.g 1) (.g 2)) (home t) (·.fpctl) = some (Flags.word { sat := true })
    ∧ after (.subSatu 0 (.g 7) (.g 0) (.g 3)) (home t) (·.g[7]) = some 0
    ∧ after (.add 0 (.g 7) (.g 1) (.g 2)) (home t) (·.g[7]) = some 0x8000000000000010
    ∧ after (.add 0 (.g 7) (.g 1) (.g 2)) (home t) (·.fpctl) = some 0 := by decide +kernel

/-- R106, R107. -/
theorem test_bit_results :
    reg (.clz 0 (.g 7) (.g 1)) 61 ∧ reg (.clz 0 (.g 7) .z) 64 ∧ reg (.ctz 0 (.g 7) (.g 3)) 4 ∧ reg (.popc 0 (.g 7) (.g 3)) 60
    ∧ reg (.bswap 0 (.g 7) (.g 3)) 0xF0FFFFFFFFFFFFFF ∧ reg (.sextB 0 (.g 7) (.g 3)) 0xFFFFFFFFFFFFFFF0
    ∧ reg (.sextH 0 (.g 7) (.g 6)) 64 ∧ reg (.sextW 0 (.g 7) (.g 4)) 0 ∧ reg (.zextB 0 (.g 7) (.g 3)) 0xF0
    ∧ reg (.zextH 0 (.g 7) (.g 3)) 0xFFF0 ∧ reg (.zextW 0 (.g 7) (.g 3)) 0xFFFFFFF0
    ∧ reg (.bext 0 (.g 7) (.g 3) 2 4) 0x1C ∧ reg (.bext 0 (.g 7) (.g 4) 63 0) 1
    ∧ after (.bins 0 (.g 3) (.g 1) 0 3) (home th) (·.g[3]) = some 0xFFFFFFFFFFFFFFF7 := by decide +kernel

/-- R109, R110: `th` holds p0 only. -/
theorem test_predicate_results :
    prd (.cmpEq 0 3 (.g 1) (.g 1)) 9 ∧ prd (.cmpNe 0 3 (.g 1) (.g 1)) 1 ∧ prd (.cmpLt 0 3 (.g 3) (.g 1)) 9 ∧ prd (.cmpGe 0 3 (.g 3) (.g 1)) 1
    ∧ prd (.cmpLtu 0 3 (.g 3) (.g 1)) 1 ∧ prd (.cmpGeu 0 3 (.g 3) (.g 1)) 9 ∧ prd (.cmpGt 0 3 (.g 1) (.g 3)) 9
    ∧ prd (.cmpLe 0 3 (.g 1) (.g 1)) 9 ∧ prd (.cmpGtu 0 3 (.g 1) (.g 3)) 1 ∧ prd (.cmpLeu 0 3 (.g 1) (.g 3)) 9
    ∧ prd (.cmpTst 0 3 (.g 1) (.g 2)) 9 ∧ prd (.cmpNtst 0 3 (.g 1) (.g 6)) 9
    ∧ prd (.cmpEqImm 0 3 (.g 3) 0x1FFFF0) 9 ∧ prd (.cmpNeImm 0 3 (.g 3) 0x1FFFF0) 1 ∧ prd (.cmpLtImm 0 3 (.g 3) 0) 9
    ∧ prd (.cmpGeImm 0 3 (.g 1) 0x1FFFFF) 9 ∧ prd (.cmpLtuImm 0 3 (.g 1) 0x1FFFFF) 9 ∧ prd (.cmpGeuImm 0 3 (.g 3) 0x1FFFFF) 9
    ∧ prd (.cmpGtImm 0 3 (.g 1) 7) 1 ∧ prd (.cmpLeImm 0 3 (.g 1) 7) 9 ∧ prd (.cmpGtuImm 0 3 (.g 3) 0x1FFFFF) 9
    ∧ prd (.cmpLeuImm 0 3 (.g 3) 0x1FFFFF) 1 ∧ prd (.cmpTstImm 0 3 (.g 4) 0x100000) 9 ∧ prd (.cmpNtstImm 0 3 (.g 1) 8) 9
    ∧ prd (.pand 0 3 0 0) 9 ∧ prd (.por 0 3 1 2) 1 ∧ prd (.pxor 0 3 0 1) 9 ∧ prd (.pnot 0 3 1) 9 ∧ prd (.cmpEq 0 0 (.g 1) (.g 2)) 1 := by
  decide +kernel

/-- R95, R96: a division by zero gives all ones and the dividend; -2^63 / -1 is -2^63. The unit takes 4 cycles and a quarter of
the quotient's bits. -/
theorem test_division_results :
    let run := fun (i : Instr) (x y : Word) (n : Nat) => match exec i (home { th with g := (th.g.set 1 x).set 2 y }) with
      | .next s => after (.dividerComplete 512 0) (s.updCore 512 fun c => { c with cycle := n }) (·.g[7])
      | _ => none
    let d : Reg := .g 7
    run (.div 0 d (.g 1) (.g 2)) (-7) 2 5 = some (-3) ∧ run (.div 0 d (.g 1) (.g 2)) (-7) 2 4 = none
    ∧ run (.rem 0 d (.g 1) (.g 2)) (-7) 2 5 = some (-1) ∧ run (.div 0 d (.g 1) (.g 2)) 0x8000000000000000 (-1) 20 = some 0x8000000000000000
    ∧ run (.rem 0 d (.g 1) (.g 2)) 9 0 4 = some 9 ∧ run (.divu 0 d (.g 1) (.g 2)) 9 0 4 = some (-1)
    ∧ run (.remu 0 d (.g 1) (.g 2)) (-7) 2 20 = some 1 ∧ run (.divu 0 d (.g 1) (.g 2)) 7 2 5 = some 3 := by decide +kernel

/-- 04 R116's example, and R115-R118. -/
theorem test_float_results :
    let t : Thread := { th with g := (((((th.g.set 1 0x3F800000).set 2 0xFFFFFFFF33800000).set 3 0x40000000).set 4 0x7FC00000).set 6 0x40800000) }
    let f := fun (i : Instr) => after i (home t) (·.g[7])
    let up : Thread := { t with fpctl := 2 }
    let d : Reg := .g 7
    f (.fadd 0 d (.g 1) (.g 2) .f32 .dyn) = some 0x3F800000
    ∧ after (.fadd 0 d (.g 1) (.g 2) .f32 .dyn) (home t) (·.fpctl) = some (Flags.word { nx := true })
    ∧ after (.fadd 0 d (.g 1) (.g 2) .f32 .dyn) (home up) (·.g[7]) = some 0x3F800001
    ∧ f (.fsub 0 d (.g 1) (.g 3) .f32 .rne) = some 0xBF800000 ∧ f (.fmul 0 d (.g 3) (.g 6) .f32 .rne) = some 0x41000000
    ∧ f (.fdiv 0 d (.g 1) (.g 6) .f32 .rne) = some 0x3E800000 ∧ f (.fsqrt 0 d (.g 6) .f32 .rne) = some 0x40000000
    ∧ f (.fmin 0 d (.g 4) (.g 1) .f32) = some 0x3F800000 ∧ f (.fmax 0 d (.g 3) (.g 1) .f32) = some 0x40000000
    ∧ f (.fma 0 d (.g 3) (.g 6) (.g 1) .f32 .rne) = some 0x41100000 ∧ f (.fmaNa 0 d (.g 3) (.g 6) (.g 1) .f32 .rne) = some 0xC0E00000
    ∧ f (.fmaNc 0 d (.g 3) (.g 6) (.g 1) .f32 .rne) = some 0x40E00000 ∧ f (.fmaNaNc 0 d (.g 3) (.g 6) (.g 1) .f32 .rne) = some 0xC1100000
    ∧ after (.fcmpEq 0 3 (.g 4) (.g 4) .f32) (home t) (·.pred.zeroExtend 64) = some 1
    ∧ after (.fcmpUn 0 3 (.g 4) (.g 4) .f32) (home t) (·.pred.zeroExtend 64) = some 9
    ∧ after (.fcmpNe 0 3 (.g 4) (.g 4) .f32) (home t) (·.pred.zeroExtend 64) = some 9
    ∧ after (.fcmpLt 0 3 (.g 1) (.g 3) .f32) (home t) (·.pred.zeroExtend 64) = some 9
    ∧ after (.fcmpLe 0 3 (.g 1) (.g 1) .f32) (home t) (·.pred.zeroExtend 64) = some 9 := by decide +kernel

/-- 03 R86, R87's examples of conversions, with their flags. -/
theorem test_conversion_results :
    let t : Thread := { th with g := (((th.g.set 1 0x4788B800).set 2 0x7F800000).set 3 0xC302B333).set 4 0xBECCCCCD }
    let go := fun (i : Instr) (v : Word) (fl : Flags) => after i (home t) (·.g[7]) = some v ∧ after i (home t) (·.fpctl) = some fl.word
    go (.fcvt 0 (.g 7) (.g 1) .f16 .f32 .rne) 0x7BFF { ovf := true, nx := true } ∧ go (.fcvt 0 (.g 7) (.g 2) .f16 .f32 .rne) 0x7C00 .none
    ∧ go (.fcvt 0 (.g 7) (.g 3) .i8 .f32 .rtz) 0xFFFFFFFFFFFFFF80 { nv := true, sat := true }
    ∧ go (.fcvt 0 (.g 7) (.g 4) .n32 .f32 .rne) 0 { nx := true } := by decide +kernel

/-! ### Witnesses: states and operands that meet the hypotheses of each statement, clause by clause

Where a statement speaks of an access, a line or a record that is at hand, the witness shows that it is. -/

def B (n : Nat) : Word := Word.ofNat (sramBase + n)
def line0 : Line := ⟨sramBase / 64, nops⟩
/-- `th` with general registers replaced. -/
def regs (l : List (Nat × Word)) : Thread := { th with g := l.foldl (fun g p => g.setIfInBounds p.1 p.2) th.g }
/-- A thread that has answers of earlier attempts and has entered its next line. -/
def seen (t : Thread) (l : List Reply) : Thread := { t with replies := l, entered := some (nextHead t, line0) }
/-- A value of n bytes at an offset of slice 128. -/
def put (o n v : Nat) (s : State) : State := s.write (sramAt 128 o) n v
def onCore (f : Core → Core) (s : State) : State := s.updCore 512 f
def onCtx (f : Ctx → Ctx) (s : State) : State := s.updCtx 1 f
abbrev Iss (s : State) (t : Thread) : Prop := Issues s 512 0 t 0
abbrev rdy (s : State) (t : Thread) (srcs dsts : List Reg) : Prop := fieldsReady s 512 0 t srcs dsts = true
/-- The line of the next head is at hand. -/
abbrev lined (s : State) (t : Thread) : Prop := (lineAt s 512 t (nextHead t)).isSome = true
/-- What an access finds that is mapped and has its rights. -/
def placed (s : State) (a : Word) (need : Byte) : Option Place := (accessAt s 512 th a need).map (·.1)
/-- A load of n bytes finds them. -/
def found (s : State) (t : Thread) (a : Word) (n : Nat) : Bool :=
  ((accessAt s 512 t a rR).bind fun p => loaded p.2 512 t a n (Exec.firstBytes n) p.1).isSome
def rAll : Byte := rR ||| rW ||| rA

theorem continues_of {s : State} {t : Thread} {l : Line} (h : (decide (s.cur = some (512, 0)) && decide (s.thread 512 0 = some t)
    && decide (Exec.pget t 0 = true) && decide (t.step = false) && decide (t.entered = some (nextHead t, l))
    && decide (Exec.headIdx (nextHead t) ≤ Exec.headCount l.bytes)) = true) : Continues s 512 0 t 0 l := by
  simp only [Bool.and_eq_true, decide_eq_true_eq] at h
  obtain ⟨⟨⟨⟨⟨h1, h2⟩, h3⟩, h4⟩, h5⟩, h6⟩ := h
  exact ⟨h1, h2, h3, h4, .inl h5, h6⟩

/-- `th` with a port bound to a queue, on core 514, which has words at both its links and in the queue. -/
def tl : Thread := { th with ports := th.ports.setIfInBounds 2 (some ⟨3, false⟩) }
def linked (t : Thread) : State := { home t with
  cur := some (514, 0)
  cores := [(513, { ctx := some 1 }), (514, { core0 with slots := [(0, t)], west := [11, 12], east := [13], queues := [(3, [4])] }), (515, { ctx := some 1 })] }
abbrev rdyL (t : Thread) (srcs dsts : List Reg) : Prop := fieldsReady (linked t) 514 0 t srcs dsts = true

theorem witness_AluRegisterForms : Iss (home th) th ∧ Issues (linked tl) 514 0 tl 0 ∧ (rdy (home th) th [.g 1, .g 3] [.g 7]
    ∧ rdy (home th) th [.z, .g 23] [.z] ∧ rdyL tl [.lw, .le] [.g 7] ∧ rdyL tl [.x 2, .lw] [.le]) :=
  ⟨issues_of (by decide +kernel), issues_of (by decide +kernel), by decide +kernel⟩

theorem witness_ImmediateForms : Iss (home th) th ∧ (rdy (home th) th [.g 1, .g 3] [.z] ∧ rdy (home th) th [.g 4] [.g 0] ∧ rdy (home th) th [] [.g 7]) :=
  ⟨issues_of (by decide +kernel), by decide +kernel⟩

theorem witness_BitForms : Iss (home th) th ∧ (rdy (home th) th [.g 3] [.g 7] ∧ rdy (home th) th [.g 1, .g 3] [.g 3]
    ∧ (63#6).toNat + (0#6).toNat < 64 ∧ (0#6).toNat + (63#6).toNat < 64) :=
  ⟨issues_of (by decide +kernel), by decide +kernel⟩

theorem witness_PredicateForms : Iss (home th) th ∧ (rdy (home th) th [.g 1, .g 3] [] ∧ rdy (home th) th [.g 3] [] ∧ (7 : PReg) ≠ 0) :=
  ⟨issues_of (by decide +kernel), by decide +kernel⟩

theorem witness_DivisionForms : Iss (home th) th ∧ (rdy (home th) th [.g 4, .z] [.g 7]
    ∧ let p := result (home th) 512 0 th [.g 4, .z] (.g 7) (op2 fun _ _ => 0)
      (lineAt p.1 512 p.2 (nextHead th)).isSome = true) := ⟨issues_of (by decide +kernel), by decide +kernel⟩

theorem witness_FloatForms : Iss (home th) th ∧ (rdy (home th) th [.g 1, .g 3] [.g 7] ∧ rdy (home th) th [.g 1, .g 3, .g 2] [.g 7]
    ∧ rdy (home th) th [.g 1] [.z] ∧ rdy (home th) th [.g 1, .g 3] []) := ⟨issues_of (by decide +kernel), by decide +kernel⟩

theorem witness_ControlTransfers : Issues (linked th) 514 0 th 0 ∧ Iss (home th) th
    ∧ (rdyL th [.lw] [.g 7, .le] ∧ rdyL th [.le] [.z, .lw] ∧ th.twin = none ∧ (Exec.linkEnd (home th) 512 ((.le : Reg) == .lw)).isNone = true
      ∧ rdy (home th) th [.g 1] [] ∧ (home th).mgmt.attach = false
      ∧ (let s := { home th with mgmt := { (home th).mgmt with attach := true, dbgCtx := 1 } }
        s.mgmt.attach = true ∧ s.mgmt.dbgCtx = s.ctxOf 512 ∧ issues s 512 0 th 0 = true)
      ∧ (home th).cur = some (512, 0) ∧ (home th).thread 512 0 = some th ∧ Exec.pget th 7 = false ∧ th.step = false
      ∧ th.entered = none ∧ th.fetched = none ∧ th.filled = [] ∧ lined (home th) th) :=
  ⟨issues_of (by decide +kernel), issues_of (by decide +kernel), by decide +kernel⟩

/-- A thread of the plinth column. -/
def plinthOf (t : Thread) : State := { home t with
  cur := some (526, 0), cores := [(526, { core0 with slots := [(0, t)] })], ctxs := [(0, {}), (1, { ctx1 with cores := [526] })]
  boot := { (home th).boot with armature := { (home th).boot.armature with width := 2 } } }
def plinth : State := plinthOf th

theorem witness_SystemRegisters : Iss (home th) th ∧ Issues plinth 526 0 th 0
    ∧ (rdy (home th) th [] [.g 7] ∧ rdy (home th) th [.g 1] [] ∧ (home th).isPlinth 512 = false ∧ plinth.isPlinth 526 = true
      ∧ fieldsReady plinth 526 0 th [.g 1] [] = true ∧ (0x14 : BitVec 8).toNat < 0x80 ∧ 0x80 ≤ (0xFF : BitVec 8).toNat) :=
  ⟨issues_of (by decide +kernel), issues_of (by decide +kernel), by decide +kernel⟩

/-- A thread that has the answer of the home agent for a word of paged memory, on a core with that page in its PLB. -/
def tPage : Thread := { regs [(9, 0x10000)] with replies := [.val 9] }
def paged (t : Thread) : State := onCore (fun k => { k with plb := k.plb ++ [{ base := windowBase, size := 2 ^ 17, domain := 0, rights := 0x1F#8 }] }) (home t)

theorem witness_LoadForms : Iss (home th) th ∧ Iss (paged tPage) tPage ∧ Issues plinth 526 0 th 0
    ∧ (rdy (home th) th [.g 5, .z] [.g 7] ∧ (B 0x1000).toNat % 8 = 0 ∧ found (home th) th (B 0x1000) 8 = true ∧ found (home th) th (B 0x1007) 1 = true
      ∧ found (paged tPage) tPage 0x10000 4 = true
      ∧ (let u : Thread := { th with replies := [.val 5] }
        let a : Word := 0xFF00000000000000
        issues (plinthOf u) 526 0 u 0 = true
        ∧ ((accessAt (plinthOf u) 526 u a rR).bind fun p => loaded p.2 526 u a 8 0xFF p.1).isSome = true
        ∧ th.replies = [] ∧ th.twin = none ∧ ((accessAt plinth 526 th a rR).bind fun p => askedAs p.2 526 th a 8 0xFF p.1).isSome = true)
      ∧ (let u := { tPage with replies := [] }
        let v := { u with sb := [.store (Word.ofNat (windowBase + 0x10000)) 9 0xFF 0x10000] }
        ∀ w ∈ [u, v], issues (paged w) 512 0 w 0 = true
          ∧ ((accessAt (paged w) 512 w 0x10000 rR).bind fun p => askedAs p.2 512 w 0x10000 4 0xF p.1).isSome = true)) :=
  ⟨issues_of (by decide +kernel), issues_of (by decide +kernel), issues_of (by decide +kernel), by decide +kernel⟩

theorem witness_StoreForms : Iss (home th) th ∧ (rdy (home th) th [.g 5, .z, .g 3] [] ∧ th.sb.length < 8 ∧ (B 0x1007).toNat % 1 = 0
    ∧ (placed (home th) (B 0x1007) rW).isSome = true ∧ (B 0x1000).toNat % 8 = 0 ∧ (placed (home th) (B 0x1000) rW).isSome = true) :=
  ⟨issues_of (by decide +kernel), by decide +kernel⟩

theorem witness_AccessTraps : Iss (home th) th
    ∧ (let ro := onCore (fun k => { k with plb := [{ base := sramBase, size := 2 ^ 17, domain := 0, rights := rR }] }) (home th)
      rdy (home th) th [.g 5, .z] [.g 7] ∧ rdy (home th) th [.g 5, .z, .g 3] [] ∧ (B 0x1001).toNat % 2 ≠ 0
      ∧ (match (home th).mapCheck 512 ctx1 0xF000000000000000 with
        | .error e => e == 0x11#8
        | _ => false) = true
      ∧ (match ro.mapCheck 512 ctx1 (B 0x1000) with
        | .ok (.sram _) => true
        | _ => false) = true
      ∧ ((plbFind (ro.core 512).plb (plbKey 0 (B 0x1000))).map fun e => decide (e.rights &&& rW ≠ rW)) = some true) :=
  ⟨issues_of (by decide +kernel), by decide +kernel⟩

theorem witness_VectorIntegerForms : Iss (home th) th ∧ (plainRegs th [7, 6, 3] ∧ rdy (home th) th [.g 1] [] ∧ rdy (home th) th [.g 1, .g 2] []) :=
  ⟨issues_of (by decide +kernel), by unfold plainRegs; decide +kernel⟩

theorem witness_VectorFloatForms : Iss (home th) th ∧ (plainRegs th [7, 6, 3, 0] ∧ rdy (home th) th [.g 1] []) :=
  ⟨issues_of (by decide +kernel), by unfold plainRegs; decide +kernel⟩

theorem witness_VectorCrossForms : Iss (home th) th ∧ (plainRegs th [7, 6] ∧ rdy (home th) th [.g 1] [] ∧ rdy (home th) th [] [.g 1, .g 2]
    ∧ rdy (home th) th [.g 1] [.g 2] ∧ rdy (home th) th [.g 1, .g 2] []
    ∧ (let n := 512 / max (Ty.width .f64) (Ty.width .f32); (1 : BitVec 3).toNat * n + n ≤ Ty.count .f32)) :=
  ⟨issues_of (by decide +kernel), by unfold plainRegs; decide +kernel⟩

theorem witness_SpecialFunctionForms : Iss (home th) th ∧ (plainRegs th [7, 6] ∧ ((home th).core 512).sfuFifo = []
    ∧ ((home th).core 512).sfuLast = none ∧ (∀ p ∈ ((home th).core 512).slots, p.2.pending = none) ∧ lined (home th) th) :=
  ⟨issues_of (by decide +kernel), by unfold plainRegs; decide +kernel⟩

/-- Vector register 3 holds byte offsets 0, 4, 8, ... as 32-bit elements; mask 1 selects element 2 alone, mask 2 none. -/
def tv : Thread := { th with
  v := th.v.set 3 0x0000003c0000003800000034000000300000002c0000002800000024000000200000001c0000001800000014000000100000000c000000080000000400000000#512
  m := #v[0xFFFFFFFFFFFFFFFF, 4, 0, 0] }

theorem witness_VectorMemoryForms : Iss (home tv) tv ∧ Continues (home (seen tv [.val 0, .val 0])) 512 0 (seen tv [.val 0, .val 0]) 0 line0
    ∧ (plainRegs tv [1, 3] ∧ rdy (home tv) tv [.g 5, .z] [] ∧ rdy (home tv) tv [.g 5] [] ∧ enables .i32 (maskOf tv (some 2)) = 0
      ∧ enables .i32 (maskOf tv none) ≠ 0 ∧ (B 0x1000).toNat % 64 = 0 ∧ found (home tv) tv (B 0x1000) 64 = true ∧ tv.sb.length < 8
      ∧ (placed (home tv) (B 0x1000) rW).isSome = true
      ∧ (let l := (List.range 16).map fun i => B 0x1000 + Word.ofInt (sintOf 32 (elem .i32 (vget tv 3) i))
        l.all (fun a => a.toNat % 4 == 0) = true
        ∧ (let u : Thread := { tv with replies := List.replicate 16 (.val 7) }
          issues (home u) 512 0 u 0 = true ∧ (accessesAt (home u) 512 u (l.map fun a => (a, rR))).isSome = true ∧ (answeredAll l u.replies).isSome = true))
      ∧ ((List.range (Ty.count .i32)).filter fun i => (maskOf tv (some 1)).getLsbD i) = [2]
      ∧ placed (home tv) (B 0x1008) rW = some (.sram (sramAt 128 0x1008)) ∧ tv.sb = [] ∧ tv.replies = [] ∧ lined (home tv) tv) :=
  ⟨issues_of (by decide +kernel), continues_of (by decide +kernel), by unfold plainRegs; decide +kernel⟩

/-- A stream of two rows of three vectors, bound to v5. -/
def str0 : Stream := { base := B 0x1000, s0 := 64, s1 := 256, c0 := 3, c1 := 2, wr := false, pos := 5 }
def ts (st : Stream) : Thread := { regs [(9, 0x200020003), (10, 0x0000010000000040), (11, 0x20003)] with streams := #v[none, some st, none, none] }

theorem witness_StreamForms : Iss (home (ts str0)) (ts str0)
    ∧ (let t := ts str0
      rdy (home t) t [.g 5, .g 10, .g 11] [] ∧ rdy (home t) t [] [.g 7] ∧ (B 0x1000).toNat % 64 = 0 ∧ (0x10000000040 : Word).toNat % 2 ^ 32 % 64 = 0
      ∧ (0x10000000040 : Word).toNat / 2 ^ 32 % 64 = 0 ∧ (0x20003 : Word).toNat / 2 ^ 33 = 0 ∧ (0x200020003 : Word).toNat / 2 ^ 33 ≠ 0
      ∧ (0x41 : Word).toNat % 64 ≠ 0 ∧ streamOf t 5 = some str0 ∧ streamOf t 1 = none ∧ str0.pos < str0.c0.toNat * str0.c1.toNat
      ∧ streamOf (ts { str0 with pos := 6, wr := true }) 5 = some { str0 with pos := 6, wr := true }
      ∧ (B 0x1180).toNat % 64 = 0 ∧ found (home t) t (B 0x1180) 64 = true ∧ (placed (home t) (B 0x1180) rW).isSome = true
      ∧ streamOf (ts { str0 with ahead := [9] }) 5 = some { str0 with ahead := [9] }
      ∧ (let w := ts { str0 with wr := true }; issues (home w) 512 0 w 0 = true ∧ rdy (home w) w [.g 1] [] ∧ w.sb.length < 8)
      ∧ (let w : Thread := { t with sb := [.marker .die] }; issues (home w) 512 0 w 0 = true ∧ w.sb ≠ []))
    ∧ (let t := ts str0
      let full := ts { str0 with pos := 6 }
      let w := ts { str0 with wr := true }
      let ends := ts { str0 with wr := true, pos := 6 }
      (takeVecs (home t) 512 t [5, 1]).isSome = true ∧ (takeVecs (home t) 512 t [1, 2, 3]).isSome = true ∧ (takeVecs (home full) 512 full [5, 5]).isSome = true
      ∧ (takeVecs (home w) 512 w [1, 2]).isSome = true ∧ streamOf w 5 = some { str0 with wr := true } ∧ issues (home ends) 512 0 ends 0 = true
      ∧ rdy (home t) t [.g 5] [] ∧ rdy (home t) t [.g 5, .z] [] ∧ rdy (home w) w [.g 5, .z] [] ∧ issues (home full) 512 0 full 0 = true
      ∧ enables .i32 (maskOf t none) ≠ 0 ∧ (accessesAt (home w) 512 w [(B 0x1000, rR), (B 0x1180, rW)]).isSome = true ∧ found (home w) w (B 0x1000) 64 = true
      ∧ (accessesAt (home t) 512 t [(B 0x1000, rW), (B 0x1180, rR)]).isSome = true ∧ (str0.addr 5) = B 0x1180) :=
  ⟨issues_of (by decide +kernel), by decide +kernel, by decide +kernel⟩

/-- The word of the tests, full or empty. -/
def word1 (full : Bool) (s : State) : State := if full then put 0x1000 8 0x1122334455667788 s else (put 0x1000 8 0x1122334455667788 s).setEmpty (sramAt 128 0x1000)
def tAns : Thread := seen th [.val 9]
/-- A thread whose synchronising access has waited as long as it may. -/
def tLim : Thread := { seen th [] with run := .parked (.sync false) 1000 999 }

theorem witness_SynchronisingForms : Iss (word1 true (home th)) th ∧ Iss (word1 false (home th)) th ∧ Continues (home tAns) 512 0 tAns 0 line0
    ∧ Continues (home tLim) 512 0 tLim 0 line0 ∧ Drained tLim ∧ Iss (paged tPage) tPage
    ∧ (let q := sramAt 128 0x1000
      rdy (home th) th [.g 5] [.g 7] ∧ rdy (home th) th [.g 5, .g 7] [] ∧ th.sb = [] ∧ (B 0x1004).toNat % 8 ≠ 0 ∧ (B 0x1000).toNat % 8 = 0
      ∧ placed (home th) (B 0x1000) (rR ||| rW ||| rS) = some (.sram q) ∧ th.run = .ready ∧ th.replies = [] ∧ th.twin = none
      ∧ q / 2 ^ 21 = quadOf 512 ∧ (home th).fencedAt q = false ∧ (word1 true (home th)).full q = true ∧ (word1 false (home th)).full q = false
      ∧ lined (word1 false (home th)) th ∧ (match placed (paged tPage) 0x10000 (rR ||| rS) with
        | some (.paged _) => true
        | _ => false) = true ∧ tLim.replies = [] ∧ tLim.run = .parked (.sync false) 1000 999 ∧ th.waited = none
      ∧ rdy (home tLim) tLim [.g 5] [.g 7] ∧ (accessAt (home tLim) 512 tLim (B 0x1000) (rR ||| rW ||| rS)).isSome = true) :=
  ⟨issues_of (by decide +kernel), issues_of (by decide +kernel), continues_of (by decide +kernel), continues_of (by decide +kernel), ⟨rfl, rfl⟩, issues_of (by decide +kernel), by decide +kernel⟩

theorem witness_AtomicForms : Iss (home th) th ∧ Continues (home tAns) 512 0 tAns 0 line0 ∧ Released th .sys
    ∧ (rdy (home th) th [.g 5, .g 1, .g 2] [.g 7] ∧ rdy (home th) th [.g 5, .g 1] [.z] ∧ (B 0x1002).toNat % 4 ≠ 0 ∧ (B 0x1004).toNat % 4 = 0
      ∧ placed (home th) (B 0x1004) rAll = some (.sram (sramAt 128 0x1004)) ∧ th.replies = [] ∧ th.twin = none
      ∧ sramAt 128 0x1004 / 2 ^ 21 = quadOf 512 ∧ (home th).fencedAt (sramAt 128 0x1004) = false) :=
  ⟨issues_of (by decide +kernel), continues_of (by decide +kernel), ⟨⟨rfl, rfl⟩, rfl, rfl⟩, by decide +kernel⟩

theorem witness_FenceMaintenanceForms :
    (let t : Thread := { th with sb := List.replicate 8 (.marker .die) }
      let u : Thread := { th with sb := List.replicate 7 (.marker .die), fenceLeft := 1 }
      issues (home t) 512 0 t 0 = true ∧ issues (home u) 512 0 u 0 = true ∧ 8 ≤ t.sb.length ∧ u.sb.length < 8 ∧ u.fenceLeft ≠ 0
      ∧ (let w : Thread := { u with pc := Word.ofNat (sramBase + 60), g := u.g.set 1 (B 0x1002) }
        issues (home w) 512 0 w 0 = true ∧ w.fenceLeft ≠ 0 ∧ Exec.headIdx (nextHead w) ≠ 0 ∧ Exec.lineNum (nextHead w) ≠ sramBase / 64 ∧ w.replies = []
        ∧ rdy (home w) w [.g 1] [] ∧ (B 0x1002).getLsbD 0 = false ∧ Exec.headIdx (B 0x1002) ≠ 0 ∧ Exec.lineNum (B 0x1002) ≠ sramBase / 64))
    ∧ Released th .sys ∧ Iss (home th) th
    ∧ (let t := regs [(9, 0x10000), (10, 3)]
      let e : PlbEntry := { base := windowBase, size := 2 ^ 17, domain := 0, rights := rR }
      let f : Thread := { seen t [] with filled := [(plbKey 0 0x10000 / 2 ^ 17, some e)] }
      issues (home t) 512 0 t 0 = true ∧ rdy (home t) t [.g 9] [.g 7] ∧ rdy (home t) t [.g 9, .g 10] [] ∧ rdy (home t) t [.g 9] []
      ∧ (match (home th).mapCheck 512 ctx1 0xF000000000000000 with
        | .error e => e == 0x11#8
        | _ => false) = true
      ∧ (match plinth.mapCheck 526 ctx1 0xFF00000000000000 with
        | .ok (.mgmt _) => true
        | _ => false) = true
      ∧ (match (home t).mapCheck 512 ctx1 0x10000 with
        | .ok (.paged _) => true
        | _ => false) = true
      ∧ (home f).cur = some (512, 0) ∧ f.entered = some (nextHead f, line0) ∧ Exec.headIdx (nextHead f) ≤ Exec.headCount line0.bytes
      ∧ (home t).buffered (· == 1) = [] ∧ lined (home t) t ∧ (home t).isPlinth 512 = false
      ∧ (let u : Thread := { t with sb := [.store 0 0 1 0] }; issues (home u) 512 0 u 0 = true ∧ (home u).buffered (· == 1) = [(512, 0, 1)] ∧ lined (home u) u)
      ∧ plinth.isPlinth 526 = true ∧ plinth.buffered (fun _ => true) = [] ∧ issues plinth 526 0 th 0 = true
      ∧ fieldsReady plinth 526 0 th [.g 1, .z] [] = true
      ∧ (accessesAt (home t) 512 t [(B 0x1000, rR)]).isSome = true
      ∧ region 0 (B 0x1000) = .sram 0 0x1000 ∧ region 0 0x10000 = .paged (Word.ofNat (windowBase + 0x10000))
      ∧ plbFind ((home t).core 512).plb (windowBase + 0x10000) = none ∧ (home t).fill ctx1 0x10000 = none
      ∧ (plbFind ((paged t).core 512).plb (windowBase + 0x10000)).isSome = true) :=
  ⟨by decide +kernel, ⟨⟨rfl, rfl⟩, rfl, rfl⟩, issues_of (by decide +kernel), by decide +kernel⟩

def rec0 : TaskRec := { pc := 0x40, args := [1, 2], ctx := 1 }
def two (s : State) : State := onCtx (fun x => { x with cores := [512, 520], owners := [(0, 520)] }) s
def tTwin : Thread := { th with twin := some (520, 0, true) }
def tFork : Thread := seen th [.val 1, .val 5]

theorem witness_ForkJoinForms : Iss (home th) th ∧ Iss (home tTwin) tTwin ∧ Continues (home tFork) 512 0 tFork 0 line0
    ∧ (tTwin.twin.isSome = true ∧ th.twin = none ∧ rdy (home th) th [.g 5, .z] [.g 7] ∧ th.replies = []
      ∧ (let s := onCore (fun k => { k with deque := List.replicate 384 rec0 }) (home th)
        384 ≤ (s.core 512).deque.length ∧ issues s 512 0 th 0 = true)
      ∧ (let s := onCore (fun k => { k with deque := List.replicate 383 rec0, slots := k.slots ++ [(1, { th with heldDeque := true })] }) (home th)
        384 ≤ (s.core 512).deque.length + ((s.core 512).slots.filter fun p => p.2.heldDeque && p.1 != 0).length ∧ issues s 512 0 th 0 = true)
      ∧ ((home th).core 512).deque.length < 384 ∧ (B 0x1000) ≠ 0 ∧ th.sb = [] ∧ (B 0x1000).toNat % 8 = 0
      ∧ placed (home th) (B 0x1000) rAll = some (.sram (sramAt 128 0x1000)) ∧ sramAt 128 0x1000 / 2 ^ 21 = quadOf 512
      ∧ (home th).fencedAt (sramAt 128 0x1000) = false ∧ rdy (home th) th [.g 5] [] ∧ found (home th) th (B 0x1000) 8 = true
      ∧ (home th).read (sramAt 128 0x1000) 8 = 0 ∧ (word1 true (home th)).read (sramAt 128 0x1000) 8 ≠ 0) :=
  ⟨issues_of (by decide +kernel), issues_of (by decide +kernel), continues_of (by decide +kernel), by decide +kernel⟩

/-- A task record with a counter, and a thread that has it and the old value of the counter. -/
def recW : Vec := BitVec.ofNat 512 (0x40 + (sramBase + 0x2000) * 2 ^ 320)
def tSpawn : Thread := seen th [.val recW, .val 5]
def spawning (t : Thread) : State := (two (home t)).updCore 520 fun k => { k with inbox := [.reserved 512 0] }

theorem witness_SpawnForm : Iss (two (home th)) th ∧ Iss (home tTwin) tTwin ∧ Continues (spawning tSpawn) 512 0 tSpawn 0 line0
    ∧ (let s := spawning tSpawn
      tSpawn.twin = none ∧ rdy s tSpawn [.g 5, .g 1] [.g 7] ∧ (s.core 520).inbox.contains (.reserved 512 0) = true ∧ recW.extractLsb' 320 64 = B 0x2000
      ∧ Drained tSpawn ∧ (B 0x2000).toNat % 8 = 0 ∧ (accessAt s 512 tSpawn (B 0x1000) rR).isSome = true
      ∧ (accessAt s 512 tSpawn (B 0x2000) rAll).map (·.1) = some (.sram (sramAt 128 0x2000)))
    ∧ (let s := put 0x1000 64 recW.toNat (two (home th))
      found s th (B 0x1000) 64 = true ∧ (s.read (sramAt 128 0x1028) 8) ≠ 0 ∧ issues s 512 0 th 0 = true ∧ placed s (B 0x2000) rAll = some (.sram (sramAt 128 0x2000))
      ∧ sramAt 128 0x2000 / 2 ^ 21 = quadOf 512 ∧ s.fencedAt (sramAt 128 0x2000) = false)
    ∧ (let s := two (home th)
      let f := s.updCore 520 fun k => { k with inbox := List.replicate 32 (.task rec0) }
      tTwin.twin.isSome = true ∧ th.twin = none ∧ rdy s th [.g 5, .g 1] [.g 7] ∧ ((s.ctx 1).map fun x => x.cores) = some [512, 520]
      ∧ (B 0x1000).toNat % 64 = 0 ∧ found s th (B 0x1000) 64 = true ∧ s.read (sramAt 128 0x1028) 8 = 0
      ∧ (s.core 520).inbox.contains (.reserved 512 0) = false ∧ (s.core 520).inboxRoom 1 = true ∧ (f.core 520).inboxRoom 1 = false
      ∧ th.run = .ready ∧ 0 < th.wlim ∧ issues f 512 0 th 0 = true) :=
  ⟨issues_of (by decide +kernel), issues_of (by decide +kernel), continues_of (by decide +kernel), by unfold Drained; decide +kernel,
    by decide +kernel, by decide +kernel⟩

/-- A trap record of context 1 for the stopped thread in slot 3. -/
def recs (dec : Bool) (type : Nat) (s : State) : State := onCtx (fun x => { x with
  trbase := B 0x2000, trlog := 6, recs := [(0, { core := 512, slot := 3, thread := true, type := type, depth := 1, since := 0, dec := dec })] }) s
def stop0 : Stop := { code := 0, pc := 0, rpc := 0 }
def withStop (o : Nat) (s : State) : State := onCore (fun k => { k with
  slots := k.slots ++ [(3, { th with tid := 9, outst := o, run := .trapped stop0 (some 0) })] }) s
def tHand : Thread := { regs [(9, B 0x2000)] with trapinfo := B 0x2000 }
def tJoin : Thread := { th with join := B 0x1000 }

theorem witness_HaltForms : Iss (home th) th ∧ Iss (withStop 0 (recs false 0 (home tHand))) tHand ∧ Iss (home tJoin) tJoin
    ∧ (th.sb = [] ∧ th.outst = 0 ∧ th.trapinfo = 0 ∧ th.join = 0
      ∧ tJoin.trapinfo = 0 ∧ tJoin.replies = [] ∧ tJoin.twin = none ∧ tJoin.join ≠ 0 ∧ tJoin.join.toNat % 8 = 0
      ∧ placed (home tJoin) tJoin.join rAll = some (.sram (sramAt 128 0x1000)) ∧ sramAt 128 0x1000 / 2 ^ 21 = quadOf 512
      ∧ (home tJoin).fencedAt (sramAt 128 0x1000) = false
      ∧ (let s := withStop 0 (recs false 0 (home tHand))
        tHand.trapinfo ≠ 0 ∧ tHand.join = 0 ∧ (((s.ctx 1).getD {}).ownRecord tHand).map (fun p => (p.1, p.2.dec, p.2.type, p.2.core, p.2.slot))
            = some (0, false, 0, 512, 3)
        ∧ (s.tagged 512 3).map (fun u => (u.run, u.outst, u.cv, u.join)) = some (.trapped stop0 (some 0), 0, false, 0))
      ∧ (let u : Thread := { th with sb := [.marker .die] }; issues (home u) 512 0 u 0 = true ∧ u.sb ≠ [])
      ∧ (let u : Thread := { th with outst := 1 }; issues (home u) 512 0 u 0 = true ∧ u.outst ≠ 0)) :=
  ⟨issues_of (by decide +kernel), issues_of (by decide +kernel), issues_of (by decide +kernel), by decide +kernel⟩

def queued (prio : Nat) (s : State) : State := onCore (fun k => { k with deque := [{ rec0 with prio := prio }] }) s
def pinnedOthers (n : Nat) (s : State) : State := onCore (fun k => { k with slots := k.slots ++ (List.range n).map fun i => (i + 1, { th with pinned := true }) }) s

theorem witness_YieldLendPin : Iss (home th) th
    ∧ (let pins := fun (s : State) => ((s.core 512).slots.filter fun p => p.2.pinned).length
      rdy (home th) th [] [.g 7] ∧ th.pinned = false ∧ pins (pinnedOthers 12 (home th)) = 12 ∧ pins (pinnedOthers 11 (home th)) = 11
      ∧ issues (pinnedOthers 12 (home th)) 512 0 th 0 = true ∧ (((home th).core 512).bestOther th.prio).isNone = true
      ∧ ((queued 2 (home th)).core 512).bestOther th.prio = none
      ∧ (((queued 3 (home th)).core 512).bestOther th.prio).map (·.2) = some 3 ∧ th.prio ≤ 3
      ∧ ((onCore (fun k => { k with hits := [{ rec0 with prio := 1 }, { rec0 with prio := 5 }] }) (home th)).core 512).bestOther th.prio = some (.hit 1, 5) ∧ ((queued 3 (home th)).core 512).saved.length < 48 ∧ th.sb = []
      ∧ issues (queued 3 (home th)) 512 0 th 0 = true
      ∧ (let q := putField 512 (.g 7) 1 (queued 3 (home th), th); (lineAt q.1 512 q.2 (nextHead th)).isSome = true)) :=
  ⟨issues_of (by decide +kernel), by decide +kernel⟩

def bound (n tag : Nat) (s : State) : State := onCore (fun k => { k with bindings := [(0, { tag := tag, count := n })] }) s
def tCall : Thread := { th with cv := true, ccore := 520, cslot := 3 }
def owned (s : State) : State := s.updCore 520 fun k => { k with ctx := some 1 }

theorem witness_CallReturnForms : Iss (two (home th)) th ∧ Iss (home tTwin) tTwin ∧ Iss (owned (two (home tCall))) tCall
    ∧ (let s := two (home th)
      let full := s.updCore 520 fun k => { k with inbox := List.replicate 32 (.task rec0) }
      let c := owned (two (home tCall))
      let mf := c.updCore 520 fun k => { k with mail := List.replicate 64 { value := 0, src := 0, kind := 1, tag := 0 } }
      tTwin.twin.isSome = true ∧ th.twin = none ∧ rdy s th [.g 5, .g 1] [.g 7] ∧ ((s.ctx 1).map fun x => x.cores) = some [512, 520]
      ∧ ((bound 16 0 s).core 512).bindings.get? 0 = some ⟨0, 16⟩ ∧ ((bound 15 0 s).core 512).bindings.get? 0 = some ⟨0, 15⟩
      ∧ ((bound 1 4 s).core 512).bindings.get? 0 = some ⟨4, 1⟩ ∧ (s.core 512).bindings.get? 0 = none
      ∧ (full.core 520).inboxRoom 1 = false ∧ (s.core 520).inboxRoom 1 = true ∧ th.run = .ready ∧ 0 < th.wlim
      ∧ rdy c tCall [.g 1] [] ∧ th.cv = false ∧ tCall.cv = true ∧ tCall.sb = [] ∧ tCall.outst = 0 ∧ tCall.replies = [] ∧ tCall.join = 0
      ∧ (home tCall).reach 1 520 = none ∧ issues (home tCall) 512 0 tCall 0 = true ∧ c.reach 1 520 = some 520 ∧ c.mailRoom 520 = true
      ∧ mf.mailRoom 520 = false ∧ issues mf 512 0 tCall 0 = true) :=
  ⟨issues_of (by decide +kernel), issues_of (by decide +kernel), issues_of (by decide +kernel), by decide +kernel⟩

def msg (tag kind : Nat) : Msg := { value := 0xAB, status := 2, seq := 9, src := 520, kind := kind, tag := tag }
def sending : Inflight := { core := 512, slot := 0, seq := 3, addr := 0, msend := some (520, sramAt 128 0x1008, 77, 200) }

theorem witness_MessageForms : Iss (two (home th)) th
    ∧ (let s := two (home th)
      let i : State := { owned s with inflight := [(5, sending)] }
      let d : State := { s with inflight := [(5, sending)] }
      rdy s th [.g 5, .g 2] [] ∧ th.twin = none ∧ (B 0x1004).toNat % 8 ≠ 0 ∧ region 0 0x8 = .paged (Word.ofNat (windowBase + 8))
      ∧ (0x8 : Word).toNat % 8 = 0 ∧ region 0 (B 0x1000) = .sram 0 0x1000 ∧ ((s.ctx 1).getD {}).ownerOf 0 0x1000 = some 520
      ∧ ((s.ctx 1).getD {}).phys 0 0x1000 = some (sramAt 128 0x1000) ∧ placed s (B 0x1000) rW = some (.sram (sramAt 128 0x1000))
      ∧ th.sb = [] ∧ th.outst < 65535
      ∧ i.inflight.get? 5 = some sending ∧ sending.outcome = none ∧ i.closed (i.ctxOf 512) 520 = false ∧ i.fencedAt (sramAt 128 0x1008) = false
      ∧ (i.core 520).partners = [] ∧ d.closed (d.ctxOf 512) 520 = true
      ∧ (let m : State := { s with messages := [(520, msg 1 1), (512, msg 14 2)] }; m.messages[1]? = some (512, msg 14 2) ∧ (msg 14 2).kind ≠ 0 ∧ (msg 14 2).tag < 15)
      ∧ (let m : State := onCore (fun k => { k with bindings := [(2, { tag := 14, count := 1 })] }) { s with messages := [(512, msg 2 0)] }
        m.messages[0]? = some (512, msg 2 0) ∧ (m.core 512).bindings.get? 2 = some ⟨14, 1⟩)
      ∧ (((home th).core 512).mail.filter fun m => m.tag == 0) = [] ∧ rdy s th [] [.g 7, .g 8] ∧ rdy s th [] [.g 7]
      ∧ (fieldChan th true (.g 7)).isSome = true ∧ (fieldChan th true (.g 8)).isSome = true
      ∧ (let m := onCore (fun k => { k with mail := [msg 3 1, msg 0 2] }) s
        ((m.core 512).mail.filter fun x => x.tag == 0) = [msg 0 2] ∧ issues m 512 0 th 0 = true)) :=
  ⟨issues_of (by decide +kernel), by decide +kernel⟩


def sem7 (v : Nat) (p : Bool) (s : State) : State := onCore (fun k => { k with sems := [(7, { v := v, p := p, code := 0x27#8 })] }) s
def table (l : Tab TtEntry) (s : State) : State := onCore (fun k => { k with table := l }) s
def recJ : TaskRec := { rec0 with join := B 0x1000 }

theorem witness_SemaphoreForms : Iss (sem7 5 false (home th)) th
    ∧ (let s := sem7 5 false (home th)
      let full := table ((List.range 32).map fun i => (i, .armed rec0 1 1)) s
      rdy s th [.g 0] [] ∧ rdy s th [.g 1] [] ∧ rdy s th [] [.g 7] ∧ th.sb = [] ∧ th.run = .ready ∧ 0 < th.wlim ∧ th.g[0].toNat ≤ 5 ∧ 5 < th.g[1].toNat
      ∧ (Tab.getD ((sem7 5 true (home th)).core 512).sems 7 {}).p = true ∧ issues (sem7 5 true (home th)) 512 0 th 0 = true
      ∧ (let u : Thread := { th with sb := [.marker .die] }; issues (home u) 512 0 u 0 = true ∧ u.sb ≠ [])
      ∧ th.twin = none ∧ rdy s th [.g 5, .g 2] [.g 7] ∧ rdy s th [.g 5, .z] [.g 7] ∧ th.g[2].toNat ≠ 0 ∧ th.g[2].toNat < 2 ^ 32 ∧ 2 ^ 32 ≤ th.g[3].toNat
      ∧ (∀ e ∈ (s.core 512).table, e.2 ≠ .reserved 0) ∧ (∀ e ∈ (full.core 512).table, e.2 ≠ .reserved 0)
      ∧ Tab.free (full.core 512).table 0 32 = none ∧ issues full 512 0 th 0 = true ∧ Tab.free (s.core 512).table 0 32 = some 0
      ∧ (B 0x1000).toNat % 64 = 0 ∧ found (table [(0, .reserved 0)] s) th (B 0x1000) 64 = true ∧ s.read (sramAt 128 0x1028) 8 = 0
      ∧ (let a := table [(3, .armed rec0 1 1)] s; (a.core 512).table.get? 3 = some (.armed rec0 1 1) ∧ rec0.join = 0 ∧ issues a 512 0 th 0 = true)
      ∧ (let a := table [(3, .armed recJ 1 1)] s; (a.core 512).table.get? 3 = some (.armed recJ 1 1) ∧ recJ.join ≠ 0 ∧ recJ.join.toNat % 8 = 0
        ∧ placed (table [] a) recJ.join rAll = some (.sram (sramAt 128 0x1000)) ∧ issues a 512 0 th 0 = true ∧ lined a th)
      ∧ (s.core 512).table.get? 3 = none
      ∧ (let u := fun (n : Nat) => { th with run := .parked .sem 1000 n, waited := none }
        ∀ n ∈ [5, 999], issues (sem7 5 false (home (u n))) 512 0 (u n) 0 = true ∧ rdy (home (u n)) (u n) [.g 1] [])
      ∧ (let u : Thread := { th with cancelling := some (th.pc, 0) }; issues (home u) 512 0 u 0 = true)
      ∧ (let a := table [(3, .armed { rec0 with join := B 0x1004 } 1 1)] s
        (B 0x1004).toNat % 8 ≠ 0 ∧ region 0 (B 0x1004) = .sram 0 0x1004 ∧ issues a 512 0 th 0 = true ∧ lined a th)) :=
  ⟨issues_of (by decide +kernel), by decide +kernel⟩

theorem witness_PortRoamForms : Iss (owned (two (home th))) th ∧ Iss (home tTwin) tTwin
    ∧ (let s := owned (two (home th))
      let full := s.updCore 520 fun k => { k with inbox := List.replicate 29 (.task rec0) }
      rdy s th [] [.g 7] ∧ tTwin.twin.isSome = true ∧ th.twin = none ∧ rdy s th [.g 5] [] ∧ region 0 7 = .paged (Word.ofNat (windowBase + 7))
      ∧ region 0 (B 0x1000) = .sram 0 0x1000 ∧ ((s.ctx 1).getD {}).ownerOf 0 0x1000 = some 520 ∧ s.closed 1 520 = false
      ∧ (two (home th)).closed 1 520 = true ∧ issues (two (home th)) 512 0 th 0 = true ∧ th.sb = [] ∧ th.outst = 0
      ∧ (s.core 512).bindings.get? 0 = none ∧ (s.core 520).inboxRoom 4 = true ∧ (full.core 520).inboxRoom 4 = false
      ∧ issues full 512 0 th 0 = true ∧ th.run = .ready ∧ 0 < th.wlim) :=
  ⟨issues_of (by decide +kernel), issues_of (by decide +kernel), by decide +kernel⟩

/-- Four matrix records of R292 and R293: a tile of rows of f32, one of bf16 columns, a window, and a bad one. -/
def w4 (a b c d : Nat) : Nat := a + b * 2 ^ 64 + c * 2 ^ 128 + d * 2 ^ 192
def shapes (s : State) : State :=
  let s := put 0x1000 32 (w4 (sramBase + 0x4000) (8 * 2 ^ 32) (2 + 4 * 2 ^ 16 + 2 ^ 32 + 5 * 2 ^ 48) 0) s
  let s := put 0x1020 32 (w4 (sramBase + 0x5000) (8 * 2 ^ 32 + 64) (4 + 2 * 2 ^ 16 + 5 * 2 ^ 48 + 2 ^ 56) 0) s
  let s := put 0x1040 32 (w4 0 0 (2 + 2 * 2 ^ 16 + 2 ^ 57) 0) s
  put 0x1060 32 (w4 (sramBase + 0x6000) (8 * 2 ^ 32 + 64) (2 + 4 * 2 ^ 16 + 5 * 2 ^ 48 + 2 ^ 56) 0) s
def tMat : Thread := regs [(9, B 0x1000), (10, B 0x1020), (11, B 0x1040), (12, B 0x1060)]
def tiles (s : State) : State := { s with clusters := [(64, { me := { owner := [(3, 512)] } })] }
def sh (s : State) (t : Thread) (o : Nat) : Shape := ((shapeAt s 512 t 0 (some (B o))).map (·.1)).getD (.ofWords 0 0 0 0)
def tJob : Thread := { seen tMat [] with heldEntry := some 7 }
def jobs (w : Word) (s : State) : State := onCore (fun k => { k with jc := 8, jobs := [(7, w)] }) s

theorem witness_MatrixJobForms : Iss (tiles (shapes (home tMat))) tMat ∧ Continues (jobs 0x80000000 (home tJob)) 512 0 tJob 0 line0
    ∧ (let s := tiles (shapes (home tMat))
      let a := sh s tMat 0x1000
      let b := sh s tMat 0x1020
      let w := sh s tMat 0x1040
      let pk := sh s tMat 0x1060
      rdy s tMat [.g 9, .g 10, .g 11] [.g 7] ∧ rdy s tMat [.g 9, .z] [.z] ∧ rdy s tMat [.z] [.z]
      ∧ ([0x1000, 0x1020, 0x1040, 0x1060].all fun o => (shapeAt s 512 tMat 0 (some (B o))).isSome) = true
      ∧ recordsOk .mma a b (some w) = (true, true, true) ∧ (recordsOk .mma b b none).1 = false
      ∧ (recordsOk .mma a a none).1 = true ∧ (recordsOk .mma a a none).2.1 = false
      ∧ (recordsOk .accld a (.ofWords 0 0 0 0) none).1 = true ∧ recordsOk .mpack a pk none = (true, true, true)
      ∧ (s.cluster 64).me.owner.get? 3 = some 512 ∧ (s.cluster 64).me.owner.get? 4 ≠ some 512
      ∧ (spansAt 512 th s (jobSpans .mma a b)).isSome = true ∧ (spansAt 512 th s (jobSpans .mpack a pk)).isSome = true ∧ tMat.sb = []
      ∧ ((s.cluster 64).me.entryFor 512 0).isSome = true ∧ lined s tMat ∧ tJob.heldEntry = some (7 : BitVec 16).toNat
      ∧ ((jobs 0x80000000 (home tJob)).core 512).jobStatus 7 = some 0x80000000 ∧ (0x80000000 : Word).getLsbD 31 = true
      ∧ (0x80000000 : Word).extractLsb' 40 8 = 0#8 ∧ ((jobs 0x410080000000 (home tJob)).core 512).jobStatus 7 = some 0x410080000000
      ∧ (0x410080000000 : Word).getLsbD 31 = true ∧ (0x410080000000 : Word).extractLsb' 40 8 ≠ 0#8) :=
  ⟨issues_of (by decide +kernel), continues_of (by decide +kernel), by decide +kernel⟩

def td0 : Td := ⟨0, 0, 4, 1⟩
theorem td0_ready (s : State) : TdReady s 512 td0 := .inl rfl

theorem witness_EngineStatusForms : Iss (jobs 0x80000001 (home th)) th ∧ Iss (jobs 1 (home th)) th ∧ TdReady (home th) 512 td0
    ∧ TdReady (sem7 5 false (home th)) 512 ⟨7, 5, 0, 0⟩
    ∧ (let poisoned := sem7 5 true (home th)
      rdy (home th) th [.g 1] [.g 7] ∧ rdy (home th) th [] [.g 7] ∧ ((home th).core 512).jobs.lookup (7 : BitVec 16) = none
      ∧ ((jobs 0x80000001 (home th)).core 512).jobs.lookup (7 : BitVec 16) = some 0x80000001 ∧ (1 : Word).getLsbD 31 = false
      ∧ th.replies = [] ∧ th.sb = [] ∧ th.pend = 0 ∧ (let u : Thread := { th with pend := 1 }; issues (home u) 512 0 u 0 = true ∧ u.pend ≠ 0)
      ∧ issues poisoned 512 0 th 0 = true ∧ (Tab.getD (poisoned.core 512).sems 7 {}).p = true) :=
  ⟨issues_of (by decide +kernel), issues_of (by decide +kernel), td0_ready _, .inr (by decide +kernel), by decide +kernel⟩

/-- A copy of 256 bytes, and one whose descriptor gives 2 x 3 rows of 16 bytes and a counting core. -/
def tCpy : Thread := regs [(9, B 0x4000), (10, B 0x3000), (11, 0x100), (12, B 0x1000)]
def ring (s : State) : State := put 0x1000 32 (w4 (256 + 2 * 2 ^ 32 + 2 ^ 48) 512 0 (2 ^ 39 + 12 + 15 * 2 ^ 8)) s
def ownQ (s : State) : State := onCtx (fun x => { x with owners := [(0, 512)] }) s
def fullRegs (s : State) : State := onCore (fun k => { k with
  copyRegs := List.replicate 4 { form := .cpy, core := 512, ctx := 1, slot := 0, tag := 0, id := 0, pc := 0, dst := 0, src := 0, len := 8, td := td0 } }) s

theorem witness_CopyForms : Iss (home tCpy) tCpy ∧ Iss (ring (ownQ (home tCpy))) tCpy ∧ Iss (fullRegs (home tCpy)) tCpy
    ∧ (let s := ring (ownQ (home tCpy))
      let q : CopyDesc := { len := 0x100 }
      let d := CopyDesc.ofBytes (((recordAt s 512 tCpy (B 0x1000) 32).map (·.1)).getD 0)
      let rows := fun (a : Word) (x y : Int) => (rowStarts a.toNat x y d.n1 d.n2).map fun p => (p, d.len)
      rdy (home tCpy) tCpy [.g 9, .g 10, .g 11] [.g 7] ∧ q.ok (CopyShape.cpy .d1) (B 0x4000) = true ∧ ({ len := 0x101 } : CopyDesc).ok (CopyShape.cpy .d1) (B 0x4000) = false
      ∧ (runsAt (home tCpy) 512 th [((B 0x3000).toNat, 0x100)] rR).isSome = true ∧ (runsAt (home tCpy) 512 th [((B 0x4000).toNat, 0x100)] rW).isSome = true
      ∧ (recordAt s 512 tCpy (B 0x1000) 32).isSome = true ∧ d.ok (CopyShape.ring .d2) (B 0x4000) = true
      ∧ (runsAt s 512 th (rows (B 0x3000) d.ss1 d.ss2) rR).isSome = true
      ∧ (runsAt s 512 th (ringRuns (B 0x4000).toNat (256 * d.rstart) (2 ^ d.rlog) d.total) rW).isSome = true
      ∧ d.ac = true ∧ s.closed (s.ctxOf 512) (512 + d.score) = false ∧ tCpy.sb = [] ∧ tCpy.twin = none
      ∧ (s.core 512).copyRegs.length < 4 ∧ 4 ≤ ((fullRegs (home tCpy)).core 512).copyRegs.length) :=
  ⟨issues_of (by decide +kernel), issues_of (by decide +kernel), issues_of (by decide +kernel), by decide +kernel⟩

def tKse : Thread := regs [(9, B 0x1000), (10, B 0x2000), (11, B 0x3000), (12, 100)]
def kcmd : KseCmd := { form := .kbuild, core := 512, slot := 0, ctx := 1, tag := 0, pc := 0, a := B 0x1000, b := 0, c := 0, entry := 0, td := td0 }
def kseOf (l : List KseCmd) (s : State) : State := s.updKse 64 fun q => { q with queue := l }

theorem witness_KeyStoreForms : Iss (home tKse) tKse ∧ Iss (kseOf (List.replicate 4 kcmd) (home tKse)) tKse
    ∧ Continues (home (seen tKse [.val 0, .val 55])) 512 0 (seen tKse [.val 0, .val 55]) 0 line0
    ∧ Continues (home (seen tKse [.val 0, .val 0x0007200000000000000ABC])) 512 0 (seen tKse [.val 0, .val 0x0007200000000000000ABC]) 0 line0
    ∧ TdReady (home tKse) 512 td0
    ∧ (let s := home tKse
      rdy s tKse [.g 9, .g 10, .g 11] [] ∧ rdy s tKse [.g 9] [] ∧ (operandsAt s 512 th [(B 0x1000, 64, 1, rR), (B 0x2000, 64, 64, rR ||| rW)]).isSome = true
      ∧ (operandsAt s 512 th [(B 0x1000, 64, 64, rR ||| rW)]).isSome = true ∧ (operandsAt s 512 th [(B 0x1000, 32, 32, rR)]).isSome = true
      ∧ tKse.sb = [] ∧ tKse.twin = none ∧ (s.cluster 64).kse.queue = [] ∧ ((kseOf (List.replicate 4 kcmd) s).cluster 64).kse.queue.length = 4
      ∧ rdy s tKse [.g 9, .g 10, .g 11, .g 12] [.g 12] ∧ tKse.replies = [] ∧ sramBase ≤ (B 0x3000).toNat
      ∧ (operandsAt s 512 th [(B 0x1000, 64, 64, rR), (B 0x2000, 64, 1, rR), (B 0x3000, 4, 400, rW)]).isSome = true ∧ lined s tKse
      ∧ (55 : Vec).extractLsb' 64 8 = 0#8 ∧ (0x0007200000000000000ABC : Vec).extractLsb' 64 8 ≠ 0#8) :=
  ⟨issues_of (by decide +kernel), issues_of (by decide +kernel), continues_of (by decide +kernel), continues_of (by decide +kernel), td0_ready _, by decide +kernel⟩

/-- This chip is 0; chip 3 is reached through port 2. -/
def net (s : State) : State := { s with routing := [(0, 4), (3, 2)], ports := [(2, { up := true, neighbour := some 3 })] }
def tInv : Thread := regs [(9, 0x1233), (10, B 0x1000), (11, 0x800000)]
/-- The move of an invocation card: 8 KB to offset 1 of a slot of 16 KB. -/
def move0 : Vec := BitVec.ofNat 512 ((sramBase + 0x8000) + (3 + 14 * 2 ^ 20) * 2 ^ 64 + 2 ^ 128 + 0x2000 * 2 ^ 160)
def tCard (st : Vec) : Thread := { seen (regs [(9, 3), (10, B 0x1000)]) [.val 0, .val move0, .val 0, .val st] with heldEntry := some 4 }

theorem witness_InvocationForms : Iss (net (home tInv)) tInv ∧ Iss (home tInv) tInv ∧ TdReady (home tInv) 512 td0
    ∧ Continues (home (seen tInv [.val 0, .val 5])) 512 0 (seen tInv [.val 0, .val 5]) 0 line0
    ∧ Continues (home (tCard 0)) 512 0 (tCard 0) 0 line0 ∧ Continues (home (tCard 2)) 512 0 (tCard 2) 0 line0
    ∧ (let s := net (home tInv)
      rdy s tInv [.g 9] [.g 7] ∧ (0x800000 : Word) &&& 0xFFFFFFFFF0C00000#64 ≠ 0 ∧ (0x1233 : Word) &&& 0xFFFFFFFFF0C00000#64 = 0 ∧ tInv.sb = [] ∧ tInv.outst = 0
      ∧ tInv.twin = none ∧ tInv.replies = [] ∧ s.reachable 3 = true ∧ s.reachable 0 = true ∧ (home tInv).reachable 3 = false ∧ lined s tInv
      ∧ (let c := home (tCard 0)
        let f := fun (i : Nat) (n : Nat) => move0.extractLsb' i n
        rdy c (tCard 0) [.g 9, .g 10] [.g 7] ∧ (3 : Word) &&& 0xFFFFFFFFF0C00000#64 = 0 ∧ (tCard 0).sb = [] ∧ (B 0x1000).toNat % 32 = 0
        ∧ (accessesAt c 512 th [(B 0x1000, rR), (B 0x1020, rR)]).isSome = true ∧ f 136 24 = 0 ∧ f 192 64 = 0 ∧ (f 0 64).toNat % 8 = 0
        ∧ (f 64 64).toNat % 16 = 3 ∧ f 64 64 &&& 0xFFFF0000FE00C000#64 = 0 ∧ (f 160 32).toNat ≠ 0 ∧ (f 160 32).toNat % 4096 = 0
        ∧ 4096 * (f 128 8).toNat + (f 160 32).toNat ≤ 2 ^ ((f 64 64).toNat / 2 ^ 20 % 32)
        ∧ (runsAt c 512 th [((f 0 64).toNat, 0x2000)] rR).isSome = true ∧ (c.core 512).copyRegs.length < 4)) :=
  ⟨issues_of (by decide +kernel), issues_of (by decide +kernel), td0_ready _, continues_of (by decide +kernel), continues_of (by decide +kernel),
    continues_of (by decide +kernel), by decide +kernel⟩

def slotCfg (b : Nat) (s : State) : State := put 0x1000 16 ((sramBase + 0x10000) + b * 2 ^ 64) s
def slotAt (n : Nat) (st : LzSt) (s : State) : State := { s with lz := [(16 * 512 + n, { addr := B 0x10000, log := 14, sem := 0, srcm := 8, tag := 0, st := st })] }
def tLz : Thread := regs [(9, B 0x1000), (10, B 0x2000), (11, 0x4000), (12, 3), (13, Word.ofNat (3 + 14 * 2 ^ 20))]

theorem witness_LandingSignalForms : Iss (net (home tLz)) tLz ∧ TdReady (home tLz) 512 td0
    ∧ Continues (home (seen tLz [.val 0, .val 9])) 512 0 (seen tLz [.val 0, .val 9]) 0 line0
    ∧ (let s := net (home tLz)
      let cfg := fun (s : State) => LzSlot.ofWords (s.word (sramAt 128 0x1000)) (s.word (sramAt 128 0x1008))
      let good := slotCfg (14 + 2 ^ 7) s
      rdy s tLz [.g 9] [.g 7] ∧ tLz.replies = [] ∧ (recordAt good 512 tLz (B 0x1000) 16).isSome = true ∧ (cfg good).2 = true ∧ (cfg (slotCfg 11 s)).2 = false
      ∧ (cfg good).1.addr = B 0x10000 ∧ region 0 (B 0x10000) = .sram 0 0x10000 ∧ sramAt 128 0x10000 / 2 ^ 21 = quadOf 512
      ∧ inSpill (sramAt 128 0x10000 + 2 ^ 14 - 1) = false
      ∧ (slotAt 2 (.reserved 1 2) good).lz.get? (16 * 512 + 2) = some { addr := B 0x10000, log := 14, sem := 0, srcm := 8, tag := 0, st := .reserved 1 2 }
      ∧ ((slotAt 3 .free good).lz.any fun q => q.1 / 16 == 512 && q.1 != 16 * 512 + 2 && q.2.overlaps (cfg good).1) = true
      ∧ issues (slotAt 3 .free good) 512 0 tLz 0 = true
      ∧ (3 : Word) &&& 0xFFFFFFFFFFF0C000#64 = 0 ∧ (0x4000 : Word) &&& 0xFFFFFFFFFFF0C000#64 ≠ 0 ∧ (0x4000 : Word) &&& 0xFFFF0000FE00C000#64 ≠ 0
      ∧ s.reachable 3 = true ∧ (home tLz).reachable 3 = false ∧ lined s tLz
      ∧ rdy s tLz [.g 13, .g 10, .g 11] [.g 7] ∧ tLz.g[13] &&& 0xFFFF0000FE00C000#64 = 0 ∧ 0x4000 ≤ 2 ^ (tLz.g[13].toNat / 2 ^ 20 % 32)
      ∧ (B 0x2000).toNat % 8 = 0 ∧ (runsAt s 512 th [((B 0x2000).toNat, 0x4000)] rR).isSome = true ∧ tLz.sb = [] ∧ tLz.twin = none
      ∧ (s.core 512).copyRegs.length < 4
      ∧ rdy s tLz [.g 9, .g 10] [] ∧ (B 0x1004).toNat % 8 ≠ 0 ∧ placed s (B 0x1000) rAll = some (.sram (sramAt 128 0x1000)) ∧ tLz.outst < 65535
      ∧ s.sigupdWaits 512 0 s.ownChip = false ∧ placed s (B 0x1000) rR = some (.sram (sramAt 128 0x1000)) ∧ tLz.run = .ready ∧ 0 < tLz.wlim) :=
  ⟨issues_of (by decide +kernel), td0_ready _, continues_of (by decide +kernel), by decide +kernel⟩

def trig1 (st : TrigSt) (s : State) : State := { s with
  triggers := [(4, { w0 := Word.ofNat (2 ^ 58 + 2 ^ 48 + 2 ^ 63), value := 0x3F800000, en := true, st := st })] }
def tTrig : Thread := regs [(9, 0x3F800000), (10, 0x3F000000), (11, 0x50007), (12, 1), (13, 0x100000005), (14, 300), (15, 4)]
def waker (s : State) : State := onCtx (fun x => { x with wakeRight := true }) s

theorem witness_SystemForms : Iss (home tTrig) tTrig ∧ Iss (trig1 .armed (home tTrig)) tTrig ∧ Iss (waker (home tTrig)) tTrig
    ∧ (let s := home tTrig
      let park : State := { s with migrations := [{ ctx := 1, target := 0, phase := .park, tstart := 0, timeout := 0, report := 0 }] }
      let e := fun (s : State) => s.trigger 4
      let off : State := { waker s with burst := ⟨.off, none⟩ }
      let four := onCtx (fun x => { x with contracts := (List.range 4).map fun i => (i, ⟨false, 5⟩) }) (waker s)
      s.inPark 1 = false ∧ park.inPark 1 = true ∧ issues park 512 0 tTrig 0 = true ∧ tTrig.sb = [] ∧ tTrig.outst = 0 ∧ lined park tTrig
      ∧ rdy s tTrig [.g 9] [.g 7] ∧ (e s).en = false ∧ (e (trig1 .armed s)).en = true ∧ bits (e (trig1 .armed s)).w0 59 58 = 1
      ∧ bits (e (trig1 .armed s)).w0 55 48 = 1 ∧ (e (trig1 .armed s)).st = .armed ∧ (e (trig1 .cooling s)).st ≠ .armed
      ∧ (fcompare Fmt.f32 .ge 0x3F800000 0x3F800000).1 = true ∧ (fcompare Fmt.f32 .ge 0x3F000000 0x3F800000).1 = false
      ∧ rdy s tTrig [.g 11] [] ∧ ((onCtx (fun x => { x with heelDue := some 7 }) s).ctx 1).bind (·.heelDue) = some 7
      ∧ (4 : Word) &&& ~~~3#64 ≠ 0 ∧ (0x100000005 : Word) &&& ~~~0x100000003#64 ≠ 0 ∧ ((s.ctx 1).getD {}).wakeRight = false
      ∧ (((waker s).ctx 1).getD {}).wakeRight = true ∧ ((waker s).island 1).st.depth ≤ PState.idle.depth
      ∧ PState.idle.depth < (off.island 0).st.depth ∧ issues off 512 0 tTrig 0 = true ∧ lined off tTrig
      ∧ Tab.free (((waker s).ctx 1).getD {}).contracts 0 4 = some 0 ∧ Tab.free ((four.ctx 1).getD {}).contracts 0 4 = none
      ∧ issues four 512 0 tTrig 0 = true ∧ (waker s).contracts.length < 16 ∧ ((four.ctx 1).getD {}).contracts.get? 3 = some ⟨false, 5⟩) :=
  ⟨issues_of (by decide +kernel), issues_of (by decide +kernel), issues_of (by decide +kernel), by decide +kernel⟩

def three (s : State) : State := ((onCtx (fun x => { x with cores := [512, 513, 521, 514] }) s).updCore 513 fun k => { k with ctx := some 1 }).updCore 521
  fun k => { k with ctx := some 1 }
def tPair : Thread := regs [(9, B 0x1000), (10, 0x20001), (11, B 0x2000)]

theorem witness_PairRecordForms : Iss (three (home tPair)) tPair ∧ Iss (withStop 0 (recs false 0 (home tPair))) tPair
    ∧ (let s := three (home tPair)
      let r := fun (dec : Bool) (type : Nat) => (((recs dec type (home tPair)).ctx 1).getD {}).recordAt (B 0x2000)
      rdy s tPair [.g 9, .g 10] [.g 7] ∧ (recordAt s 512 tPair (B 0x1000) 64).isSome = true ∧ s.read (sramAt 128 0x1028) 8 = 0
      ∧ (let j := put 0x1000 64 recW.toNat s
        (recordAt j 512 tPair (B 0x1000) 64).isSome = true ∧ issues j 512 0 tPair 0 = true ∧ tPair.replies.length ≤ 1
        ∧ placed j (B 0x2000) rAll = some (.sram (sramAt 128 0x2000)) ∧ j.fencedAt (sramAt 128 0x2000) = false)
      ∧ ((s.ctx 1).map fun x => x.cores) = some [512, 513, 521, 514]
      ∧ 513 / 8 ≠ 521 / 8 ∧ 513 % 8 = 521 % 8 ∧ s.tilesOf 513 = s.tilesOf 521 ∧ Tab.free (s.core 513).slots 0 15 = some 0
      ∧ Tab.free (s.core 521).slots 0 15 = some 0
      ∧ rdy (home tPair) tPair [.g 11] [.g 7] ∧ tPair.sb = [] ∧ tPair.replies = [] ∧ (((home tPair).ctx 1).getD {}).recordAt (B 0x2000) = none
      ∧ (r true 0).map (fun p => (p.1, p.2.dec)) = some (0, true) ∧ (r false 1).map (fun p => p.2.type) = some 1
      ∧ (r false 0).map (fun p => (p.2.dec, p.2.type)) = some (false, 0) ∧ (r false 2).map (fun p => (p.2.dec, p.2.type)) = some (false, 2)
      ∧ ((withStop 0 (recs false 0 (home tPair))).tagged 512 3).map (fun u => (u.outst, u.cv, u.join)) = some (0, false, 0)
      ∧ ((withStop 2 (recs false 0 (home tPair))).tagged 512 3).map (·.outst) = some 2) :=
  ⟨issues_of (by decide +kernel), issues_of (by decide +kernel), by decide +kernel⟩


/-! ### Witnesses of the statements about events -/

/-- The instruction thread 0 of core 512 stands at can be executed for it. -/
noncomputable def again (s : State) : Bool := match s.thread 512 0 with
  | none => false
  | some t => decide (t.refusal = none) && !t.poisoned && match t.decoded with
    | some (.ok (o, r)) => match exec (o.instr r) { s with cur := some (512, 0) } with
      | .next _ => true
      | _ => false
    | _ => false

theorem reissues_of {s : State} (h : again s = true) : ∃ s', Reissues s 512 0 s' := by
  unfold again at h
  split at h
  · cases h
  rename_i t ht
  simp only [Bool.and_eq_true, decide_eq_true_eq, Bool.not_eq_true'] at h
  obtain ⟨⟨h1, h2⟩, h3⟩ := h
  split at h3
  · rename_i o r hd
    split at h3
    · rename_i s' he
      exact ⟨s', t, o, r, ht, h1, h2, hd, he⟩
    · cases h3
  · cases h3

/-- A line whose first instruction has head h and the 32-bit tail tl, and a thread of it parked on a wait. -/
def lineOf (h : BitVec 16) (tl : Nat) : Vec := BitVec.ofNat 512 (0x1000 + h.toNat * 2 ^ 16 + 0x0400 * 2 ^ 32 + tl * 2 ^ (512 - 32))
def pk (h : BitVec 16) (tl : Nat) (w : Wait) (lim n : Nat) : Thread := { th with run := .parked w lim n, line := some ⟨sramBase / 64, lineOf h tl⟩ }
def at0 (h : BitVec 16) (tl : Nat) (t : Thread) : State := put 0 64 (lineOf h tl).toNat (home t)
/-- kwait k2, g1; join [g5]; ld.b g7, [g5 + 0]; ldsync g7, [g5]. -/
def kwaitT (n : Nat) : Thread := pk 0xCC02 (1 * 2 ^ 27 + 2 * 2 ^ 11 + 2) .sem 10 n
def joinT : Thread := pk 0xC002 (5 * 2 ^ 27 + 2 ^ 11) (.join (B 0x1000)) 0 0
def ldT (w : Wait) : Thread := pk 0x60E2 (5 * 2 ^ 27 + 30 * 2 ^ 22 + 3 * 2 ^ 11) w 0 0
def ldsyncT : Thread := pk 0x70E2 (5 * 2 ^ 27) (.sync true) 5 0
def atLd (w : Wait) : State := at0 0x60E2 (5 * 2 ^ 27 + 30 * 2 ^ 22 + 3 * 2 ^ 11) (ldT w)
def req0 : Req := { src := .thread 512 0, ctx := 1, addr := B 0x1000, acc := .read 8 }
def reqs (r : Req) (s : State) : State := { s with reqs := [(5, r)] }
def syncR : Req := { req0 with acc := .sync .ldsync 0 }
/-- Page 0 of tenant 0's window mapped through three table levels in DRAM, by the leaf w0. -/
def mapped (w0 : Nat) (s : State) : State :=
  let e := fun (s : State) (a v : Nat) => s.write (dramBase + a) 8 v
  { e (e (e s 0x100000 0x110013) 0x110000 0x120013) 0x120000 w0 with roots := [(0, 0x100000)] }

theorem witness_MemoryEvents :
    (∃ s', Reissues (at0 0xCC02 (1 * 2 ^ 27 + 2 * 2 ^ 11 + 2) (kwaitT 9)) 512 0 s') ∧ (∃ s', Reissues (at0 0xC002 (5 * 2 ^ 27 + 2 ^ 11) joinT) 512 0 s')
    ∧ (∃ s', Reissues (atLd .request) 512 0 s') ∧ (∃ s', Reissues (at0 0x70E2 (5 * 2 ^ 27) ldsyncT) 512 0 s')
    ∧ (let s := at0 0xCC02 (1 * 2 ^ 27 + 2 * 2 ^ 11 + 2) (kwaitT 9)
      s.thread 512 0 = some (kwaitT 9) ∧ (kwaitT 9).run = .parked .sem 10 9 ∧ s.coreOn 512 = true ∧ s.moving 512 = false ∧ Wait.sem.polls = true
      ∧ (s.core 512).cycle % 16 = 0 ∧ (kwaitT 9).readyAt ≤ (s.core 512).cycle ∧ Wait.sem.counted = true
      ∧ (ldT .request).ownStep = false ∧ (kwaitT 9).ownStep = true ∧ joinT.run = .parked (.join (B 0x1000)) 0 0
      ∧ (atLd (.plb (B 0x1000))).thread 512 0 = some (ldT (.plb (B 0x1000))) ∧ (s.ctx (s.ctxOf 512)).isSome = true
      ∧ region 0 (Word.ofNat sramBase) = .sram 0 0 ∧ ctx1.phys 0 0 = some (sramAt 128 0) ∧ s.fencedAt (sramAt 128 0) = false
      ∧ (reqs { req0 with st := .answered (.val 77) } (atLd .request)).reqs.get? 5 = some { req0 with st := .answered (.val 77) }
      ∧ (let u := reqs { syncR with st := .answered (.err 0) } (at0 0x70E2 (5 * 2 ^ 27) ldsyncT)
        u.syncReq 512 0 = some (5, { syncR with st := .answered (.err 0) }) ∧ ldsyncT.twin = none))
    ∧ (let t : Thread := { th with sb := [.store (B 0x1008) 0x00112233445566778899AABBCCDDEEFF 0xF0F (B 0x1008)], fenceLeft := 1 }
      let f : Thread := { th with sb := [.marker .fab] }
      let s := mapped 0x200003 (reqs { req0 with addr := 0x1000 } (word1 true (home th)))
      region 0 (B 0x1008) = .sram 0 0x1008 ∧ ctx1.phys 0 0x1008 = some (sramAt 128 0x1008) ∧ Mem.wf (home t).mem = true ∧ f.outst = 0 ∧ f.cmpq = []
      ∧ (let p := { t with twin := some (520, 0, true) }; (home p).thread 512 0 = some p ∧ p.twin.isSome = true ∧ p.cmpq.length < 16)
      ∧ (let r := reqs { req0 with acc := .amo .add true true false 5 0 } (word1 true (home th))
        r.sramOf { req0 with acc := .amo .add true true false 5 0 } = some (sramAt 128 0x1000) ∧ r.fencedAt (sramAt 128 0x1000) = false)
      ∧ (let u := fun (full : Bool) => reqs syncR (word1 full (home { th with run := .parked (.sync true) 5 0 }))
        (u true).syncReq 512 0 = some (5, syncR) ∧ ((u true).syncStep (sramAt 128 0x1000) .ldsync 0).isSome = true
        ∧ ((u false).syncStep (sramAt 128 0x1000) .ldsync 0).isNone = true)
      ∧ region 0 0x1000 = .paged (Word.ofNat (windowBase + 0x1000)) ∧ (s.translate (Word.ofNat (windowBase + 0x1000))).1 = .dram (dramBase + 0x201000)
      ∧ s.selfRefresh = false ∧ ((mapped 0x80000007 s).translate (Word.ofNat (windowBase + 0x1000))).1 = .host 0x80001000
      ∧ isAmo (.amo .add true true false 5 0) = true
      ∧ (let str : Stream := { str0 with pos := 2, ahead := [1, 2, 3] }
        str.ahead.length < 4 ∧ str.pos + str.ahead.length < str.total ∧ (str.addr (str.pos + str.ahead.length)).toNat % 64 = 0
        ∧ ((home th).fill ctx1 (B 0x1140)).any (fun e => decide (e.rights &&& rR = rR)) = true)) :=
  ⟨reissues_of (by decide +kernel), reissues_of (by decide +kernel), reissues_of (by decide +kernel), reissues_of (by decide +kernel),
    by decide +kernel, by decide +kernel⟩

def shape0 : Shape := .ofWords (B 0x4000) (8 * 2 ^ 32) (2 + 4 * 2 ^ 16 + 2 ^ 32 + 5 * 2 ^ 48) 0
def job0 (form : MeForm) : Job := {
  form := form, core := 512, slot := 0, ctx := 1, id := 7, pc := 0, asy := true, tile := 3, a := shape0, b := shape0
  win := ⟨0, 0, 2, 4⟩, na := false, nb := false, ad := true, int := false, rm := 0, scale := 0, td := td0, own := true, twin := none }
def meAt (cycle : Nat) (m : Me) : State := { onCore (fun k => { k with jc := 8, jobs := [(7, 0)], cycle := cycle }) (home th) with clusters := [(64, { me := m })] }
def copy0 : Copy := {
  form := .cpy, core := 512, ctx := 1, slot := 0, tag := 2, id := 9, pc := 0, dst := B 0x4000, src := B 0x1000, len := 0x100, td := td0
  progress := [{ target := 512 }] }
def copying (q : Copy) : State := ((home th).updCe 64 fun e => { e with copies := [q] })

theorem witness_MatrixCopyEvents : TdReady (meAt 0 {}) 512 td0
    ∧ (let m : Me := { jobs := [job0 .mma] }
      let s := meAt 0 m
      let r : Me := { m with running := some (512, 7, 40) }
      m.running = none ∧ m.gated = false ∧ m.fenced = false ∧ s.engineOn 64 = true ∧ s.mayStart 512 = true ∧ m.latch.get? 3 = none
      ∧ ({ m with latch := [(3, 0x41#8)] } : Me).latch.get? 3 = some 0x41#8
      ∧ r.jobs.find? (fun k => k.core == 512 && k.id == 7) = some (job0 .mma) ∧ ((meAt 39 r).core 512).cycle < 40 ∧ 40 ≤ ((meAt 40 r).core 512).cycle
      ∧ (meAt 40 r).ctx 1 = some ctx1 ∧ (meAt 40 r).jobBlocked (job0 .mma) ctx1 = false
      ∧ ({ meAt 40 r with fencedBlocks := [sramAt 128 0x4000 / 4096] } : State).jobBlocked (job0 .mma) ctx1 = true
      ∧ (mfmt shape0.fmt).isSome = true ∧ s.mgmt.meidle ≠ 0
      ∧ s.clusterNs 64 s.mgmt.meidle ≤ ((1000000 : Word) - 0).toNat)
    ∧ (let s := onCore (fun k => { k with cycle := 15, copyRegs := [copy0] }) (home th)
      let q : Copy := { copy0 with started := true }
      let d : Copy := { q with progress := [{ target := 512, done := 32 }] }
      (s.core 512).cycle % 16 = 15 ∧ (s.core 512).completions = [] ∧ (s.core 512).copyRegs = [copy0] ∧ s.inFlight 512 < 64
      ∧ ((copying copy0).cluster 64).ce.copies.find? (fun x => x.core == 512 && !x.started) = some copy0
      ∧ (copying q).copyOf 64 512 9 = some q ∧ q.unitDue 0 = true ∧ q.finished = false ∧ d.finished = true ∧ (copying d).copyOf 64 512 9 = some d
      ∧ (((copying q).places 1 ctx1 rR (q.sources 0)).1.all fun p => match p.2 with
        | .die _ => true
        | _ => false) = true
      ∧ (((copying q).places 1 ctx1 rW (q.dests 0 (q.sources 0).length)).1.all fun p => match p.2 with
        | .die _ => true
        | _ => false) = true
      ∧ ((q.sources 0).zip (List.range 32)).all (fun p => (q.overwrites ctx1 p.1 (8 * p.2)).isEmpty) = true ∧ (q.sources 0).length = 32 ∧ q.unit = 256
      ∧ q.asked = [] ∧ (copying q).live 1 = true ∧ (onCtx (fun x => { x with dead := true }) (copying q)).live 1 = false) :=
  ⟨td0_ready _, by decide +kernel, by decide +kernel⟩


def kseS (c : KseCmd) (r : Option Nat) : State := (home th).updKse 64 fun q => { q with queue := [c], running := r, bank := [(0, { ctx := 1 })] }
def kseEnv (s : State) (c : KseCmd) : KseEnv := { s := s, x := ctx1, cmd := c, cluster := 64, replay := [], skip := 0, got := none }

theorem witness_KeyStoreEngineEvents : TdReady (kseS kcmd none) 512 td0
    ∧ (let s := kseS kcmd none
      let w : KseCmd := { kcmd with td := ⟨7, 5, 0, 0⟩ }
      let p : KseCmd := { kcmd with form := .ksproj }
      let r := kseS kcmd (some 512)
      let e := fun (s : State) (c : KseCmd) => KseM.run (kseEnv s c)
      (s.cluster 64).kse.running = none ∧ (s.cluster 64).kse.fenced = false ∧ s.engineOn 64 = true ∧ (s.cluster 64).kse.queue = [kcmd]
      ∧ s.mayStart 512 = true ∧ kcmd.aside = none ∧ kcmd.form = .kbuild ∧ w.td.wt ≠ 0
      ∧ (Tab.getD ((sem7 5 true (kseS w none)).core 512).sems 7 {}).p = true
      ∧ r.heel.freeze ≠ .frozen ∧ (r.island 1).st = .active ∧ (r.cluster 64).kse.queue.find? (fun c => c.core == 512) = some kcmd ∧ r.ctx 1 = some ctx1
      ∧ (match e (put 0x1000 8 0x40040 r) p with
        | .ok _ _ => true
        | _ => false) = true
      ∧ (match e r kcmd with
        | .error (.fault _ _ _) _ => true
        | _ => false) = true
      ∧ (match e (mapped 1 r) { p with a := 0x1000 } with
        | .error (.absent _ _) _ => true
        | _ => false) = true) := ⟨td0_ready _, by decide +kernel⟩

/-- An invocation of handler 2, with priority 5 at most, as another chip sends it, and a landing slot of 16 KB open to chip 3. -/
def call0 : InvPacket := { chip := 3, ctx := 2, tag := 44, header := 0x6000020, args := [1, 2, 3, 4, 5, 6], sealedCtx := false, tiles := 2 }
def hand0 : Handler := { hpc := 64, en := true, srcm := 8, vca := 0, sd := 1, pmax := 5, ctx := 1 }
def invq (h : Handler) (q : List Invocation) (s : State) : State := { s with qs := { s.qs with handlers := [(2, h)], inv := [(5, q)] } }
def inv0 : Invocation := { key := 1, pkt := call0 }
def slotOf (st : LzSt) : LzSlot := { addr := B 0x10000, log := 14, sem := 3, srcm := 8, tag := 0, st := st }
def slotted (st : LzSt) : State := { net (home th) with lz := [(16 * 512 + 2, slotOf st)] }
def token (check : Nat) : Word := fields [(check, 32), (14, 20), (2, 16), (512, 4), (0, 0)]
def sig0 : Req := { src := .store 512 0 3, ctx := 1, addr := B 0x1000, acc := .signal .add 5 }
/-- rinv g7, g9, waiting for its answer: head 0xF8E3, A = 9. -/
def rinvT : Thread := { pk 0xF8E3 0 .answer 0 0 with
  line := some ⟨sramBase / 64, BitVec.ofNat 512 (0x1000 + 0xF8E3 * 2 ^ 16 + 0x0400 * 2 ^ 32 + 0x41012000000 * 2 ^ (512 - 64))⟩
  heldEntry := some 4, replies := [.val 0] }

theorem witness_FabricEvents : (∃ s', Reissues ((home rinvT).setThread 512 0 { rinvT with replies := [.val 0, .err 0x21#8] }) 512 0 s')
    ∧ (let s := invq hand0 [] (home th);
      call0.chip ≠ s.ownChip ∧ s.qs.handlers.getD (bits call0.header 15 4) {} = hand0 ∧ hand0.en = true ∧ ({ hand0 with en := false } : Handler).en = false
      ∧ s.ctx 1 = some ctx1 ∧ ctx1.dead = false ∧ hand0.vca < ctx1.width ∧ hand0.srcm.getLsbD 3 = true ∧ (0 : BitVec 16).getLsbD 3 = false
      ∧ call0.sealedCtx = ctx1.sealed ∧ 64 ≤ ((invq hand0 (List.replicate 64 inv0) s).qs.inv.getD 5 []).length ∧ (s.qs.inv.getD 5 []).length < 64
      ∧ rinvT.run = .parked .answer 0 0 ∧ rinvT.heldEntry = some 4 ∧ rinvT.twin = none ∧ (home rinvT).localInv = []
      ∧ (let p : InvPacket := { call0 with chip := 0, header := 3 }
        ({ home rinvT with localInv := [(512, 0, p)] } : State).localInv.find? (fun e => e.1 == 512 && e.2.1 == 0 && bits e.2.2.header 3 0 != (home rinvT).ownChip)
          = some (512, 0, p))
      ∧ ((slotted .free).portTo 3).isSome = true
      ∧ (slotted .free).lz.get? (16 * 512 + 2) = some (slotOf .free) ∧ ((slotted .free).core 512).fenced = false
      ∧ (slotted .free).isPlinth 512 = false ∧ ((slotted .free).core 512).ctx.isSome = true ∧ (slotOf .free).srcm.getLsbD 3 = true
      ∧ (slotOf .free).srcm.getLsbD 4 = false ∧ (slotOf (.reserved 3 77)).st ≠ .free ∧ (fields [(2, 16), (512, 4)]).toNat / 16 % 1024 = 512
      ∧ token 77 ≠ token 78 ∧ (token 77).toNat / 16 % 1024 = 512 ∧ (token 77).toNat / 2 ^ 16 % 16 = 2
      ∧ region 0 (B 0x10000 + Word.ofNat 0x1000) = .sram 0 0x11000 ∧ 0x1000 + 3 ≤ 2 ^ (slotOf .free).log ∧ (slotOf .free).streams = []
      ∧ ((slotted .free).core 512).partners = [] ∧ (slotted .free).fencedAt (sramAt 128 0x11000) = false
      ∧ 1000000 ≤ ((1000005 : Word) - 5).toNat ∧ (reqs sig0 (home th)).sramOf sig0 = some (sramAt 128 0x1000) ∧ sig0.st = .queued) :=
  ⟨reissues_of (by decide +kernel), by decide +kernel⟩

def emptyCore (f : Core → Core) : State := { home th with cur := none, cores := [(512, f { core0 with slots := [] })] }
def saved0 : Saved := { th := th, eligible := some 0, prio := 3 }
def full15 (f : Nat → Thread) : State := { home th with time := 3000
                                                        cores := [(512, { core0 with slots := (List.range 15).map (fun i => (i, f i)), deque := [{ rec0 with prio := 3 }] })] }
def thieves (dq : List TaskRec) (hw : Nat) : State := onCtx (fun x => { x with cores := [512, 513] })
  { home th with cores := [(512, { core0 with slots := [] }), (513, { core0 with slots := [(0, th)], deque := dq, dequeHw := hw })] }
def quad2 (l : Tab Thread) : State := { home th with
  burst := ⟨.active, none⟩, cores := [(8, { gated := true }), (9, { gated := true, ctx := some 1, slots := l }), (10, { gated := true }), (11, { gated := true })] }
def pairOf (p : Bool) (e : CmpEntry) : Thread := { th with twin := some (if p then (520, 1, true) else (512, 0, false)), cmpq := [e] }
def read8 : CmpEntry := .access (B 0x1000) (.read 8) (B 0x1000)
def store8 : CmpEntry := .store (B 0x1008) 5 0xFF (B 0x1008)
/-- Core 512 in a context with a trap area of 2^l slots, thread t in slot 0. -/
def area (l : Nat) (t : Thread) : State := onCtx (fun x => { x with trbase := B 0x2000, trlog := l }) (home t)

/-- A state in which thread 0 of core 512 stops, and a slot of the trap area is free, at depth 0 and 4; one without a free slot. -/
theorem witness_CoreEvents_stops :
    (let s := area 6 th
      let x := (s.ctx 1).getD {}
      let deep := area 6 { th with depth := 4 }
      s.thread 512 0 = some th ∧ s.ctxOf 512 = 1 ∧ (s.ctx 1).isSome = true ∧ x.recs.free 0 (2 ^ x.trlog) = some 0 ∧ s.areaWaits x 0 = false
      ∧ s.recordAddr x 0 = some (sramAt 128 0x2000) ∧ InboxItem.reserved 512 0 ∉ (s.core 512).inbox ∧ Mem.wf s.mem = true ∧ stop0.type = 0 ∧ th.depth < 4
      ∧ 0 < (s.core 512).emptySlots ∧ (s.core 512).inboxRoom 1 = true ∧ (deep.thread 512 0).map (·.depth) = some 4
      ∧ s.thread 512 15 = none ∧ 2 ≤ ({ stop0 with type := 3 } : Stop).type)
    ∧ (let s := onCtx (fun x => { x with recs := [(0, { core := 512, slot := 3, thread := true, type := 0, depth := 1, since := 0 })] }) (area 0 th)
      let x := (s.ctx 1).getD {}
      s.thread 512 0 = some th ∧ x.recs.free 0 (2 ^ x.trlog) = none ∧ (512, 0) ∉ x.waiting) := by decide +kernel

theorem witness_CoreEvents :
    (let d := emptyCore fun k => { k with deque := [rec0] }
      let i := emptyCore fun k => { k with inbox := [.task { rec0 with ctx := 5 }, .task rec0] }
      let r := emptyCore fun k => { k with saved := [(16, saved0)] }
      let dc := (d.core 512).dropForeign 1
      (d.nextLaunch 512).map (·.2) = some (.deque 0) ∧ ((emptyCore fun k => { k with hits := [rec0] }).core 512).hits = [rec0] ∧ dc.inbox = (d.core 512).inbox ∧ (i.nextLaunch 512).isSome = true
      ∧ ((i.core 512).dropForeign 1).inbox ≠ (i.core 512).inbox ∧ (r.nextLaunch 512).map (·.2) = some (.resume 16)
      ∧ ((emptyCore fun k => { k with backoff := some 9, cycle := 9 }).core 512).backoff.isSome = true)
    ∧ (let one := thieves [{ rec0 with lend := true }] 1;
      (one.idleThief 512).isSome = true ∧ one.victim 512 513 = true ∧ ((one.core 513).stealDeque 0).isSome = true
      ∧ ((thieves [] 0).core 513).stealDeque 0 = none ∧ ((thieves [] 0).idleThief 512).isSome = true)
    ∧ (let q := quad2 [(2, th)];
      (∃ x ∈ [0, 1, 2, 3], ((home th).core (8 + x)).gated = false) ∧ (∀ x ∈ [8, 9, 10, 11], (q.core x).gated = true) ∧ 500 < q.mhz 2
      ∧ (q.core 9).slots = [(2, th)] ∧ (q.core 9).canEvict = true ∧ q.isPlinth 9 = false ∧ (quad2 []).cores.all (fun c => c.2.slots == []) = true)
    ∧ (let p := full15 fun i => if i = 4 then joinT else th
      let l := full15 fun i => if i = 4 then { th with prio := 1 } else th
      (p.core 512).canEvict = true ∧ (p.core 512).emptySlot = none ∧ (p.core 512).candidates ≠ [] ∧ p.mgmt.pevict < (p.time - joinT.parkedAt).toNat
      ∧ ctx1.preempt = true ∧ (bestOf (l.core 512).candidates).map (·.2) = some 3 ∧ l.launches 512 = true
      ∧ (evictChoice ((l.unpinned 512).filter fun z => decide (z.2.2.prio < 3))).isSome = true
      ∧ th.headAbsent = false ∧ th.stopDue = none ∧ th.sb = [] ∧ th.outst = 0 ∧ th.hostWrites = false
      ∧ ((l.core 512).recordOf (.deque 0)).isSome = true)
    ∧ (let w := onCtx (fun x => { x with waiting := [(512, 3)], trbase := B 0x2000 }) (withStop 0 (home th))
      let x := (w.ctx 1).getD {}
      x.handlersDue = [] ∧ x.waiting = [(512, 3)] ∧ (x.recs.free 0 (2 ^ x.trlog)).isSome = true ∧ x.hwdt ≠ 0
      ∧ x.saved = false ∧ (let y := { x with waiting := [], notices := [(512, 15, { stop0 with type := 3 }, none)] }
        y.handlersDue = [] ∧ y.waiting = [] ∧ (y.recs.free 0 (2 ^ y.trlog)).isSome = true)
      ∧ ((((recs false 0 (home th)).ctx 1).getD {}).recs.get? 0).map (·.dec) = some false ∧ x.hwdt ≤ ((1000000000 : Word) - 0).toNat) := by decide +kernel

theorem witness_CoreEvents_pairs :
    (let s : State := { home th with cores := [(512, { core0 with slots := [(0, pairOf true read8)] }), (520, { core0 with slots := [(1, pairOf false read8)] })] };
      let u : State := { home th with cores := [(512, { core0 with slots := [(0, pairOf true store8)] }), (520, { core0 with slots := [(1, pairOf false store8)] })] }
      let cmd : CmpEntry := .invoke 3 [] 0
      CmpEntry.view read8 ≠ CmpEntry.view (.access (B 0x1000) (.read 4) (B 0x1000)) ∧ (s.performPair (512, 0) (520, 1) (pairOf true read8) read8).isSome = true
      ∧ s.thread 512 0 = some (pairOf true read8) ∧ s.thread 520 1 = some (pairOf false read8) ∧ (pairOf true read8).twin = some (520, 1, true)
      ∧ region 0 (B 0x1008) = .sram 0 0x1008 ∧ ctx1.phys 0 0x1008 = some (sramAt 128 0x1008) ∧ u.fencedAt (sramAt 128 0x1008) = false ∧ Mem.wf u.mem = true
      ∧ cmd.isStore = false) := by decide +kernel

def queue9 (f : Queue → Queue) (s : State) : State := { s with
  qs := { s.qs with queues := [(9, f { en := true, ctx := 1, logn := 4, tickets := 8, st := .idle, rd := 5, wr := 5, base := B 0x6000 })], qtbase := 0x8000 } }
/-- The descriptor of queue 9, in page 0 of tenant 0's window, with its second word. -/
def desc9 (w : Nat) (s : State) : State := (mapped 0x200003 s).write (dramBase + 0x208248) 8 w

def asked (s : State) : State := { s with reqs := [(5, { src := .queue 9, ctx := 1, addr := B 0x1000, acc := .signal .st 5, st := .answered (.val 0) })] }

theorem witness_QueueEvents :
    (let s := queue9 id (home th)
      let off := queue9 (fun x => { x with en := false, st := .off }) (home th)
      let x := s.queue 9
      x.en = true ∧ x.st = .idle ∧ 2 ^ x.logn < ((22 : BitVec 32) - x.rd).toNat ∧ ((21 : BitVec 32) - x.rd).toNat ≤ 2 ^ x.logn ∧ x.rd ≠ 21
      ∧ (desc9 0 s).queueDesc 9 = some (dramBase + 0x208240) ∧ ((desc9 0 s).word (dramBase + 0x208248)).getLsbD 32 = false
      ∧ ((desc9 0x100000000 off).word (dramBase + 0x208248)).getLsbD 32 = true ∧ ((desc9 0x100000000 off).queue 9).en = false
      ∧ bits (0x100000000 : Word) 4 0 < 4
      ∧ (let e := desc9 0x100080104 off
        let w := e.word (dramBase + 0x208248)
        e.queueDesc 9 = some (dramBase + 0x208240) ∧ w.getLsbD 32 = true ∧ (e.queue 9).en = false ∧ (e.queue 9).st = .off ∧ bits w 4 0 = 4
        ∧ bits w 26 16 = 8 ∧ bits w 15 8 = 1 ∧ e.live 1 = true)
      ∧ (off.queue 9).en = false ∧ ((queue9 (fun x => { x with st := .error }) (home th)).queue 9).st = .error
      ∧ (let r := (queue9 (fun x => { x with st := .ready, wr := 7 }) (home th)).queue 9
        r.st = .ready ∧ r.rd = 5 ∧ r.rd ≠ 7 ∧ ((5 : BitVec 32) - r.rd).toNat ≤ 2 ^ r.logn))
    := by decide +kernel

theorem witness_QueueEvents_picks :
    (let q := queue9 (fun x => { x with st := .ready, resident := true, wr := 7 }) (mapped 0x80000007 (home th))
      let h : State := q.setQueue 9 { q.queue 9 with base := 0x6000 }
      let x := h.queue 9
      x.unseen = true ∧ h.ringAtHand x = true ∧ (match (h.qsRead 1 x.packet 64 none).1 with
        | .ask => true
        | _ => false) = true
      ∧ (match (h.qsRead 1 x.packet 64 (some (.data []))).1 with
        | .got _ => true
        | _ => false) = true)
    ∧ (let v := ({ home th with qs := { (home th).qs with invNext := false } } : State).viewHeads
      v.invHead = none ∧ v.pickQueue v.headReady = none ∧ v.qs.invNext = false)
    ∧ (let r := (queue9 (fun x => { x with st := .ready, resident := true, wr := 7, head := [0] }) (home th)).viewHeads
      let b := (invq hand0 [inv0] (queue9 (fun x => { x with st := .ready, resident := true, wr := 7, head := [0] }) (home th))).viewHeads
      r.invHead = none ∧ r.pickQueue r.headReady = some 9 ∧ (r.queue 9).head = [0] ∧ r.headSleeps (r.queue 9) = false
      ∧ b.invHead.isSome = true ∧ (b.pickQueue b.headReady).isSome = true)
    ∧ (let r := queue9 (fun x => { x with st := .ready, resident := true, wr := 7, head := [0] }) (home th)
      let i := invq hand0 [inv0] (home th)
      let w := queue9 (fun x => { x with st := .wait, resident := true, wr := 7, head := [4 + 2 ^ 8, B 0x1000, 5, 0xFF] }) (home th)
      let p := queue9 (fun x => { x with st := .ready, parked := some (0x1000, 7, .ready) }) (home th)
      let q := asked (queue9 (fun x => { x with st := .ready, sent := true, wr := 7, head := [3, B 0x1000, 5, 0] }) (home th))
      r.heel.freeze = .none ∧ r.invHead = none ∧ r.pickQueue r.headReady = some 9 ∧ bits ((r.queue 9).word 0) 7 0 = 0
      ∧ i.pickQueue i.headReady = none ∧ i.invHead.isSome = true ∧ (w.queue 9).parked = none
      ∧ (match (w.qsRead 1 (B 0x1000) 8 none).1 with
        | .got [_] => true
        | _ => false) = true
      ∧ cmpHolds (cmpOf 1) (0 &&& 0xFF) 5 = false ∧ cmpHolds (cmpOf 1) (5 &&& 0xFF) 5 = true
      ∧ (p.queue 9).parked = some (0x1000, 7, .ready) ∧ 1000 * p.mgmt.fpark ≤ ((50007 : Word) - 7).toNat ∧ ((50006 : Word) - 7).toNat < 1000 * p.mgmt.fpark
      ∧ (q.queue 9).sent = true ∧ (q.reqs.find? fun p => p.2.src == .queue 9).isSome = true ∧ bits ((q.queue 9).word 0) 7 0 = 3) := by decide +kernel

def move (p : MigPhase) : Migration := { ctx := 1, target := 0, phase := p, tstart := 100, timeout := 5000, report := B 0x7000 }
def moving (p : MigPhase) (l : Tab Thread) : State := { onCtx (fun x => { x with migrating := true }) { home th with cores := [(512, { core0 with slots := l })] } with
  migrations := [move p], burst := ⟨.active, none⟩ }
def quiet : Thread := { th with run := .parked (.migpt 0) 0 0 }
def place0 : Placement := { cores := [0], slices := [0] }

theorem witness_MigrationEvents :
    (let x := ((moving .park []).ctx 1).getD {};
      (moving .park [(0, quiet)]).migration 1 = some (move .park) ∧ (moving .park []).heel.freeze = .none ∧ quiet.quiescent = true
      ∧ (moving .drain []).drained 512 = true ∧ (moving .drain []).enginesStopped 512 = true ∧ (moving .drain []).mayVacate 1 [512] = true
      ∧ ((moving .drain []).island 0).st = .active ∧ (moving .drain []).placeFits 1 0 x place0 = true ∧ (moving (.copy true) []).migration 1 = some (move (.copy true))
      ∧ (((home th).island 0).st ≠ .active ∧ ((home th).island 0).waking ≠ some .active)
      ∧ ((5099 : Word) - 100).toNat < (move .park).timeout.toNat ∧ (move .park).timeout.toNat ≤ ((5100 : Word) - 100).toNat
      ∧ (move (.done 2)).queue = none ∧ region 0 (move (.done 2)).report = .sram 0 0x7000 ∧ x.phys 0 0x7000 = some (sramAt 128 0x7000)
      ∧ (moving (.done 2) []).fencedAt (sramAt 128 0x7000) = false ∧ (move (.done 2)).parked = none ∧ (move (.done 2)).sent = 0
      ∧ ((moving (.done 2) []).reqs.find? fun r => r.2.src == .report 1) = none ∧ 8 ≤ (2 ^ 17 - (B 0x7000).toNat % 2 ^ 17) / 8
      ∧ (let m := { move (.done 2) with report := B 0x1FFF0 }
        region 0 m.report = .sram 0 0x1FFF0 ∧ x.phys 0 0x1FFF0 = some (sramAt 128 0x1FFF0) ∧ (2 ^ 17 - m.report.toNat % 2 ^ 17) / 8 < 8)
      ∧ (∃ p ∈ ((moving .park [(0, th)]).core 512).slots, p.2.quiescent = false))
    ∧ (let s : State := { home th with cores := [(512, { core0 with slots := [] })] }
      let h := onCore (fun k => { k with held := true }) s
      let o := onCtx (fun x => { x with
        saved := true, out := true, cores := [], package := { place := [512], cores := [{ ctx := some 1, slots := [(0, quiet)] }] } })
        { s with cores := [], burst := ⟨.active, none⟩ }
      let b : State := { onCtx (fun x => { x with cores := [0] }) s with cores := [(0, { core0 with slots := [], held := true })], burst := ⟨.active, none⟩ }
      let pairs := b.movers 0 8
      s.migratingCtx 1 = false ∧ s.noReservation [512] = true ∧ (s.core 512).held = false ∧ (h.core 512).held = true ∧ h.drained 512 = true
      ∧ h.enginesEmpty 512 = true ∧ o.placeFits 1 0 ((o.ctx 1).getD {}) place0 = true ∧ (o.island (islandOf 0)).st = .active
      ∧ clusterOf 0 ≠ clusterOf 8 ∧ islandOf 0 = islandOf 8 ∧ b.coreOn 8 = true ∧ b.noReservation (pairs.map (·.1)) = true
      ∧ b.mayVacate 1 (pairs.map (·.1)) = true ∧ (b.detach 1 (pairs.map (·.1))).2.fits 1 (b.detach 1 (pairs.map (·.1))).1 pairs = true
      ∧ (∀ c ∈ pairs.map (·.1), (b.core c).held = true ∧ b.drained c = true ∧ b.enginesStopped c = true)
      ∧ 1000 * s.mgmt.quiet ≤ ((100007 : Word) - 7).toNat ∧ ((100006 : Word) - 7).toNat < 1000 * s.mgmt.quiet
      ∧ ctx1.dead = false ∧ s.engineBusy 1 = false) := by decide +kernel

def isles (b w : Island) (s : State) : State := { s with burst := b, watch := w }
def on : Island := ⟨.active, none⟩
def idleT : Thread := { th with run := .parked .mail 0 0 }

theorem witness_PowerEvents :
    (let a := isles on on (home th)
      let i := isles ⟨.idle, none⟩ on (home th)
      let r := isles ⟨.retain, none⟩ on (home th)
      let w := isles ⟨.off, none⟩ on (home idleT)
      let used : State := { a with cores := [(3, { slots := [(0, idleT)] })] }
      a.forbidden 0 .idle = false ∧ a.islandIdle 0 = true ∧ a.islandCores 0 = [] ∧ used.islandIdle 0 = true ∧ used.islandCores 0 ≠ []
      ∧ i.forbidden 0 .retain = false ∧ (∀ x ∈ i.ctxs, ∀ c ∈ x.2.cores, 512 ≤ c)
      ∧ (∃ x ∈ (onCtx (fun x => { x with cores := [4] }) i).ctxs, ∃ c ∈ x.2.cores, c < 512)
      ∧ r.forbidden 0 .off = false ∧ (∀ x ∈ r.ctxs, x.2.out = false → ∀ k ∈ x.2.slices, 128 ≤ k) ∧ Mem.wf r.mem = true
      ∧ w.forbidden 1 .idle = false ∧ w.islandIdle 1 = true
      ∧ (∀ c ∈ w.islandCores 1, c.2.semDue = false ∧ (c.2.emptySlot.isSome = true → c.2.pending = false) ∧ ∀ p ∈ c.2.slots, p.2.run = .parked .mail 0 0)
      ∧ (∀ p ∈ (w.core 512).slots, p.2.asleep = true) ∧ 1000 ≤ ((9000 : Word) - w.watchUsed).toNat ∧ 1000 * a.mgmt.bidle ≤ ((60000000 : Word) - a.burstUsed).toNat
      ∧ 100000 ≤ ((200000 : Word) - r.dramUsed).toNat ∧ ((isles on on (emptyCore id)).islandBusy 0) = false
      ∧ ((isles on on { home th with cores := [(512, { core0 with slots := [] })], ctxs := [(0, {})] }).islandBusy 1) = false
      ∧ r.selfRefresh = false ∧ (r.island 0).waking = none ∧ (stateOf 0).depth < (r.island 0).st.depth ∧ (r.island 1).st.depth ≤ (stateOf 1).depth
      ∧ ((isles ⟨.off, some .idle⟩ on a).island 0).waking = some .idle ∧ (∀ k ∈ List.range 16, (a.trigger k).st ≠ .firing)
      ∧ a.mhz 5 ≤ 1200 ∧ 1200 % 25 = 0
      ∧ (({ a with requests := [(20, 1200)] } : State).requested 5 = 1200) ∧ a.boot.phase ≠ .maquette) := by decide +kernel

def trig4 (f : Trigger → Trigger) (s : State) : State := { s with triggers := [(4, f { en := true, st := .armed })] }

theorem witness_TriggerEvents :
    (let t := fun (v : Word) => trig4 (fun t => { t with src := Word.ofNat (512 + 7 * 2 ^ 10), value := v }) (sem7 5 false (home th))
      let m := put 0x1000 8 0xFF33 (trig4 (fun t => { t with w0 := Word.ofNat (2 ^ 59 + 2 ^ 48), src := B 0x1000, mask := 0xFF, value := 0x33 }) (home th))
      let w := fun (v : Word) => (trig4 (fun t => { t with st := .off, en := false }) (home th)).triggerOk { w0 := v, src := 512 }
      ((t 5).trigger 4).en = true ∧ ((t 5).trigger 4).st = .armed ∧ bits ((t 5).trigger 4).w0 59 58 = 0 ∧ (t 5).firesFirst 4 = false
      ∧ (((t 5).core 512).sem 7).v = 5 ∧ bits ((m.trigger 4).w0) 59 58 = 2 ∧ ((home th).trigger 4).en = false
      ∧ (match (m.qsRead 1 (B 0x1000) 8 none).1 with
        | .got [w] => decide (w = 0xFF33)
        | _ => false) = true
      ∧ ((trig4 (fun t => { t with st := .cooling, coolEnd := 100 }) (home th)).trigger 4).st = .cooling
      ∧ w (Word.ofNat (2 ^ 63 + 2 ^ 48)) = true ∧ w (Word.ofNat (2 ^ 63 + 2 ^ 48 + 3 * 2 ^ 58)) = false) := by decide +kernel

def heel (f : Freeze) : State := onCtx (fun x => { x with heelDue := some 3 }) { home th with heel := { (home th).heel with freeze := f, deadline := some 100 } }

theorem witness_SafetyEvents :
    ((heel .none).heel.freeze = .none ∧ (heel .freezing).heel.freeze ≠ .none ∧ (∀ k ∈ (heel .freezing).clusters, k.2.kse.running = none)
      ∧ (∀ p ∈ (heel .freezing).frozenThreads, p.2.2.stopsLater = false) ∧ (∃ k ∈ (kseS kcmd (some 512)).clusters, k.2.kse.running ≠ none)
      ∧ (∀ p ∈ (heel .frozen).frozenThreads, p.2.2.refusalDue = false) ∧ (heel .frozen).heelContexts ≠ [] ∧ (heel .none).heel.deadline = some 100 ∧ (99 : Word).toNat < (100 : Word).toNat
      ∧ unitExists (.core 3) = true ∧ unitExists (.sram 0x1000) = true) := by decide +kernel

def port2 (f : LeashPort → LeashPort) : State := { net (home th) with ports := [(2, f { up := true, neighbour := some 3 })] }
def flit0 (f : BitVec 256) : BitVec 256 := f ||| (flitCrc f).zeroExtend 256

theorem witness_LinkEvents :
    (let f := flit0 (2 ^ 35 + 2 ^ 36 + 7 * 2 ^ 38)
      let r : LeashPort := { up := true, txSeq := 8, replay := [(5, 1, 0), (6, 0, 7), (7, 2, 8)] }
      (5 : BitVec 256).extractLsb' 0 32 ≠ flitCrc 5 ∧ f.extractLsb' 0 32 = flitCrc f ∧ f.extractLsb' 34 2 = 2#2 ∧ (f.extractLsb' 38 10).toNat = 7
      ∧ (flit0 0).extractLsb' 0 32 = flitCrc (flit0 0) ∧ (flit0 0).extractLsb' 34 2 = 0#2 ∧ ((port2 id).port 2).up = true
      ∧ ((port2 fun p => { p with up := false }).port 2).up = false ∧ ((port2 id).port 2).waiting = []
      ∧ r.replay.findIdx? (fun f => f.1 == 8) = none ∧ r.replay.findIdx? (fun f => f.1 == 6) = some 1 ∧ (∀ f ∈ r.replay.take 1, f.2.2 = 0)
      ∧ (∀ f ∈ (r.replay.take 2).drop 1, f.2.2 < 8) ∧ (∀ f ∈ r.replay.drop 2, 8 ≤ f.2.2) ∧ r.replay.findIdx? (fun f => f.1 == 7) = some 2
      ∧ 10000 ≤ ((10009 : Word) - 9).toNat ∧ (port2 id).knowsItself = true ∧ (port2 id).routing.getD 3 7 = 2 ∧ (port2 id).routing.getD 4 7 ≠ 2) := by decide +kernel

def med0 : Req := { src := .thread 512 0, ctx := 1, addr := 0x1000, acc := .amo .add true true true 5 0, st := .mediated 5 }

theorem witness_HostEvents :
    (let s : State := { home idleT with reqs := [(8, med0)], host := { (home th).host with tags := [(5, { req := 8, hostAddr := 9 })], moderated := [256, 257], raised := [(256, 5)] } }
      let c : State := { home th with mgmt := { (home th).mgmt with param := Word.ofNat windowBase } }
      let b : State := { home th with mgmt := { (home th).mgmt with busy := some 0x0100000000000001 } }
      bits (2 : Word) 16 1 ≠ 0 ∧ bits (0x20001 : Word) 24 17 ≠ 0 ∧ bits (0x4000001 : Word) 16 1 = 0 ∧ bits (0x4000001 : Word) 24 17 = 0
      ∧ (home th).host.tags.get? 5 = none ∧ s.host.tags.get? 5 = some { req := 8, hostAddr := 9 } ∧ s.req 8 = some med0
      ∧ s.host.moderated.contains 256 = true ∧ (home th).host.moderated.contains 256 = false
      ∧ 1000 * s.host.fqmod.toNat ≤ (s.time - s.host.raised.getD 256 0).toNat
      ∧ bits (0x0100000000000101 : Word) 63 56 = 1 ∧ (0x0100000000000101 : Word).getLsbD 8 = true ∧ c.mgmt.busy = none
      ∧ commandAddr true c.mgmt.param = true ∧ commandAddr false c.mgmt.param = true ∧ (home th).selfRefresh = false
      ∧ (c.core 512).ctx = some (bits (1 : Word) 7 0) ∧ b.mgmt.busy ≠ none ∧ b.undrained b.mgmt.waitsFor = false ∧ c.boot.phase ≠ .maquette
      ∧ (let t : Thread := { th with sb := [.store 0 0 1 0] }; (home t).undrained [(512, 0, 1)] = true)) := by decide +kernel

def window (base : Word) (s : State) : State := { s with host := { s.host with winbase := base, winctx := 1 } }

theorem witness_WindowFlashEvents :
    (let s := window (Word.ofNat sramBase) (home th);
      winAccess 0x101000 8 = true ∧ s.winSealed = false ∧ (s.winPlace 0x101000).1 = .die (sramAt 128 0x1000) ∧ s.fencedAt (sramAt 128 0x1000) = false
      ∧ (s.winPlace 0x300000).1 = .nowhere)
    ∧ (let x := onCtx (fun x => { x with sealed := true }) (window (Word.ofNat sramBase) (home th));
      x.winSealed = true ∧ 0x2004 % 4 = 0 ∧ regActs (0x2004 / 8 * 8) = false ∧ (home th).mgmt.fbusy = false
      ∧ (home th).flashDenied 0x10400 256 = true ∧ (home th).flashDenied 0x10500 256 = false ∧ (home th).flashDenied 0x20000 65536 = false
      ∧ (home th).flashDenied 0x10000 65536 = true ∧ (home th).mgmt.abusy = false ∧ (home th).live 9 = false ∧ (home th).live 1 = true) := by decide +kernel

theorem witness_DebugEvents :
    (let a : State := { home th with mgmt := { (home th).mgmt with attach := true, dbgCtx := 1 } }
      let r := recs false 1 (withStop 0 a)
      bits (5 : Word) 63 48 ≠ 0xC0DE ∧ bits (0xC0DE000000000001 : Word) 63 48 = 0xC0DE ∧ (0xC0DE000000000002 : Word).getLsbD 1 = true
      ∧ (home th).mgmt.attach = false ∧ (home th).ctx (bits (0x101 : Word) 7 0) = some ctx1 ∧ (0x101 : Word).getLsbD 8 = true ∧ ctx1.dead = false
      ∧ (home th).ctx (bits (0x109 : Word) 7 0) = none ∧ a.mgmt.attach = true ∧ (a.core 512).ctx = some a.mgmt.dbgCtx
      ∧ bits (B 0x2001) 1 0 = 1 ∧ bits (B 0x2002) 1 0 = 2 ∧ a.debugRecord (B 0x2001) = none ∧ (r.debugRecord (B 0x2001)).isSome = true
      ∧ (r.tagged 512 3).isSome = true ∧ ((recs false 1 (withStop 2 a)).tagged 512 3).map (·.outst) = some 2 ∧ a.boot.phase ≠ .maquette) := by decide +kernel

def booting (b : Boot) : State := { home th with boot := { (home th).boot with phase := b } }
def spec0 : CtxSpec := { num := 3, tenant := 4, sealedCtx := false, place := { cores := [514, 515], slices := [129] }, tables := none, frames := []
                         granules := [(3, 5)], rights := [(5, 0xFF)]
                         trbase := Word.ofNat privateBase, trlog := 6, hpc := 0, hprio := 15, hset := [0], hwdt := 1000000, preempt := true, wakeRight := false
                         tiles := some [(64, 2, 514)], bank := [(64, 1)], root := none, handlers := [(5, 64, 3)] }

theorem witness_BootEvents :
    ((booting .held).boot.phase = .held ∧ (booting .held).bootcnt < 3 ∧ 3 ≤ ((booting .rom).setBootcnt 3).bootcnt
      ∧ armatureOk ⟨2, List.range 66, [], [], []⟩ = true ∧ armatureOk ⟨8, List.range 66, [], [], []⟩ = true ∧ armatureOk ⟨9, List.range 66, [], [], []⟩ = false
      ∧ (booting .plinth).boot.phase = .plinth ∧ 2000000000 ≤ ((2000000000 : Word) - (booting .plinth).boot.wdog).toNat
      ∧ (booting .done).boot.phase = .done ∧ (booting .done).specOk spec0 = true ∧ (booting .done).specOk { spec0 with trlog := 13 } = false
      ∧ (∀ i ∈ List.range 8, ((home th).core (8 * 63 + i)).ctx = none) ∧ (∀ f ∈ [500, 500, 600, 700, 800, 900, 1000, 1200].map (fun f => (f, 650)), 500 ≤ f.1 ∧ f.1 ≤ 1200)) := by decide +kernel

theorem witness_LittleEndian : Mem.wf (word1 true (home th)).mem = true := by decide +kernel

theorem witness_LineLayout : Mem.wf (word1 true (home th)).mem = true ∧ Exec.lineOk nops = true ∧ Exec.headCount nops = 30
    ∧ ((Exec.parcel 0xF800 0).extractLsb' 11 5).toNat = 31 ∧ ((Exec.parcel 0xF000 0).extractLsb' 11 5).toNat = 30 := by decide +kernel

theorem witness_PredicateZero : (7 : PReg) ≠ 0 ∧ (7 : PReg) ≠ 1 := by decide

theorem illegal_of {α : Type} {d : Option (Except DecodeError α)} (h : (match d with
    | some (.error .illegal) => true
    | _ => false) = true) : d = some (.error .illegal) := by
  split at h
  · rfl
  · cases h

def badLine : Thread := { th with line := some ⟨sramBase / 64, 0xF000⟩ }

theorem witness_NopAndBadHeads : Iss (home th) th ∧ (home badLine).thread 512 0 = some badLine ∧ badLine.refusal = none ∧ badLine.poisoned = false
    ∧ badLine.decoded = some (.error .illegal) :=
  ⟨issues_of (by decide +kernel), by decide +kernel, by decide +kernel, by decide +kernel, illegal_of (by decide +kernel)⟩

def due : State := { home th with agenda := [.cycle 512] }

theorem witness_StepRunsDecoded :
    (let s := due;
      s.agenda = [.cycle 512] ∧ s.boot.phase ≠ .held ∧ (s.core 512).cycle % 16 = 0 ∧ s.thread 512 0 = some th ∧ (s.core 512).evicting ≠ some 0 ∧ s.coreOn 512 = true ∧ th.run = .ready
      ∧ th.readyAt ≤ (s.core 512).cycle ∧ th.refusal = none ∧ th.poisoned = false ∧ th.line = some line0 ∧ line0.num = Exec.lineNum th.pc
      ∧ Exec.headTail line0.bytes (Exec.headIdx th.pc) = (0x0400#16, 0)) ∧ decodeHead 0x0400#16 0 = .ok (.nop 0) :=
  ⟨by decide +kernel, rfl⟩

theorem witness_DecodeEncode : (Instr.liTe 7 (.x 7) (BitVec.allOnes 64)).wf = true ∧ (encode (.liTe 7 (.x 7) (BitVec.allOnes 64))).isSome = true := ⟨rfl, rfl⟩

theorem witness_StepKeepsForm : State.reset.Inv ∧ ∃ s', step State.reset = .next s' := ⟨⟨by decide +kernel, by decide +kernel⟩, _, rfl⟩

end Sys2Proof.Tests
end

section
/-! SUPPORT. Predicate registers: what a read answers, and what a write leaves (01 R15). -/

namespace Sys2Proof.Machine
namespace Exec

theorem setPred_zero (w : BitVec 8) (b : Bool) : setPred w 0 b = w := rfl

theorem pget_zero (t : Thread) : pget t 0 = true := rfl

theorem pget_of_ne_zero (t : Thread) {p : PReg} (h : p ≠ 0) : pget t p = t.pred.getLsbD p.toNat := by
  simp only [pget, beq_eq_false_iff_ne.mpr h, Bool.false_or]

/-- The one bit that a write of predicate `p` turns on or off. -/
theorem getLsbD_predBit (p q : PReg) : (1#8 <<< p.toNat).getLsbD q.toNat = decide (q = p) := by
  have hp := p.isLt
  have hq := q.isLt
  have hext : q = p ↔ q.toNat = p.toNat := ⟨congrArg BitVec.toNat, BitVec.eq_of_toNat_eq⟩
  rw [BitVec.getLsbD_shiftLeft, BitVec.getLsbD_one, Bool.eq_iff_iff]
  simp only [Bool.and_eq_true, Bool.not_eq_true', decide_eq_true_eq, decide_eq_false_iff_not, hext]
  omega

theorem getLsbD_setPred (w : BitVec 8) {p : PReg} (hp : p ≠ 0) (b : Bool) (q : PReg) :
    (setPred w p b).getLsbD q.toNat = if q = p then b else w.getLsbD q.toNat := by
  have hq : q.toNat < 8 := q.isLt
  unfold setPred
  rw [if_neg hp]
  cases b with
  | true =>
    simp only [if_true, BitVec.getLsbD_or, getLsbD_predBit]
    by_cases h : q = p <;> simp [h]
  | false =>
    simp only [Bool.false_eq_true, if_false, BitVec.getLsbD_and, BitVec.getLsbD_not, getLsbD_predBit]
    by_cases h : q = p <;> simp [h, hq]

end Exec
end Sys2Proof.Machine
end

section
open Sys2Proof Sys2Proof.Machine Sys2Proof.Machine.Exec

/-- Settles O54: a write of p1 to p7 changes its own bit alone, and p0 is neither stored nor read. -/
theorem predicateZero : Obligations.PredicateZero := by
  unfold Obligations.PredicateZero
  intro t w b p q
  refine ⟨setPred_zero w b, pget_zero t, pget_of_ne_zero t, fun hp => ?_, fun hpq => ?_⟩
  · rw [getLsbD_setPred w hp, if_pos rfl]
  · by_cases hp : p = 0
    · rw [hp, setPred_zero]
    · rw [getLsbD_setPred w hp, if_neg (Ne.symm hpq)]
end

section
/-! SUPPORT. Bytes of memory and the little-endian values they make up (01 R28). -/

namespace Sys2Proof.Machine

namespace Mem

theorem two_pow_bytes_succ (n : Nat) : 2 ^ (8 * (n + 1)) = 256 * 2 ^ (8 * n) := by
  calc 2 ^ (8 * (n + 1)) = 2 ^ (8 * n) * 2 ^ 8 := Nat.pow_add 2 (8 * n) 8
    _ = 256 * 2 ^ (8 * n) := Nat.mul_comm _ _

theorem byte_write {n : Nat} : ∀ {m : List Host.Cell} {a v j : Nat}, wf m = true → j < n →
    byte (write m a n v) (a + j) = BitVec.ofNat 8 (v / 2 ^ (8 * j)) := by
  induction n with
  | zero => intro m a v j _ hj; omega
  | succ n ih =>
    intro m a v j h hj
    simp only [write]
    cases j with
    | zero =>
      rw [byte_write_ne (by omega)]
      simpa using byte_setByte_same h
    | succ j =>
      have hb := ih (a := a + 1) (v := v / 256) (wf_setByte h a (BitVec.ofNat 8 v)) (show j < n by omega)
      rw [show a + (j + 1) = a + 1 + j by omega, hb, Nat.div_div_eq_div_mul]
      rw [two_pow_bytes_succ]

theorem read_write {n : Nat} : ∀ {m : List Host.Cell} {a v : Nat}, wf m = true → read (write m a n v) a n = v % 2 ^ (8 * n) := by
  induction n with
  | zero => intro m a v _; simp [read, Nat.mod_one]
  | succ n ih =>
    intro m a v h
    have h0 : byte (write m a (n + 1) v) a = BitVec.ofNat 8 v := by simpa using byte_write (a := a) (v := v) h (Nat.succ_pos n)
    have ht : read (write m a (n + 1) v) (a + 1) n = v / 256 % 2 ^ (8 * n) := ih (wf_setByte h a _)
    simp only [read, h0, ht, BitVec.toNat_ofNat]
    rw [two_pow_bytes_succ, Nat.mod_mul]

/-- Byte `j` of the value that a read answers. -/
theorem read_div_mod {m : List Host.Cell} {n : Nat} : ∀ {a j : Nat}, j < n → read m a n / 2 ^ (8 * j) % 2 ^ 8 = (byte m (a + j)).toNat := by
  induction n with
  | zero => intro a j hj; omega
  | succ n ih =>
    intro a j hj
    have hb := (byte m a).isLt
    simp only [read]
    cases j with
    | zero =>
      show _ = (byte m a).toNat
      rw [Nat.mul_zero, Nat.pow_zero, Nat.div_one]
      omega
    | succ j =>
      rw [two_pow_bytes_succ, ← Nat.div_div_eq_div_mul,
        show ((byte m a).toNat + 256 * read m (a + 1) n) / 256 = read m (a + 1) n by omega, ih (by omega),
        show a + (j + 1) = a + 1 + j by omega]

end Mem

theorem State.extractLsb'_word (s : State) (b : Nat) {j : Nat} (hj : j < 8) : (s.word b).extractLsb' (8 * j) 8 = s.byte (b + j) := by
  apply BitVec.eq_of_toNat_eq
  rw [BitVec.extractLsb'_toNat, State.word, BitVec.toNat_ofNat, Nat.shiftRight_eq_div_pow]
  calc s.read b 8 % 2 ^ 64 / 2 ^ (8 * j) % 2 ^ 8
      = s.read b 8 / 2 ^ (8 * j) % 2 ^ 8 := mod_div_mod _ (by omega)
    _ = (s.byte (b + j)).toNat := Mem.read_div_mod hj

end Sys2Proof.Machine
end

section
open Sys2Proof Sys2Proof.Machine

/-- Settles O52: each byte of a write is read back where it lies, so the value is, and the bytes around it stay. -/
theorem littleEndian : Obligations.LittleEndian := by
  unfold Obligations.LittleEndian
  intro s a n v h
  exact ⟨Mem.wf_write h a n v, fun j hj => Mem.byte_write h hj, fun b hb => Mem.byte_write_ne hb, Mem.read_write h,
    fun b j => s.extractLsb'_word b j.isLt⟩
end

section
/-! SUPPORT. mfs and mts: which word an index reads, and what the writes do (01 R25; 04 R114; 17 R487). -/

namespace Sys2Proof.Machine
open Exec

namespace Exec
variable {s : State} {c k : Nat} {t : Thread} {g : Guard} {a d : Reg}

/-! ### The privilege of an index (R25) -/

theorem checkIndex_ok {e : Env} {n : Nat} (h : n < 0x80 ∨ e.s.isPlinth e.core = true) :
    EStateM.run (checkIndex n) e = .ok () e := by
  have hn : ¬(0x80 ≤ n ∧ (!e.s.privileged e.core) = true) := by
    rintro ⟨hn, hp⟩
    rcases h with h | h
    · omega
    · simp [State.privileged, h] at hp
  unfold checkIndex
  rw [bind_ok (get_ok _), if_neg hn, pure_ok]

theorem checkIndex_err {e : Env} {n : Nat} (h : 0x80 ≤ n) (hp : e.s.isPlinth e.core = false) :
    EStateM.run (checkIndex n) e = .error (.trap (mkStop e 0x08#8 0)) e := by
  unfold checkIndex
  rw [bind_ok (get_ok _), if_pos ⟨h, by simp [State.privileged, hp]⟩, trap_err]

/-- An instruction that checks a privileged index first traps with 0x08 outside the plinth column. -/
theorem traps_unprivileged {i : Instr} {n : Nat} {rest : Unit → Exec Next}
    (hx : exec i s = runThread g (checkIndex n >>= rest) s) (hi : Issues s c k t g) (hn : 0x80 ≤ n) (hp : s.isPlinth c = false) :
    TrapsWith i s c k t 0x08#8 0 :=
  traps_at_once hx hi (bind_err (checkIndex_err (e := start s c k t) hn hp))

/-! ### mfs -/

/-- The word that mfs reads at an index, on the plinth column from 0x80 on; none for a reserved one. -/
def sysWord (s : State) (c k : Nat) (t : Thread) (i : BitVec 8) : Option Word :=
  if i = 0x81#8 then some (Word.ofNat s.bootcnt) else if i = 0x80#8 then some 0 else sysRead s c k t i.toNat

theorem sysRead_reserved {n : Nat} (h : 0x14 ≤ n) : sysRead s c k t n = none := by
  obtain ⟨m, rfl⟩ := Nat.exists_eq_add_of_le' h
  rfl

theorem sysWord_reserved {i : BitVec 8} (h : 0x14 ≤ i.toNat) (h0 : i ≠ 0x80#8) (h1 : i ≠ 0x81#8) : sysWord s c k t i = none := by
  simp [sysWord, h0, h1, sysRead_reserved h]

theorem mfs_completes {i : BitVec 8} {w : Word} (hi : Issues s c k t g) (h : fieldsReady s c k t [] [d] = true)
    (hp : i.toNat < 0x80 ∨ s.isPlinth c = true) (hw : sysWord s c k t i = some w) :
    Completes (.mfs g d i) s c k (result s c k t [] d fun _ => w) (nextHead t) 1 := by
  refine form_completes (u := fun _ t => t) (val := fun _ => w) rfl (by decide) hi h keepThread fun keep pops e' hwr ho => ?_
  rw [bind_ok (checkIndex_ok (e := start s c k t) hp), bind_ok (get_ok _)]
  have hput : EStateM.run (put d w) (start s c k t) = .ok .advance e' := by
    unfold put
    rw [bind_ok ho]
    exact bind_ok hwr
  unfold sysWord at hw
  split at hw
  case isTrue h1 =>
    cases hw
    simp only [h1, if_true, bind_pure_run]
    exact hput
  case isFalse h1 =>
  split at hw
  case isTrue h0 =>
    cases hw
    simpa only [h0, if_true, reduceCtorEq, BitVec.reduceEq, if_false, bind_pure_run] using hput
  case isFalse h0 =>
    have hr : sysRead (start s c k t).s (start s c k t).core (start s c k t).slot (start s c k t).th i.toNat = some w := hw
    simpa only [h1, h0, if_false, hr, bind_pure_run] using hput

theorem mfs_reserved {i : BitVec 8} (hi : Issues s c k t g) (hp : i.toNat < 0x80 ∨ s.isPlinth c = true)
    (h : 0x14 ≤ i.toNat) (h0 : i ≠ 0x80#8) (h1 : i ≠ 0x81#8) : TrapsWith (.mfs g d i) s c k t 0x01#8 0 := by
  refine traps_at_once rfl hi ?_
  rw [bind_ok (checkIndex_ok (e := start s c k t) hp), bind_ok (get_ok _)]
  have hr : sysRead (start s c k t).s (start s c k t).core (start s c k t).slot (start s c k t).th i.toNat = none := sysRead_reserved h
  simp only [h1, h0, if_false, hr]
  exact bind_err (trap_err _ _ _)

/-! ### mts -/

/-- The thread after mts of a word to an index that names a register to write. -/
def sysWritten (t : Thread) (i : BitVec 8) (x : Word) : Thread :=
  if i = 0x0B#8 then { t with fpctl := fpctlOf x } else if i = 0x0C#8 then { t with wlim := wlimOf x } else { t with pred := predOf x }

theorem sysWritten_keeps (t : Thread) (i : BitVec 8) (x : Word) : (sysWritten t i x).step = t.step ∧ (sysWritten t i x).entered = t.entered
    ∧ nextHead (sysWritten t i x) = nextHead t := by
  unfold sysWritten
  split
  · exact ⟨rfl, rfl, rfl⟩
  · split <;> exact ⟨rfl, rfl, rfl⟩

theorem mts_completes {i : BitVec 8} (hi : Issues s c k t g) (h : fieldsReady s c k t [a] [] = true)
    (hr : i = 0x0B#8 ∨ i = 0x0C#8 ∨ i = 0x0F#8) :
    Completes (.mts g a i) s c k ((takeFields s c k t [a]).2, sysWritten t i ((takeFields s c k t [a]).1.headD 0)) (nextHead t) 1 := by
  obtain ⟨keep, pops, hsrc⟩ := src1_ok (e := start s c k t) h rfl
  obtain ⟨hstep, hent, hnext⟩ := sysWritten_keeps t i ((takeFields s c k t [a]).1.headD 0)
  have hlow : i.toNat < 0x80 := by rcases hr with rfl | rfl | rfl <;> decide
  refine completes (e := { start s c k t with s := (takeFields s c k t [a]).2, keep := keep, pops := pops, th := sysWritten t i _ })
    rfl (show (1 : Nat) ≤ 16 by decide) hi ?_ ⟨rfl, rfl, hstep.trans hi.step, hent.trans hi.entered⟩ rfl rfl (.inl ⟨rfl, hnext.symm⟩)
  rw [bind_ok (checkIndex_ok (e := start s c k t) (.inl hlow)), if_pos hr, bind_ok hsrc, bind_ok (modTh_ok _ _), pure_ok]
  rfl

theorem mts_reserved {i : BitVec 8} (hi : Issues s c k t g) (hlow : i.toNat < 0x80) (h : i ≠ 0x0B#8 ∧ i ≠ 0x0C#8 ∧ i ≠ 0x0F#8) :
    TrapsWith (.mts g a i) s c k t 0x01#8 0 := by
  refine traps_at_once rfl hi ?_
  rw [bind_ok (checkIndex_ok (e := start s c k t) (.inl hlow)), if_neg (by simpa using h)]
  exact trap_err _ _ _

/-- The program of a write to a privileged register: its index checked, one register read, the next line entered, then the state
changed. -/
def privilegedWrite (n : Nat) (a : Reg) (u : Word → State → State) : Exec Next := do
  checkIndex n
  let x ← src1 a []
  ensureNext
  modS (u x)
  return .advance

theorem privilegedWrite_completes {i : Instr} {n : Nat} {u : Word → State → State}
    (hx : exec i s = runThread g (privilegedWrite n a u) s) (hi : Issues s c k t g) (h : fieldsReady s c k t [a] [] = true)
    (hp : s.isPlinth c = true) :
    CompletesAfter i s c k ((takeFields s c k t [a]).2, t) (fun st => (u ((takeFields s c k t [a]).1.headD 0) st, t)) 1 := by
  intro l s' hl
  obtain ⟨keep, pops, hsrc⟩ := src1_ok (e := start s c k t) h rfl
  obtain ⟨used, hens⟩ := ensureNext_ok (e := { start s c k t with s := (takeFields s c k t [a]).2, keep := keep, pops := pops })
    rfl rfl hi.entered hl
  have hbody : EStateM.run (privilegedWrite n a u) (start s c k t) = .ok .advance { start s c k t with
      s := u ((takeFields s c k t [a]).1.headD 0) s', used := used, pops := pops, th := { t with entered := some (nextHead t, l) },
      keep := keep.updThread c k fun t' => { t' with entered := some (nextHead t, l) } } := by
    unfold privilegedWrite
    rw [bind_ok (checkIndex_ok (e := start s c k t) (.inr hp)), bind_ok hsrc]
    exact (bind_ok hens).trans (bind_ok (modS_ok _ _))
  rw [hx, runThread_entered hi (show (1 : Nat) ≤ 16 by decide) hbody rfl rfl hi.step rfl rfl (lineAt_head hl)]
  rfl

/-! ### What the writes store (R22, R24) -/

theorem wlimOf_eq (x : Word) : wlimOf x = max (2 ^ 8) (min (2 ^ 28) (x.extractLsb' 0 29).toNat) := by
  simp [wlimOf, clampNat, bits]

theorem bits_low_toNat (x : Word) : bits x 31 0 = (x.extractLsb' 0 32).toNat := by
  simp [bits]

end Exec
end Sys2Proof.Machine
end

section
open Sys2Proof Sys2Proof.Machine Sys2Proof.Machine.Exec

/-- Settles O8: an index that is read completes with its word, a write with what it stores, and every other index traps. -/
theorem systemRegisters : Obligations.SystemRegisters := by
  unfold Obligations.SystemRegisters
  constructor
  · intro s c k t g d hi
    refine ⟨fun h => ?_, fun i h1 h2 => ?_, fun i h1 hp => ?_, fun i h1 hp => traps_unprivileged rfl hi h1 hp⟩
    · refine ⟨?_, ?_, ?_, ?_, ?_, ?_, ?_, ?_, ?_, ?_, ?_, ?_, ?_, ?_, ?_, ?_, ?_, ?_, ?_, ?_,
        fun hp => ⟨mfs_completes hi h (.inr hp) rfl, mfs_completes hi h (.inr hp) rfl⟩⟩
      all_goals exact mfs_completes hi h (.inl (by decide)) rfl
    · exact mfs_reserved hi (.inl h2) h1 (by rintro rfl; simp at h2) (by rintro rfl; simp at h2)
    · exact mfs_reserved hi (.inr hp) (by omega) (by rintro rfl; simp at h1) (by rintro rfl; simp at h1)
  · intro s c k t g a hi
    refine ⟨fun h => ?_, fun i hl hn => mts_reserved hi hl hn, fun i hh hp => traps_unprivileged rfl hi hh hp,
      fun hp => ⟨traps_unprivileged (n := 0x80) rfl hi (by decide) hp, traps_unprivileged (n := 0x81) rfl hi (by decide) hp⟩⟩
    dsimp only
    refine ⟨mts_completes hi h (.inl rfl), ?_, mts_completes hi h (.inr (.inr rfl)), fun hp =>
      ⟨privilegedWrite_completes (n := 0x80) (u := fun _ st => { st with boot := { st.boot with wdog := st.time } }) rfl hi h hp, ?_⟩⟩
    · rw [← wlimOf_eq]
      exact mts_completes hi h (.inr (.inl rfl))
    · rw [← bits_low_toNat]
      exact privilegedWrite_completes (n := 0x81) (u := fun x st => st.setBootcnt (bits x 31 0)) rfl hi h hp
end

section
/-! SUPPORT. The faults of a checked access, in their order (01 R33; 08 R226, R235, R236). -/

namespace Sys2Proof.Machine
open Exec

/-- The fault that an access of `n` bytes meets: alignment, then the address map, then its rights (R33). -/
inductive AccessFault (s : State) (c : Nat) (t : Thread) (a : Word) (n : Nat) (need : Byte) : Byte → Prop
  | misaligned : a.toNat % n ≠ 0 → AccessFault s c t a n need 0x13#8
  | map {code : Byte} : a.toNat % n = 0 → s.mapCheck c ((s.ctx (s.ctxOf c)).getD {}) a = .error code → AccessFault s c t a n need code
  | right {p : Place} {e : PlbEntry} {s1 : State} : a.toNat % n = 0 → s.mapCheck c ((s.ctx (s.ctxOf c)).getD {}) a = .ok p →
      (∀ off, p ≠ .mgmt off) → entryAt s c t a = some (e, s1) → e.rights &&& need ≠ need → AccessFault s c t a n need 0x10#8
  | noMapping {p : Place} {m : Nat} : a.toNat % n = 0 → s.mapCheck c ((s.ctx (s.ctxOf c)).getD {}) a = .ok p →
      (∀ off, p ≠ .mgmt off) → (t.filled.find? fun f => f.1 == s.keyOf c a / 2 ^ 17) = some (m, none) → AccessFault s c t a n need 0x11#8

/-- What holds of every fault holds case by case. -/
theorem accessFault_forall {s : State} {c : Nat} {t : Thread} {a : Word} {n : Nat} {need : Byte} {P : Byte → Prop}
    (h : ∀ code, AccessFault s c t a n need code → P code) :
    (a.toNat % n ≠ 0 → P 0x13#8)
    ∧ (∀ code, a.toNat % n = 0 → s.mapCheck c ((s.ctx (s.ctxOf c)).getD {}) a = .error code → P code)
    ∧ ∀ p, a.toNat % n = 0 → s.mapCheck c ((s.ctx (s.ctxOf c)).getD {}) a = .ok p → (∀ off, p ≠ .mgmt off) →
      (∀ e s1, entryAt s c t a = some (e, s1) → e.rights &&& need ≠ need → P 0x10#8)
      ∧ ∀ m, (t.filled.find? fun f => f.1 == s.keyOf c a / 2 ^ 17) = some (m, none) → P 0x11#8 :=
  ⟨fun ha => h _ (.misaligned ha), fun code ha hm => h code (.map ha hm), fun _ ha hm hp =>
    ⟨fun _ _ he hr => h _ (.right ha hm hp he hr), fun _ hf => h _ (.noMapping ha hm hp hf)⟩⟩

namespace Exec

/-- The program traps at the instruction itself, and leaves what a park would leave as it was. -/
def EndsInTrap {α : Type} (x : Exec α) (e : Env) (code : Byte) (addr : Word) : Prop :=
  ∃ e1, EStateM.run x e = .error (.trap (mkStop e1 code addr)) e1 ∧ e1.th.pc = e.th.pc ∧ e1.core = e.core ∧ e1.slot = e.slot
    ∧ e1.keep = e.keep

section EndsInTrap
variable {α β : Type} {x : Exec α} {f : α → Exec β} {e : Env} {code : Byte} {addr : Word}

theorem EndsInTrap.bind (h : EndsInTrap x e code addr) : EndsInTrap (x >>= f) e code addr := by
  obtain ⟨e1, hx, hkept⟩ := h
  exact ⟨e1, bind_err hx, hkept⟩

theorem EndsInTrap.after {v : α} (hx : EStateM.run x e = .ok v e) (h : EndsInTrap (f v) e code addr) :
    EndsInTrap (x >>= f) e code addr := by
  obtain ⟨e1, hf, hkept⟩ := h
  exact ⟨e1, (bind_ok hx).trans hf, hkept⟩

theorem endsInTrap_trap : EndsInTrap (trap code addr : Exec α) e code addr := ⟨e, trap_err _ _ _, rfl, rfl, rfl, rfl⟩

end EndsInTrap

/-! ### Checks (R226, R235, R236) -/

section Checks
variable {e : Env} {a : Word} {need : Byte} {p : Place}

/-- A rights fill has found no mapping. -/
theorem rights_noMapping {addr : Word} {m : Nat}
    (h : (e.th.filled.find? fun f => f.1 == e.s.keyOf e.core a / 2 ^ 17) = some (m, none)) : EndsInTrap (rights a addr) e 0x11#8 addr := by
  refine .after (get_ok _) (.after (ctx_ok _) ?_)
  unfold State.keyOf at h
  simp only [h]
  exact endsInTrap_trap

theorem access_unmapped {code : Byte} (hm : e.s.mapCheck e.core ((e.s.ctx (e.s.ctxOf e.core)).getD {}) a = .error code) :
    EndsInTrap (access a need) e code a := by
  refine .after (get_ok _) (.after (ctx_ok _) ?_)
  simp only [hm]
  exact endsInTrap_trap

/-- A place that is no management register is checked for its rights. -/
theorem access_mapped (hm : e.s.mapCheck e.core ((e.s.ctx (e.s.ctxOf e.core)).getD {}) a = .ok p) (hp : ∀ off, p ≠ .mgmt off) :
    EStateM.run (access a need) e
      = EStateM.run (rights a a >>= fun r => if r &&& need = need then pure p else trap 0x10#8 a) e := by
  unfold access
  rw [bind_ok (get_ok _), bind_ok (ctx_ok _)]
  cases p with
  | mgmt off => exact absurd rfl (hp off)
  | sram q => simp only [hm]
  | paged q => simp only [hm]

theorem access_denied {en : PlbEntry} {s1 : State} (hm : e.s.mapCheck e.core ((e.s.ctx (e.s.ctxOf e.core)).getD {}) a = .ok p)
    (hp : ∀ off, p ≠ .mgmt off) (he : entryAt e.s e.core e.th a = some (en, s1)) (hr : en.rights &&& need ≠ need) :
    EndsInTrap (access a need) e 0x10#8 a := by
  obtain ⟨used, hrun⟩ := rights_ok (addr := a) he
  refine ⟨{ e with s := s1, used := used }, (access_mapped hm hp).trans ((bind_ok hrun).trans ?_), rfl, rfl, rfl, rfl⟩
  rw [if_neg hr]
  exact trap_err _ _ _

theorem checks_endInTrap {n : Nat} {code : Byte} (h : AccessFault e.s e.core e.th a n need code) :
    EndsInTrap (align a n >>= fun _ => access a need) e code a := by
  cases h with
  | misaligned ha => exact .bind ⟨e, align_err ha, rfl, rfl, rfl, rfl⟩
  | map ha hm => exact .after (align_ok ha) (access_unmapped hm)
  | right ha hm hp he hr => exact .after (align_ok ha) (access_denied hm hp he hr)
  | noMapping ha hm hp hf =>
    obtain ⟨e1, hrun, hkept⟩ := (rights_noMapping (addr := a) hf).bind
    exact .after (align_ok ha) ⟨e1, (access_mapped hm hp).trans hrun, hkept⟩

/-- The checks with what follows them. -/
theorem checked_endsInTrap {α : Type} {n : Nat} {code : Byte} {f : Place → Exec α} (h : AccessFault e.s e.core e.th a n need code) :
    EndsInTrap (do align a n; let p ← access a need; f p) e code a := by
  have hf : EndsInTrap ((align a n >>= fun _ => access a need) >>= f) e code a := (checks_endInTrap h).bind
  rwa [bind_assoc_run] at hf

end Checks

/-! ### Scalar loads and stores (R120) -/

variable {s : State} {c k : Nat} {t : Thread} {g : Guard} {a b d : Reg} {disp : BitVec 11} {code : Byte} {n sc : Nat}

/-- The address of a scalar access, from its sources. -/
def addrOf (sc : Nat) (disp : BitVec 11) (v : List Word) : Word := op2 (fun x y => x + (y <<< sc) + disp.signExtend 64) v

/-- An instruction that reads its sources and then ends in a trap. -/
theorem traps_after_operands {i : Instr} {body : Exec Next} {srcs dsts : List Reg} {addr : Word}
    (hx : exec i s = runThread g body s) (hi : Issues s c k t g) (h : fieldsReady s c k t srcs dsts = true)
    (hb : ∀ e, e.core = c → e.slot = k → e.th = t → e.s = (takeFields s c k t srcs).2 →
      EStateM.run (operands srcs dsts) (start s c k t) = .ok (takeFields s c k t srcs).1 e →
      ∃ rest : Exec Next, EStateM.run body (start s c k t) = EStateM.run rest e ∧ EndsInTrap rest e code addr) :
    TrapsWith i s c k t code addr := by
  obtain ⟨keep, pops, hheld, ho⟩ := operands_held (e := start s c k t) h rfl
  obtain ⟨rest, hrest, e1, hrun, hpc, hcore, hslot, hkeep⟩ := hb _ rfl rfl rfl rfl ho
  exact traps hx hi (hrest.trans hrun) hpc hcore hslot (by rw [hkeep]; exact hheld)

theorem loadForm_traps {i : Instr} {signed : Bool} (hx : exec i s = runThread g (loadForm d a b disp n sc signed) s)
    (hi : Issues s c k t g) (h : fieldsReady s c k t [a, b] [d] = true)
    (hf : AccessFault (takeFields s c k t [a, b]).2 c t (addrOf sc disp (takeFields s c k t [a, b]).1) n rR code) :
    TrapsWith i s c k t code (addrOf sc disp (takeFields s c k t [a, b]).1) := by
  refine traps_after_operands hx hi h fun e hc _ ht hs ho => ⟨_, bind_ok (src2_of ho), ?_⟩
  subst hc ht
  rw [← hs] at hf
  exact (checked_endsInTrap hf).bind

theorem storeForm_traps {i : Instr} (hx : exec i s = runThread g (storeForm d a b disp n sc) s)
    (hi : Issues s c k t g) (h : fieldsReady s c k t [a, b, d] [] = true)
    (hf : AccessFault (takeFields s c k t [a, b, d]).2 c t (addrOf sc disp (takeFields s c k t [a, b, d]).1) n rW code) :
    TrapsWith i s c k t code (addrOf sc disp (takeFields s c k t [a, b, d]).1) := by
  refine traps_after_operands hx hi h fun e hc _ ht hs ho => ⟨_, bind_ok (src3_of ho), ?_⟩
  subst hc ht
  rw [← hs] at hf
  exact checked_endsInTrap hf

end Exec
end Sys2Proof.Machine
end

section
open Sys2Proof Sys2Proof.Machine Sys2Proof.Machine.Exec

/-- Settles O11: each fault of R33's order ends every scalar load and store in its trap. -/
theorem accessTraps : Obligations.AccessTraps := by
  unfold Obligations.AccessTraps
  intro s c k t g d a b disp hi
  refine ⟨fun h i hm => ?_, fun h i hm => ?_⟩
  · simp only [List.mem_cons, List.not_mem_nil, or_false] at hm
    rcases hm with rfl | rfl | rfl | rfl | rfl | rfl | rfl | rfl | rfl | rfl | rfl | rfl | rfl | rfl
    all_goals exact accessFault_forall fun code hf => loadForm_traps rfl hi h hf
  · simp only [List.mem_cons, List.not_mem_nil, or_false] at hm
    rcases hm with rfl | rfl | rfl | rfl | rfl | rfl | rfl | rfl
    all_goals exact accessFault_forall fun code hf => storeForm_traps rfl hi h hf
end

section
/-! SUPPORT. A parked instruction tries again, and goes on with what it has waited for (01 R24; 06 R176; 07 R219; 08 R236). -/

namespace Sys2Proof.Machine

section Parked
variable {s s' : State} {c k : Nat} {t : Thread} {w : Wait} {lim n : Nat}

theorem reissue_of_reissues (h : Reissues s c k s') : s.reissue c k = s' := by
  obtain ⟨t, o, r, ht, hr, hp, hd, he⟩ := h
  unfold State.reissue
  rw [runAt_of_decoded ht hr hp hd, he]

theorem mayRun_of_ready (ht : s.thread c k = some t) (hon : s.coreOn c = true) (hm : s.moving c = false)
    (hr : t.readyAt ≤ (s.core c).cycle) : s.mayRun c k = true := by
  simp [State.mayRun, ht, hon, hm, hr]

theorem parkedOn_eq (ht : s.thread c k = some t) (hw : t.run = .parked w lim n) (ok : Wait → Bool) : s.parkedOn c k ok = ok w := by
  simp [State.parkedOn, ht, hw]

theorem atLimit_eq (ht : s.thread c k = some t) (hw : t.run = .parked w lim n) :
    s.atLimit c k = (w.counted && decide (lim ≤ n + 1)) := by
  simp [State.atLimit, ht, hw]

theorem comeBack_reissues (ht : s.thread c k = some t) (ho : t.ownStep = false) : s.comeBack c k = s.reissue c k := by
  unfold State.comeBack
  rw [ht]
  cases hr : t.run <;> simp only [hr, ho, Bool.false_eq_true, if_false]

theorem comeBack_due (ht : s.thread c k = some t) (hw : t.run = .parked w lim n) (ho : t.ownStep = true) :
    s.comeBack c k = s.setThread c k { t with run := .parked (.due w.accepted) lim n } := by
  unfold State.comeBack
  simp only [ht, hw, ho, if_true]

/-- The own cycle of a slot whose thread may run. -/
theorem ownCycle_mayRun (ht : s.thread c k = some t) (hon : s.coreOn c = true) (hm : s.moving c = false)
    (hc : (s.core c).cycle % 16 = k) (hr : t.readyAt ≤ (s.core c).cycle) : (s.ownCycle c k && s.mayRun c k) = true := by
  simp [State.ownCycle, hc, mayRun_of_ready ht hon hm hr]

end Parked

/-! ### Answers (R122, R264) -/

section Answers
variable {s : State} {c k : Nat} {t : Thread}

theorem twinOf_none (ht : s.thread c k = some t) (htw : t.twin = none) : s.twinOf c k = none := by
  simp [State.twinOf, ht, htw]

/-- The answer of a request reaches a thread that is not paired: it goes on with it. -/
theorem deliverTo_unpaired (ht : s.thread c k = some t) (hk : k < 16) (htw : t.twin = none) (r : Reply) :
    s.deliverTo c k r = (s.setThread c k { t with replies := t.replies ++ [r] }).comeBack c k := by
  unfold State.deliverTo State.answerThread
  rw [if_neg (by omega), twinOf_none ht htw, State.updThread_some _ _ ht]

end Answers

/-! ### The cycles in which a parked instruction tries again (R24, R176, R206, R456) -/

section OwnCycle
variable {s : State} {c k : Nat} {t : Thread} {w : Wait} {lim n : Nat}
  (ht : s.thread c k = some t) (hw : t.run = .parked w lim n) (ho : (s.ownCycle c k && s.mayRun c k) = true)
include ht hw ho

theorem joinReevaluate_retries (hk : k < 16) {a : Word} (hj : w = .join a) :
    exec (.joinReevaluate c k) s = .next ((s.reissue c k).endCycle c) := by
  show execJoinReevaluate c k s = _
  have hp : s.parkedOn c k Wait.isJoin = true := by rw [parkedOn_eq ht hw, hj]; rfl
  unfold execJoinReevaluate
  rw [if_neg (by omega), ho, hp]
  rfl

theorem sigwaitReevaluate_retries (hj : w = .sigwait) :
    exec (.sigwaitReevaluate c k) s = .next ((s.reissue c k).endCycle c) := by
  show execSigwaitReevaluate c k s = _
  have hp : s.parkedOn c k (· == .sigwait) = true := by rw [parkedOn_eq ht hw, hj]; rfl
  unfold execSigwaitReevaluate
  rw [ho, hp]
  rfl

theorem parkedInstructionRetry_retries (hp : w.polls = true) (hl : ¬(w.counted = true ∧ lim ≤ n + 1)) :
    exec (.parkedInstructionRetry c k) s = .next ((s.reissue c k).endCycle c) := by
  show execParkedInstructionRetry c k s = _
  have hl : s.atLimit c k = false := by
    rw [atLimit_eq ht hw]
    simpa using hl
  unfold execParkedInstructionRetry
  rw [ho, parkedOn_eq ht hw, hp, hl]
  rfl

theorem waitLimitExpiry_retries (hp : w.polls = true) (hc : w.counted = true) (hl : lim ≤ n + 1) :
    exec (.waitLimitExpiry c k) s = .next ((s.reissue c k).endCycle c) := by
  show execWaitLimitExpiry c k s = _
  have hl : s.atLimit c k = true := by simp [atLimit_eq ht hw, hc, hl]
  unfold execWaitLimitExpiry
  rw [ho, parkedOn_eq ht hw, hp, hl]
  rfl

end OwnCycle

/-! ### Fills, lines and answers (R122, R187, R236, R264) -/

section Arrivals
variable {s : State} {c k : Nat} {t : Thread} {lim n : Nat}

theorem ctx_eq_getD (h : (s.ctx n).isSome = true) : s.ctx n = some ((s.ctx n).getD {}) := by
  obtain ⟨x, hx⟩ := Option.isSome_iff_exists.mp h
  rw [hx]
  rfl

theorem plbFillComplete_fills {a : Word} (ht : s.thread c k = some t) (hw : t.run = .parked (.plb a) lim n)
    (hx : (s.ctx (s.ctxOf c)).isSome = true) (hd : s.selfRefresh = false) :
    let x := (s.ctx (s.ctxOf c)).getD {}
    let s1 := s.setThread c k { t with filled := (plbKey x.tenant a / 2 ^ 17, s.fill x a) :: t.filled }
    exec (.plbFillComplete c k) s = .next ((match s.fill x a with
      | some e => s1.updCore c fun y => { y with plb := plbTouch y.plb e }
      | none => s1).comeBack c k).touchDram := by
  show execPlbFillComplete c k s = _
  unfold execPlbFillComplete
  rw [ht]
  simp only [hw]
  rw [ctx_eq_getD hx]
  simp only [State.dramExit?, hd]
  rfl

theorem plbFillComplete_exits {a : Word} (ht : s.thread c k = some t) (hw : t.run = .parked (.plb a) lim n)
    (hx : (s.ctx (s.ctxOf c)).isSome = true) (hd : s.selfRefresh = true) (he : s.dramExit = false) :
    exec (.plbFillComplete c k) s = .next { s with dramExit := true } := by
  show execPlbFillComplete c k s = _
  unfold execPlbFillComplete
  rw [ht]
  simp only [hw]
  rw [ctx_eq_getD hx]
  simp only [State.dramExit?, hd, he]
  rfl

theorem serve_read {p : Nat} (hf : s.fencedAt p = false) (m : Nat) : s.serve p (.read m) = (.val (BitVec.ofNat 512 (s.read p m)), s) := by
  simp [State.serve, hf]

theorem lineFetchComplete_arrives {num sl o p : Nat} {ext : Option ExtReply} (ht : s.thread c k = some t)
    (hw : t.run = .parked (.line num) lim n) (hx : (s.ctx (s.ctxOf c)).isSome = true)
    (hr : region ((s.ctx (s.ctxOf c)).getD {}).tenant (Word.ofNat (64 * num)) = .sram sl o)
    (hp : ((s.ctx (s.ctxOf c)).getD {}).phys sl o = some p) (hf : s.fencedAt p = false) :
    exec (.lineFetchComplete c k ext) s = .next
      (((s.setThread c k { t with fetched := some (.line ⟨num, BitVec.ofNat 512 (s.read p 64)⟩) }).updCore c fun y =>
        { y with ilb := (num :: y.ilb.filter (· != num)).take 64 }).comeBack c k) := by
  show execLineFetchComplete c k ext s = .next (s.lineArrives c k t num (.val (BitVec.ofNat 512 (s.read p 64))))
  unfold execLineFetchComplete
  rw [ht]
  simp only [hw]
  rw [ctx_eq_getD hx]
  simp only [hr, hp, Option.map_some, serve_read hf]
  rfl

theorem homeResponse_delivers {r : Req} {a : Reply} {ext : Option ExtReply} (ht : s.thread c k = some t) (hk : k < 16)
    (hn : s.reqs.get? n = some r) (hsrc : r.src = .thread c k) (hacc : ∀ op v, r.acc ≠ .sync op v) (hst : r.st = .answered a)
    (htw : t.twin = none) :
    exec (.homeResponse n ext) s = .next
      ((({ s with reqs := Tab.erase s.reqs n } : State).setThread c k { t with replies := t.replies ++ [a] }).comeBack c k) := by
  have hd : (s.dropReq n).deliverTo c k a = _ := deliverTo_unpaired (s := s.dropReq n) ht hk htw a
  show execHomeResponse n ext s = _
  unfold execHomeResponse State.req
  rw [hn]
  simp only [hsrc, hst]
  cases hc : r.acc with
  | sync op v => exact absurd hc (hacc op v)
  | _ => simp only [hd]; rfl

theorem syncAttemptResult_failed {r : Req} {m : Nat} (ht : s.thread c k = some t) (hq : s.syncReq c k = some (n, r))
    (hst : r.st = .answered (.err 0#8)) (hw : t.run = .parked (.sync true) lim m) (htw : t.twin = none) :
    exec (.syncAttemptResult c k) s = .next
      (({ s with reqs := Tab.erase s.reqs n } : State).setThread c k { t with run := .parked (.sync false) lim m }) := by
  have hdrop : (s.dropReq n).thread c k = some t := ht
  have hfail : t.attemptFailed = { t with run := .parked (.sync false) lim m } := by simp only [Thread.attemptFailed, hw]
  show execSyncAttemptResult c k s = _
  unfold execSyncAttemptResult
  rw [hq]
  simp only [hst]
  rw [if_pos (show Reply.err 0#8 = failedAttempt from rfl), twinOf_none hdrop htw, State.updThread_some _ _ hdrop, hfail]
  rfl

theorem syncAttemptResult_delivers {r : Req} {a : Reply} (ht : s.thread c k = some t) (hk : k < 16)
    (hq : s.syncReq c k = some (n, r)) (hst : r.st = .answered a) (ha : a ≠ .err 0#8) (htw : t.twin = none) :
    exec (.syncAttemptResult c k) s = .next
      ((({ s with reqs := Tab.erase s.reqs n } : State).setThread c k { t with replies := t.replies ++ [a] }).comeBack c k) := by
  have hd : (s.dropReq n).deliverTo c k a = _ := deliverTo_unpaired (s := s.dropReq n) ht hk htw a
  show execSyncAttemptResult c k s = _
  unfold execSyncAttemptResult
  rw [hq]
  simp only [hst]
  rw [if_neg (show ¬a = failedAttempt from ha), hd]
  rfl

end Arrivals
end Sys2Proof.Machine
end

section
/-! SUPPORT. The head of a store buffer leaves it, accesses arrive, and acknowledgements return (04 R121; 08 R243, R255; 09 R266, R272;
13 R377, R409). -/

namespace Sys2Proof.Machine

/-! ### Store buffers (R121, R255, R409) -/

section Drain
variable {s : State} {c k : Nat} {t : Thread} {l : List SbEntry}

theorem thread_updCore_slots (f : Core → Core) (hf : (f (s.core c)).slots = (s.core c).slots) :
    (s.updCore c f).thread c k = s.thread c k := by
  simp [State.thread, hf]

theorem popSb_thread (ht : s.thread c k = some t) : (s.popSb c k).thread c k = some
    { t with sb := t.sb.drop 1, sbParked := t.sbParked && t.twin.isSome, fenceLeft := t.fenceLeft - 1 } := by
  unfold State.popSb
  rw [thread_updCore_slots _ rfl, State.updThread_some _ _ ht, State.thread_setThread_same]

theorem popSb_mem (s : State) (c k : Nat) : (s.popSb c k).mem = s.mem := by
  unfold State.popSb State.updThread
  split <;> rfl

theorem popSb_out (s : State) (c k : Nat) : (s.popSb c k).out = s.out := by
  unfold State.popSb State.updThread
  split <;> rfl

theorem serve_write {p : Nat} (hf : s.fencedAt p = false) (d : Vec) (en : BitVec 64) :
    s.serve p (.write d en) = (.val 0, s.writeEn p d en) := by
  simp [State.serve, hf]

theorem drainStore_sram {a f : Word} {d : Vec} {en : BitVec 64} {sl o p : Nat} {pop : State → State} (ht : s.thread c k = some t)
    (hr : region ((s.ctx (s.ctxOf c)).getD {}).tenant a = .sram sl o) (hp : ((s.ctx (s.ctxOf c)).getD {}).phys sl o = some p)
    (hf : s.fencedAt p = false) : s.drainStore c k [] pop a d en f = some (pop (s.writeEn p d en)) := by
  unfold State.drainStore
  simp only [ht, hr, hp, serve_write hf]

theorem storeBufferDrain_sram {a f : Word} {d : Vec} {en : BitVec 64} {sl o p : Nat} (ht : s.thread c k = some t)
    (hsb : t.sb = .store a d en f :: l) (htw : t.twin = none) (hr : region ((s.ctx (s.ctxOf c)).getD {}).tenant a = .sram sl o)
    (hp : ((s.ctx (s.ctxOf c)).getD {}).phys sl o = some p) (hf : s.fencedAt p = false) (hm : Mem.wf s.mem = true) :
    ∃ s', exec (.storeBufferDrain c k) s = .next s'
      ∧ s'.thread c k = some { t with sb := l, sbParked := false, fenceLeft := t.fenceLeft - 1 }
      ∧ ∀ b, s'.byte b = if p ≤ b ∧ b < p + 64 ∧ en.getLsbD (b - p) = true then d.extractLsb' (8 * (b - p)) 8 else s.byte b := by
  refine ⟨(s.writeEn p d en).popSb c k, ?_, ?_, fun b => ?_⟩
  · show execStoreBufferDrain c k s = _
    unfold execStoreBufferDrain
    simp only [ht, hsb, htw, Option.isNone_none, if_true, drainStore_sram ht hr hp hf]
    rfl
  · rw [popSb_thread (s := s.writeEn p d en) ht, hsb, htw]
    simp
  · unfold State.byte
    rw [popSb_mem]
    exact Mem.byte_writeEn hm p d en b 64 (Nat.le_refl 64)

theorem storeBufferDrain_paired {a f : Word} {d : Vec} {en : BitVec 64} (ht : s.thread c k = some t) (hsb : t.sb = .store a d en f :: l)
    (htw : t.twin.isSome = true) (hq : t.cmpq.length < 16) :
    exec (.storeBufferDrain c k) s = .next (s.setThread c k { t with sb := l, cmpq := t.cmpq ++ [.store a d en f] }) := by
  have hnone : t.twin.isNone = false := by rw [Option.isNone_eq_false_iff]; exact htw
  have hto : t.toCompare a d en f = { t with sb := l, cmpq := t.cmpq ++ [.store a d en f] } := by
    rw [Thread.toCompare, hsb]
    rfl
  show execStoreBufferDrain c k s = _
  unfold execStoreBufferDrain
  rw [← hto]
  simp only [ht, hsb, hnone, Bool.false_eq_true, if_false, show ¬16 ≤ t.cmpq.length by omega]
  rfl

theorem storeBufferDrain_fab (ht : s.thread c k = some t) (ho : t.outst = 0) (hq : t.cmpq = []) (hsb : t.sb = .marker .fab :: l) :
    exec (.storeBufferDrain c k) s = .next (s.popSb c k) := by
  show execStoreBufferDrain c k s = _
  unfold execStoreBufferDrain
  simp only [ht, hsb, ho, hq, List.isEmpty_nil, and_self, if_true]
  rfl

theorem releaseComplete_sys (ht : s.thread c k = some t) (ho : t.outst = 0) (hq : t.cmpq = []) (hsb : t.sb = .marker .sys :: l)
    (hrun : ∀ lim n, t.run ≠ .parked .release lim n) :
    exec (.releaseComplete c k) s = .next
      (((if t.hostWrites then s.emit (.hostRead 0 0) else s).setThread c k { t with hostWrites := false }).popSb c k) := by
  show execReleaseComplete c k s = _
  unfold execReleaseComplete
  simp only [ht, hsb, ho, hq, List.isEmpty_nil, Bool.not_true, ne_eq, not_true_eq_false, Bool.false_eq_true, or_self, if_false]
  cases hr : t.run with
  | parked w lim n =>
    cases w with
    | release => exact absurd hr (hrun lim n)
    | _ => rfl
  | _ => rfl

theorem hostRead_out (s : State) (w : Bool) :
    (if w then s.emit (.hostRead 0 0) else s).out = if w then .hostRead 0 0 :: s.out else s.out := by
  cases w <;> rfl

theorem hostRead_mem (s : State) (w : Bool) : (if w then s.emit (.hostRead 0 0) else s).mem = s.mem := by
  cases w <;> rfl

end Drain

/-! ### Accesses that arrive (R243, R266) -/

section Accesses
variable {s : State} {c k n p : Nat} {r : Req}

/-- The answer of a thread's request waits for its response. -/
theorem answered_thread (hsrc : r.src = .thread c k) (a : Reply) : s.answered n r a = s.setReq n { r with st := .answered a } := by
  simp [State.answered, hsrc]

theorem serve_amo {op : AmoOp} {w sg y : Bool} {b e : Word} (hf : s.fencedAt p = false) :
    s.serve p (.amo op w sg y b e) = (.val (BitVec.ofNat 512 (s.amoStep p op w sg b e).1), (s.amoStep p op w sg b e).2) := by
  simp [State.serve, hf]

theorem serve_sync_none {op : SyncOp} {v : Word} (hf : s.fencedAt p = false) (h : s.syncStep p op v = none) :
    s.serve p (.sync op v) = (.err 0#8, s) := by
  simp [State.serve, hf, h, failedAttempt]

theorem serve_sync_some {op : SyncOp} {v w : Word} {s1 : State} (hf : s.fencedAt p = false) (h : s.syncStep p op v = some (w, s1)) :
    s.serve p (.sync op v) = (.val (w.zeroExtend 512), s1) := by
  simp [State.serve, hf, h]

theorem atomicUnitStep_serves {a : Reply} {s1 : State} (hn : s.reqs.get? n = some r) (hst : r.st = .queued) (hp : s.sramOf r = some p)
    (hsrc : r.src = .thread c k) (hs : s.serve p r.acc = (a, s1)) :
    exec (.atomicUnitStep n) s = .next { s1 with reqs := Tab.set s1.reqs n { r with st := .answered a } } := by
  show execAtomicUnitStep n s = .next (s1.setReq n { r with st := .answered a })
  unfold execAtomicUnitStep State.req
  rw [hn, ← answered_thread (s := s1) hsrc]
  simp only [hst, hp, hs]
  rfl

theorem syncAttempt_serves {a : Reply} {s1 : State} (hq : s.syncReq c k = some (n, r)) (hst : r.st = .queued) (hp : s.sramOf r = some p)
    (hsrc : r.src = .thread c k) (hs : s.serve p r.acc = (a, s1)) :
    exec (.syncAttempt c k) s = .next { s1 with reqs := Tab.set s1.reqs n { r with st := .answered a } } := by
  show execSyncAttempt c k s = .next (s1.setReq n { r with st := .answered a })
  unfold execSyncAttempt
  rw [hq, ← answered_thread (s := s1) hsrc]
  simp only [hst, hp, hs]
  rfl

end Accesses

/-! ### The home agent (R241-R243) -/

section Home
variable {s s1 : State} {p : Word} {t : Trans}

/-- A translation changes at most the translation cache and the last use of the DRAM. -/
theorem translateEntry_keeps (h : s.translateEntry p = (t, s1)) : s1 = s ∨ ∃ tc, s1 = { s with dramUsed := s.time, tcache := tc } := by
  unfold State.translateEntry at h
  dsimp only at h
  cases hc : s.cached (homeAgent p) p with
  | some e =>
    simp only [hc] at h
    cases h
    exact .inl rfl
  | none =>
    right
    cases hw : s.walk p with
    | leaf base size w0 w1 =>
      simp only [hc, hw] at h
      split at h <;> cases h <;> exact ⟨_, rfl⟩
    | absent base w1 =>
      simp only [hc, hw] at h
      cases h
      exact ⟨_, rfl⟩
    | badFrame base size l w0 w1 =>
      simp only [hc, hw] at h
      cases h
      exact ⟨_, rfl⟩
    | invalid m l w0 =>
      simp only [hc, hw] at h
      cases h
      exact ⟨_, rfl⟩

theorem translate_keeps (h : s.translate p = (t, s1)) : s1 = s ∨ ∃ tc, s1 = { s with dramUsed := s.time, tcache := tc } := by
  unfold State.translate at h
  split at h
  · cases h
    exact .inl rfl
  · exact translateEntry_keeps h

/-- A line that the bank does not hold is read from DRAM, which is then in use. -/
theorem fillLine_touched {d : Nat} {wr : Bool} (h : s.bankLine p = none) : (s.fillLine p d wr).touchDram = s.fillLine p d wr := by
  unfold State.bankLine at h
  unfold State.fillLine
  simp only [h]
  rfl

theorem fillLine_keeps (s : State) (p : Word) (d : Nat) (wr : Bool) :
    (s.fillLine p d wr).mem = s.mem ∧ (s.fillLine p d wr).fencedBlocks = s.fencedBlocks := by
  unfold State.fillLine
  simp only
  split
  · exact ⟨rfl, rfl⟩
  · split <;> exact ⟨rfl, rfl⟩

/-- DRAM that is not in self-refresh is at hand at once, and then in use. -/
theorem dramExit?_awake (h : s.selfRefresh = false) (x : State) : s.dramExit? (some x) = some x.touchDram := by
  simp [State.dramExit?, h]

theorem walkExits_awake {x : State} (h : s.selfRefresh = false) (hx : s.bankLine p = none → x.touchDram = x) :
    s.walkExits p false (some x) = some x := by
  unfold State.walkExits
  split
  case isTrue hw =>
    have hb : s.bankLine p = none := by
      simp only [State.walks, Bool.false_or, Bool.and_eq_true, Option.isNone_iff_eq_none] at hw
      exact hw.1
    rw [dramExit?_awake h, hx hb]
  case isFalse => rfl

theorem dramExits_awake {x : State} (h : s.selfRefresh = false) (hx : s.bankLine p = none → x.touchDram = x) :
    s.dramExits p (some x) = some x := by
  unfold State.dramExits
  split
  case isTrue => rfl
  case isFalse hb =>
    rw [dramExit?_awake h, hx (by simpa using hb)]

theorem homeAgentRequest_read {n c k m d : Nat} {r : Req} (hn : s.reqs.get? n = some r) (hst : r.st = .queued) (hacc : r.acc = .read m)
    (hsrc : r.src = .thread c k) (hreg : region 0 r.addr = .paged p) (ht : s.translate p = (.dram d, s1)) (hf : s.fencedAt d = false)
    (hd : s.selfRefresh = false) :
    exec (.homeAgentRequest (.own n)) s = .next
      ((s1.fillLine p d false).setReq n { r with st := .answered (.val (BitVec.ofNat 512 (s.read d m))) }) := by
  obtain ⟨hbank, hsr, hmem, hblocks⟩ : s1.bankLine p = s.bankLine p ∧ s1.selfRefresh = s.selfRefresh ∧ s1.mem = s.mem
      ∧ s1.fencedBlocks = s.fencedBlocks := by
    rcases translate_keeps ht with rfl | ⟨tc, rfl⟩ <;> exact ⟨rfl, rfl, rfl, rfl⟩
  obtain ⟨hfmem, hfblocks⟩ := fillLine_keeps s1 p d false
  have hserve : (s1.fillLine p d false).serve d (.read m) = (.val (BitVec.ofNat 512 (s.read d m)), s1.fillLine p d false) := by
    have hfence : (s1.fillLine p d false).fencedAt d = false := by
      rw [State.fencedAt, hfblocks, hblocks]
      exact hf
    rw [serve_read hfence, State.read, hfmem, hmem]
    rfl
  have htouch : ∀ q, s.bankLine p = none → ((s1.fillLine p d false).setReq n q).touchDram = (s1.fillLine p d false).setReq n q :=
    fun q hb => congrArg (fun x : State => x.setReq n q) (fillLine_touched (hbank.trans hb))
  have hprobe : isProbe (.read m) = false := rfl
  have hamo : isAmo (.read m) = false := rfl
  have hwr : accWrites (.read m) = false := rfl
  have hown : s.homeOwn n = some ((s1.fillLine p d false).setReq n { r with st := .answered (.val (BitVec.ofNat 512 (s.read d m))) }) := by
    unfold State.homeOwn State.req
    simp only [hn, hst, hacc, hreg, hamo, hprobe, hwr, ht, hserve, answered_thread hsrc, ne_eq, not_true_eq_false, false_and,
      Bool.false_eq_true, if_false]
    rw [dramExits_awake (hsr.trans hd) fun hb => htouch _ (hbank.symm.trans hb), walkExits_awake hd (htouch _)]
  show event _ (s.homeOwn n) = _
  rw [hown]
  rfl

end Home

/-! ### Acknowledgements and late refusals (R377) -/

section Counted
variable {s : State} {c k n : Nat} {t : Thread} {i : Inflight}

theorem endDue_idle (hk : s.mgmt.dbgKill = []) (hl : (s.core c).lost = false) : s.endDue c k = s := by
  unfold State.endDue State.endLost
  rw [hk]
  simp only [List.foldl_nil, hl]
  split <;> rfl

theorem endDue_setThread (hk : s.mgmt.dbgKill = []) (hl : (s.core c).lost = false) (u : Thread) :
    (s.setThread c k u).endDue c k = s.setThread c k u :=
  endDue_idle hk (by rw [State.core_setThread]; exact hl)

theorem tagged_slot (hk : k < 16) : s.tagged c k = s.thread c k := if_pos hk

theorem setTagged_slot (hk : k < 16) (u : Thread) : s.setTagged c k u = s.setThread c k u := if_pos hk

/-- A counted request of an unpaired thread ends: its count falls, and a refusal is noted. -/
theorem endCounted_unpaired (ht : s.thread c k = some t) (hic : i.core = c) (hik : i.slot = k) (hk : k < 16) (htw : t.twin = none)
    (refused : Option Byte) :
    s.endCounted n i refused =
      let s1 := ({ s with reqs := Tab.erase s.reqs n, inflight := Tab.erase s.inflight n } : State).setThread c k { t with outst := t.outst - 1 }
      (match refused with
      | some code => s1.refuseLate c k code i.seq i.addr
      | none => s1).endDue c k := by
  have ht1 : ({ s.dropReq n with inflight := Tab.erase s.inflight n } : State).thread c k = some t := ht
  unfold State.endCounted
  simp only [hic, hik, twinOf_none ht1 htw, tagged_slot hk, ht1, setTagged_slot hk]
  rfl

theorem storeAck_counts (hn : s.inflight.get? n = some i) (ht : s.thread c k = some t) (hic : i.core = c) (hik : i.slot = k) (hk : k < 16)
    (htw : t.twin = none) (hd : s.mgmt.dbgKill = []) (hl : (s.core c).lost = false) (ho : i.outcome = some none) :
    exec (.storeAck n) s = .next
      (({ s with reqs := Tab.erase s.reqs n, inflight := Tab.erase s.inflight n } : State).setThread c k { t with outst := t.outst - 1 }) := by
  show execStoreAck n s = _
  unfold execStoreAck
  rw [hn]
  simp only [ho]
  rw [endCounted_unpaired ht hic hik hk htw]
  exact congrArg Host.Outcome.next
    (endDue_setThread (s := { s with reqs := Tab.erase s.reqs n, inflight := Tab.erase s.inflight n }) hd hl _)

/-- A refusal that reaches a stopped thread is noted, and raised when the thread goes on. -/
theorem refuseLate_stopped {u : Thread} {st : Stop} {code : Byte} {seq : BitVec 16} {addr : Word} (hk : k < 16)
    (hrun : u.run = .stopped st none) (hr : u.refusal = none) :
    (s.setThread c k u).refuseLate c k code seq addr = s.setThread c k { u with refusal := some (code, seq, addr) } := by
  unfold State.refuseLate
  rw [tagged_slot hk, State.thread_setThread_same]
  simp only [hr, hrun, if_neg (show ¬16 ≤ k by omega), State.setThread_setThread]
  rfl

theorem lateRefusal_stopped {st : Stop} {code : Byte} {link : Bool} (hn : s.inflight.get? n = some i) (ht : s.thread c k = some t)
    (hic : i.core = c) (hik : i.slot = k) (hk : k < 16) (htw : t.twin = none) (hd : s.mgmt.dbgKill = []) (hl : (s.core c).lost = false)
    (ho : i.outcome = some (some code)) (hrun : t.run = .stopped st none) (hr : t.refusal = none) :
    exec (.lateRefusal n link) s = .next
      (({ s with reqs := Tab.erase s.reqs n, inflight := Tab.erase s.inflight n } : State).setThread c k
        { t with outst := t.outst - 1, refusal := some (code, i.seq, i.addr) }) := by
  show execLateRefusal n link s = _
  unfold execLateRefusal
  rw [hn]
  simp only [ho]
  rw [endCounted_unpaired ht hic hik hk htw]
  dsimp only
  rw [refuseLate_stopped (u := { t with outst := t.outst - 1 }) hk hrun hr]
  exact congrArg Host.Outcome.next
    (endDue_setThread (s := { s with reqs := Tab.erase s.reqs n, inflight := Tab.erase s.inflight n }) hd hl _)

end Counted

/-! ### Host atomics (R272) and streams (R156) -/

section Others
variable {s : State} {c k n : Nat} {t : Thread} {r : Req}

theorem hostAtomicopCompletion_nobody (hn : s.reqs.get? n = some r) (hst : r.st = .sent none) (hacc : isAmo r.acc = true)
    (hsrc : r.src = .nobody) (reply : AtomicReply) :
    exec (.hostAtomicopCompletion n reply) s = .next (match reply with
      | .refused => (s.dropReq n).enterRoute r.addr
      | _ => s.dropReq n) := by
  show execHostAtomicopCompletion n reply s = _
  unfold execHostAtomicopCompletion State.req
  simp only [hn, hst, hacc, hsrc]
  cases reply <;> rfl

theorem hostAtomicopCompletion_delivers (hn : s.reqs.get? n = some r) (hst : r.st = .sent none) (hacc : isAmo r.acc = true)
    (hsrc : r.src = .thread c k) (reply : AtomicReply) :
    exec (.hostAtomicopCompletion n reply) s = .next (match reply with
      | .old v => (s.dropReq n).deliverTo c k (.val (v.zeroExtend 512))
      | .refused => ((s.dropReq n).enterRoute r.addr).deliverTo c k (.err 0x30#8)
      | .noPath => (s.dropReq n).deliverTo c k (.err 0x31#8)) := by
  show execHostAtomicopCompletion n reply s = _
  unfold execHostAtomicopCompletion State.req
  simp only [hn, hst, hacc, hsrc]
  cases reply <;> rfl

theorem streamReadAhead_reads {i p : Nat} {st : Stream} {ext : Option ExtReply} (ht : s.thread c k = some t)
    (hs : (t.streams[i]?).getD none = some st) (hwr : st.wr = false) (hlen : st.ahead.length < 4)
    (htot : st.pos + st.ahead.length < st.total) (hal : (st.addr (st.pos + st.ahead.length)).toNat % 64 = 0) (htw : t.twin = none)
    (hx : (s.ctx (s.ctxOf c)).isSome = true)
    (hfill : ∃ e, s.fill ((s.ctx (s.ctxOf c)).getD {}) (st.addr (st.pos + st.ahead.length)) = some e ∧ e.rights &&& rR = rR)
    (hm : s.mapCheck c ((s.ctx (s.ctxOf c)).getD {}) (st.addr (st.pos + st.ahead.length)) = .ok (.sram p)) (hf : s.fencedAt p = false) :
    exec (.streamReadAhead c k i ext) s = .next (s.setThread c k
      { t with streams := t.streams.setIfInBounds i (some { st with ahead := st.ahead ++ [BitVec.ofNat 512 (s.read p 64)] }) }) := by
  obtain ⟨e, he, hr⟩ := hfill
  show execStreamReadAhead c k i ext s = _
  unfold execStreamReadAhead
  rw [ht, ctx_eq_getD hx]
  simp only [hs, he, hr, hwr, htw, hal, hm, serve_read hf, show ¬4 ≤ st.ahead.length by omega,
    show ¬st.total ≤ st.pos + st.ahead.length by omega, beq_self_eq_true, Option.isSome_none, Bool.false_eq_true, Bool.not_true, ne_eq,
    not_true_eq_false, or_self, if_false]
  rfl

end Others
end Sys2Proof.Machine
end

section
open Sys2Proof Sys2Proof.Machine

/-- Settles O37: each retry runs the instruction again, and each event of the memory system does what its own lemma says. -/
theorem memoryEvents : Obligations.MemoryEvents := by
  unfold Obligations.MemoryEvents
  refine ⟨fun s s' c k t ht hk => ⟨reissue_of_reissues, ?_, ?_, ?_, ?_, comeBack_reissues ht, fun w lim n hw => comeBack_due ht hw, ?_⟩,
    fun s c k t ht => ⟨?_, ?_, ?_, ?_, ?_, ?_, ?_, ?_, ?_⟩⟩
  · intro w lim n hw hon hm hc hr
    have ho := ownCycle_mayRun ht hon hm hc hr
    exact ⟨fun a => joinReevaluate_retries ht hw ho hk, sigwaitReevaluate_retries ht hw ho, parkedInstructionRetry_retries ht hw ho,
      waitLimitExpiry_retries ht hw ho⟩
  · intro a lim n hw hx
    exact ⟨plbFillComplete_fills ht hw hx, plbFillComplete_exits ht hw hx⟩
  · intro num lim n sl o p ext hw hx hreg hp hf
    exact lineFetchComplete_arrives ht hw hx hreg hp hf
  · intro n r a hn hsrc hacc hst htw ext
    exact homeResponse_delivers ht hk hn hsrc hacc hst htw
  · intro n r a lim m hq hst hw htw
    exact ⟨fun ha => syncAttemptResult_failed ht hq (ha ▸ hst) hw htw, fun ha => syncAttemptResult_delivers ht hk hq hst ha htw⟩
  · intro a d en f l sl o p hsb htw hreg hp hf hm
    exact storeBufferDrain_sram ht hsb htw hreg hp hf hm
  · intro a d en f l hsb htw hq
    exact storeBufferDrain_paired ht hsb htw hq
  · intro l ho hq
    refine ⟨fun hsb => ?_, fun hsb hrun => ?_⟩
    · exact ⟨_, storeBufferDrain_fab ht ho hq hsb, popSb_mem s c k, by rw [popSb_thread ht, hsb]; rfl⟩
    · refine ⟨_, releaseComplete_sys ht ho hq hsb hrun, ?_, ?_, ?_⟩
      · rw [popSb_thread (State.thread_setThread_same _ _ _ _), hsb]
        rfl
      · rw [popSb_mem, State.setThread_mem, hostRead_mem]
      · rw [popSb_out, State.setThread_out, hostRead_out]
  · intro n r p hn hst hp hf hsrc
    refine ⟨fun op w sg y b e hacc => ?_, fun op v hacc hq => ⟨fun hstep => ?_, fun w s1 hstep => ?_⟩⟩
    · exact atomicUnitStep_serves hn hst hp hsrc (by rw [hacc, serve_amo hf])
    · exact syncAttempt_serves hq hst hp hsrc (by rw [hacc, serve_sync_none hf hstep])
    · exact syncAttempt_serves hq hst hp hsrc (by rw [hacc, serve_sync_some hf hstep])
  · intro n r p m hn hst hacc hsrc hreg d s1 htr hf hd
    exact homeAgentRequest_read hn hst hacc hsrc hreg htr hf hd
  · intro n i hn hic hik hk htw hd hl
    refine ⟨fun ho => ?_, fun code st ho hrun hr link => ?_⟩
    · exact ⟨_, storeAck_counts hn ht hic hik hk htw hd hl ho, State.thread_setThread_same _ _ _ _, rfl, rfl⟩
    · exact ⟨_, lateRefusal_stopped hn ht hic hik hk htw hd hl ho hrun hr, rfl, State.thread_setThread_same _ _ _ _⟩
  · rintro n r v _ hn hst hacc hsrc rfl
    exact ⟨hostAtomicopCompletion_nobody hn hst hacc hsrc (.old v), hostAtomicopCompletion_nobody hn hst hacc hsrc .refused⟩
  · intro n r v hn hst hacc hsrc htw hk
    have hex := hostAtomicopCompletion_delivers hn hst hacc hsrc
    have hdel : ∀ (u : State) (a : Reply), u.thread c k = some t → u.deliverTo c k a = _ := fun u a hu => deliverTo_unpaired hu hk htw a
    exact ⟨(hex (.old v)).trans (congrArg _ (hdel (s.dropReq n) _ ht)),
      (hex .refused).trans (congrArg _ (hdel ((s.dropReq n).enterRoute r.addr) _ ht)),
      (hex .noPath).trans (congrArg _ (hdel (s.dropReq n) _ ht))⟩
  · intro i st p ext hs hwr hlen htot _ hal htw hx hfill hm hf
    exact streamReadAhead_reads ht hs hwr hlen htot hal htw hx hfill hm hf
end

section
/-! SUPPORT. A context that is being moved issues no instruction outside PARK (13 R389). -/

namespace Sys2Proof.Machine

/-- A READY thread at head 1 of a line of two nops, which it has entered. -/
def nopThread : Thread := { pc := 2, line := some ⟨0, 0x040004001000#512⟩ }

/-- The thread in slot 0 of core 512, whose context is being moved and is in DRAIN, with the cycle of the core next in the agenda. -/
def movingState : State := { State.reset with
  agenda := [.cycle 512], watch := ⟨.active, none⟩
  cores := [(512, { ctx := some 1, slots := [(0, nopThread)] })]
  ctxs := [(1, { cores := [512], migrating := true })]
  migrations := [{ ctx := 1, target := 0, phase := .drain, tstart := 0, timeout := 0, report := 0 }] }

/-- Where an outcome leaves the thread of core 512, slot 0. -/
def pcOf : Host.Outcome State Fault Refusal → Option Word
  | .next s => (s.thread 512 0).map (·.pc)
  | _ => none

theorem pcOf_step_movingState : pcOf (step movingState) = some 2 := by decide +kernel

end Sys2Proof.Machine
end

section
open Sys2Proof Sys2Proof.Machine

/-- Refutes O57: its premises admit a READY thread, at a nop, of a context that is in DRAIN. The core is on, and its cycle issues
nothing, for the threads of a moving context run in PARK alone (R389). -/
theorem not_stepRunsDecoded : ¬ Obligations.StepRunsDecoded := by
  unfold Obligations.StepRunsDecoded
  intro h
  have hstep := h movingState 512 [] nopThread 0x0400#16 0 (.nop 0) ⟨0, 0x040004001000#512⟩ rfl (by decide +kernel) (by decide +kernel)
    (by decide +kernel) (by decide +kernel) (by decide +kernel) rfl (by decide +kernel) rfl rfl rfl (by decide +kernel) (by decide +kernel) rfl
  have hpc := congrArg pcOf hstep
  rw [pcOf_step_movingState] at hpc
  exact absurd hpc (by decide +kernel)
end

section
/-! SUPPORT. A result that the divider holds until its cycle (03 R96; 04 R101). -/

namespace Sys2Proof.Machine
open Exec

/-- The thread that a unit's result leaves, ready at the line the result has entered. -/
def Result.resumed (r : Result) (t : Thread) (l : Line) : Thread :=
  Exec.Thread.done { t with
    g := r.g, pred := r.pred, v := r.v, m := r.m, fpctl := r.fpctl, streams := r.streams, sb := t.sb ++ r.sb, pending := none } r.pc l r.done

section
variable {s : State} {c k : Nat} {t : Thread} {r : Result}

theorem thread_install {l : Line} (hl : r.line = some l) (hstep : t.step = false) :
    (s.install c k t r).thread c k = some (r.resumed t l) := by
  simp [State.install, hl, stepStop, stopAfter, hstep, Result.resumed]

theorem dividerComplete_installs (ht : s.thread c k = some t) (hp : t.pending = some r) (hr : r.sfu = false)
    (hc : r.done ≤ (s.core c).cycle) : exec (.dividerComplete c k) s = .next (s.install c k t r) := by
  show execDividerComplete c k s = _
  have hdue : ¬(r.sfu = true ∨ (s.core c).cycle < r.done) := by simp [hr, hc]
  simp only [execDividerComplete, ht, hp, if_neg hdue, event]

theorem dividerComplete_refused (ht : s.thread c k = some t) (hp : t.pending = some r) (hc : (s.core c).cycle < r.done) :
    exec (.dividerComplete c k) s = .refused (.cannotOccur "DIVIDER_COMPLETE") := by
  show execDividerComplete c k s = _
  simp only [execDividerComplete, ht, hp, if_pos (Or.inr hc), event]

/-- The result is written from its own cycle on. -/
theorem dividerComplete_from {l : Line} {n : Nat} (ht : s.thread c k = some t) (hp : t.pending = some r) (hr : r.sfu = false)
    (hl : r.line = some l) (hstep : t.step = false) (hn : r.done ≤ n) :
    ∃ s2, exec (.dividerComplete c k) (s.updCore c fun x => { x with cycle := n }) = .next s2
      ∧ s2.thread c k = some (r.resumed t l) :=
  ⟨_, dividerComplete_installs ((thread_updCore_slots _ rfl).trans ht) hp hr (by rwa [State.core_updCore_same]), thread_install hl hstep⟩

theorem dividerComplete_before {n : Nat} (ht : s.thread c k = some t) (hp : t.pending = some r) (hn : n < r.done) :
    exec (.dividerComplete c k) (s.updCore c fun x => { x with cycle := n }) = .refused (.cannotOccur "DIVIDER_COMPLETE") :=
  dividerComplete_refused ((thread_updCore_slots _ rfl).trans ht) hp (by rwa [State.core_updCore_same])

end

namespace Exec
variable {s : State} {c k : Nat} {t : Thread} {g : Guard} {a b d : Reg}

/-- What a held result leaves: the thread of the instruction itself, without the reservations of the one that waited for it. -/
theorem heldResult_resumed {e : Env} {l : Line} {s' : State} {sfu : Bool} {lat : Nat} {pc : Word} {x : Vector Word 24} {f : Word}
    {p q : List Chan} (hth : e.th = { t with g := x, fpctl := f })
    (hkeep : e.keep.thread e.core e.slot = some { t with heldPops := p, heldRoom := q }) (u : Option Result) (w : Run) :
    (heldResult e s' l pc sfu lat).resumed { t with heldPops := p, heldRoom := q, pending := u, run := w } l
      = Thread.done { e.th with pending := none } pc l ((s'.core e.core).cycle + lat) := by
  simp [Result.resumed, heldResult, Thread.done, hkeep, hth]

/-- A program that runs to its end and leaves general registers and flags with a unit parks, and the unit completes it. -/
theorem completesAt_of_unit {i : Instr} {body : Exec Next} {e : Env} {l : Line} {s' : State} {lat : Nat} {x : Vector Word 24} {f : Word}
    (hx : exec i s = runThread g body s) (hi : Issues s c k t g) (hb : EStateM.run body (start s c k t) = .ok .advance e)
    (hc : e.core = c) (hk : e.slot = k) (hr : e.rowEnd = false)
    (hu : (e.unit <|> (if 16 < e.lat then some (false, e.lat) else none)) = some (false, lat))
    (hkeep : Held (start s c k t) e.keep) (hth : e.th = { t with g := x, fpctl := f })
    (hl : lineAt e.s e.core e.th (nextHead t) = some (l, s')) :
    CompletesAt i s c k e.th (nextHead t) l ((s'.core e.core).cycle + lat) := by
  subst hc hk
  have hpc : nextHead e.th = nextHead t := by rw [hth]; rfl
  have hentered : e.th.entered = none := by rw [hth]; exact hi.entered
  obtain ⟨p, q, hold⟩ := start_thread hi hkeep
  let r := heldResult e s' l (nextHead t) false lat
  have hrun := runThread_held hi hb hr hu hentered (hpc ▸ hl)
  simp only [Bool.false_eq_true, if_false, State.updThread_some _ _ hold, hpc] at hrun
  have ht1 := State.thread_setThread_same e.keep e.core e.slot
    { t with heldPops := p, heldRoom := q, pending := some r, run := .parked .unit 0 0 }
  refine ⟨_, t, _, hx.trans hrun, hi.here, ht1, rfl, rfl, rfl, rfl, rfl, fun n hn => ?_, fun n hn => ?_⟩
  · rw [← heldResult_resumed hth hold (some r) (.parked .unit 0 0)]
    exact dividerComplete_from ht1 rfl rfl rfl hi.step hn
  · exact dividerComplete_before ht1 rfl hn

/-! ### Divisions (R95, R96) -/

theorem divide_ok (f : Word → Word → Word) (lat : Word → Word → Nat) (h : fieldsReady s c k t [a, b] [d] = true) :
    ∃ keep pops pushes, Held (start s c k t) keep ∧ EStateM.run (divide d a b f lat) (start s c k t) = .ok .advance { start s c k t with
      s := (result s c k t [a, b] d (op2 f)).1, th := (result s c k t [a, b] d (op2 f)).2, keep := keep, pops := pops, pushes := pushes
      unit := some (false, op2 lat (takeFields s c k t [a, b]).1) } := by
  obtain ⟨keep, pops, hheld, hops⟩ := operands_held (e := start s c k t) h rfl
  obtain ⟨pushes, hw⟩ := write_ok (w := op2 f (takeFields s c k t [a, b]).1) (e := { start s c k t with
      s := (takeFields s c k t [a, b]).2, keep := keep, pops := pops, unit := some (false, op2 lat (takeFields s c k t [a, b]).1) })
    (fieldsReady_dst h (List.mem_singleton.mpr rfl)) rfl
  refine ⟨keep, pops, pushes, hheld, ?_⟩
  unfold divide
  rw [bind_ok (src2_of hops)]
  simp only
  rw [bind_ok (modify_ok _ _)]
  exact bind_ok hw

theorem divide_completesAt {i : Instr} {f : Word → Word → Word} {lat : Word → Word → Nat} {l : Line} {s' : State}
    (hx : exec i s = runThread g (divide d a b f lat) s) (hi : Issues s c k t g) (h : fieldsReady s c k t [a, b] [d] = true)
    (hl : lineAt (result s c k t [a, b] d (op2 f)).1 c (result s c k t [a, b] d (op2 f)).2 (nextHead t) = some (l, s')) :
    CompletesAt i s c k (result s c k t [a, b] d (op2 f)).2 (nextHead t) l
      ((s'.core c).cycle + op2 lat (takeFields s c k t [a, b]).1) := by
  obtain ⟨keep, pops, pushes, hheld, hb⟩ := divide_ok f lat h
  obtain ⟨x, hth⟩ := putField_thread c d (op2 f (takeFields s c k t [a, b]).1) ((takeFields s c k t [a, b]).2, t)
  exact completesAt_of_unit (f := t.fpctl) hx hi hb rfl rfl rfl rfl hheld hth hl

end Exec
end Sys2Proof.Machine
end

section
open Sys2Proof Sys2Proof.Machine Sys2Proof.Machine.Exec

/-- Settles O5: each form is a division, with its function and its latency, whose result its slot's divider holds. -/
theorem divisionForms : Obligations.DivisionForms := by
  unfold Obligations.DivisionForms
  intro s s' c k t g d a b l hi h _ latU latS done
  have divides : ∀ {i f lat}, exec i s = runThread g (divide d a b f lat) s → done i f lat := by
    intro i f lat hx hl
    obtain ⟨s1, t0, t1, hrun, ht0, ht1, hg, -, -, hpc, hpark, hfrom, hbefore⟩ := divide_completesAt hx hi h hl
    cases hi.here.symm.trans ht0
    exact ⟨s1, hrun, ⟨t1, ht1, hg, hpc, hpark⟩, hfrom, hbefore⟩
  exact ⟨divides rfl, divides rfl, divides rfl, divides rfl⟩
end
